-- ==== Sys2Proof/Word.lean ====
section
/-! DEFINITION. The word types of the machine and its plainest containers. -/

namespace Sys2Proof

/-- One byte. -/
abbrev Byte := BitVec 8
/-- One 32-bit register value or instruction word (R33). -/
abbrev W32 := BitVec 32
/-- One 64-bit value. -/
abbrev W64 := BitVec 64
/-- One format tag, code in 9:4 and aux in 3:0 (R245). -/
abbrev Tag := BitVec 10

/-- Sparse data by key: keys strictly rising, no entry equal to the container's default. -/
abbrev Sp (α : Type) := List (Nat × α)

end Sys2Proof
end

