-- ==== Sys2Proof/Syntax.lean ====
section
/-! DEFINITION. The syntax of Thiod instructions and of the steps of the Ozant package: the ONE inductive
`Instr` has a constructor for every row of the opcode table; operand records follow the classes of R33 to R49. -/
namespace Sys2Proof

/-- A source code of R35. `home`, `index` and `ones` are the special sources 0x85, 0x86 and 0x87 (R17);
`reserved` is any code that raises ILLEGAL_OPERAND in both sets (0x88 to 0xBF). -/
inductive Src where
  | reg (n : BitVec 7) | latch (n : BitVec 2) | zero | home | index | ones
  | reserved (c : BitVec 8) | bcast (n : BitVec 6)
deriving DecidableEq, Repr

/-- A guard: negate and predicate index (R22). -/
structure Guard where
  neg : Bool
  idx : BitVec 3
deriving DecidableEq, Repr

/-- The safe-point mask word (R48). -/
structure Mask where
  vec : BitVec 8
  uni : BitVec 8
  tiles : BitVec 8
  lcs : BitVec 3
  grp : Bool
  mus : Bool
  sets : BitVec 3
deriving DecidableEq, Repr

/-- What every instruction may carry: its form (R38), its guard (R22) and its safe-point mask word (R48). -/
structure Hdr where
  long : Bool := false
  guard : Option Guard := none
  sp : Option Mask := none
deriving DecidableEq, Repr

/-- The rnd field (R39). -/
inductive Rnd where
  | rne | rz | rs | dyn
deriving DecidableEq, Repr

/-- The arithmetic class (R39). -/
structure Alu where
  h : Hdr := {}
  w : Bool := false
  d : BitVec 7 := 0
  a : Src := .reg 0
  b : Src := .reg 0
  c : Src := .reg 0
  fmt : BitVec 6 := 0
  rnd : Rnd := .rne
  sat : Bool := false
  var : BitVec 2 := 0
deriving DecidableEq, Repr

/-- The immediate forms (R44): an arithmetic-class instruction whose second operand is the word that follows. -/
structure Imm where
  o : Alu := {}
  imm : W32 := 0
deriving DecidableEq, Repr

/-- The compare class (R34, R40). -/
structure Cmp where
  h : Hdr := {}
  cond : BitVec 3 := 0
  u : Bool := false
  p : BitVec 3 := 0
  a : Src := .reg 0
  b : Src := .reg 0
  c : Src := .reg 0
  fmt : BitVec 6 := 0
deriving DecidableEq, Repr

/-- ICMPI: a compare with the word that follows (R44, R282). -/
structure CmpImm where
  o : Cmp := {}
  imm : W32 := 0
deriving DecidableEq, Repr

/-- The order field (R41, R42). -/
inductive Order where
  | rlx | acq | rel | reserved
deriving DecidableEq, Repr

/-- Loads and the cache-control instructions of the memory class (R41). -/
structure Ld where
  h : Hdr := {}
  w : Bool := false
  d : BitVec 7 := 0
  a : Src := .reg 0
  b : Src := .zero
  tag : BitVec 6 := 0
  width : BitVec 3 := 2
  sx : Bool := false
  imm : Bool := false
  order : Order := .rlx
  scope : BitVec 3 := 0
deriving DecidableEq, Repr

/-- Stores of the memory class (R41): the value is `d` in short form and `val` in long form. -/
structure St where
  h : Hdr := {}
  d : BitVec 7 := 0
  a : Src := .reg 0
  b : Src := .zero
  val : Src := .reg 0
  width : BitVec 3 := 2
  sx : Bool := false
  imm : Bool := false
  order : Order := .rlx
  scope : BitVec 3 := 0
deriving DecidableEq, Repr

/-- The atomic class (R42). -/
structure Atm where
  h : Hdr := {}
  w : Bool := false
  d : BitVec 7 := 0
  a : Src := .reg 0
  b : Src := .reg 0
  c : Src := .reg 0
  kind : BitVec 4 := 0
  wide : Bool := false
  order : Order := .rlx
  scope : BitVec 3 := 2
deriving DecidableEq, Repr

/-- The mode class (R43): `mode` is the fmt field, `c` the control byte of R305. -/
structure Mode where
  h : Hdr := {}
  w : Bool := false
  d : BitVec 7 := 0
  a : Src := .reg 0
  b : Src := .reg 0
  c : BitVec 8 := 0
  mode : BitVec 6 := 0
  scope : BitVec 3 := 0
deriving DecidableEq, Repr

/-- The matrix class (R43): `second` is bits 21:16 of the extension word. -/
structure Mtx where
  h : Hdr := {}
  d : BitVec 7 := 0
  a : Src := .reg 0
  b : Src := .reg 0
  second : BitVec 6 := 0
  fmt : BitVec 6 := 0
  fusion : BitVec 3 := 0
  pair : Bool := false
  var : Bool := false
deriving DecidableEq, Repr

/-- TLD and TST (R41, R333). -/
structure Tmem where
  h : Hdr := {}
  d : BitVec 7 := 0
  a : Src := .reg 0
  b : Src := .zero
  tag : BitVec 6 := 0
  space : BitVec 2 := 0
  kc : BitVec 4 := 0
deriving DecidableEq, Repr

/-- BRA and BRU (R45): a predicate and a signed word offset. -/
structure Bra where
  h : Hdr := {}
  neg : Bool := false
  idx : BitVec 3 := 0
  off : BitVec 19 := 0
deriving DecidableEq, Repr

/-- MEET, JMP and CALL (R45). -/
structure Jmp where
  h : Hdr := {}
  off : BitVec 23 := 0
deriving DecidableEq, Repr

/-- JMPI and RET (R45). -/
structure Jind where
  h : Hdr := {}
  a : Src := .reg 0
  b : Src := .reg 0
deriving DecidableEq, Repr

/-- LOOP, LOOPI and BRK (R46). -/
structure Lop where
  h : Hdr := {}
  ctr : BitVec 2 := 0
  len : BitVec 9 := 0
  b : Src := .reg 0
  imm : W32 := 0
deriving DecidableEq, Repr

/-- ENG (R49): class bit, engine index and immediate of the ENG word; the function is the constructor. -/
structure Eng where
  h : Hdr := {}
  w : Bool := false
  d : BitVec 7 := 0
  a : Src := .reg 0
  b : Src := .reg 0
  c : Src := .reg 0
  cls : Bool := false
  idx : BitVec 6 := 0x3F
  imm : BitVec 15 := 0
deriving DecidableEq, Repr

/-- The words of an instruction whose extended opcode no map assigns (R38, R51, R53). -/
structure RawWords where
  w0 : W32
  w1 : W32
deriving DecidableEq, Repr

/-- The header fields of a Plierrov request (R446) and the endpoint that sent it (R445). `broken` stands for what the fields of
a request cannot show once its body has been read: a bit set that no row of R450 names, an operation or a register that
has no number in it, a message whose bytes are not as many as its header says. -/
structure Req where
  ep : Nat := 1
  seq : W32 := 0
  ctx : Nat := 0
  tag : W64 := 0
  ver : BitVec 8 := 1
  zero : BitVec 8 := 0
  length : Nat := 65536
  status : BitVec 16 := 0
  time : W64 := 0
  broken : Bool := false
deriving DecidableEq, Repr

/-- A place that keeps fault records (R99, R101): the kind, die and unit fields of the record. -/
structure Origin where
  kind : BitVec 3
  die : BitVec 3
  unit : BitVec 4
deriving DecidableEq, Repr

/-- One lane of one operand log entry of one core (R92). -/
structure LaneRef where
  core : Nat
  entry : Nat
  lane : Nat
deriving DecidableEq, Repr

/-- One group of one resident team. -/
structure GrpRef where
  team : Nat
  grp : Nat
deriving DecidableEq, Repr

/-- What an unreachable HOST or PEER slot keeps from its page (R77): a lane of an access, an engine operation, a fetch. -/
inductive SlotRef where
  | lane (l : LaneRef)
  | engine (op : Nat)
  | fetch (g : GrpRef)
  | held (id : Nat)
deriving DecidableEq, Repr

/-- What waits for package time (R83, R178): a group, a memory-side operation by its place among those in hand, or an access that its
home holds behind another or before a slot that is out of reach (R77, R82, R184). -/
inductive WaitRef where
  | group (g : GrpRef)
  | memOp (n : Nat)
  | held (id : Nat)
deriving DecidableEq, Repr

/-- What the controller measured over one interval (R422): milliwatts in all, tenths of a watt by part (R427). -/
structure Measure where
  pkg : Nat
  dies : List Nat
  parts : List Nat
deriving DecidableEq, Repr

/-- One protected word and what scrub found in it (R143). -/
inductive Flaw where
  | single | double
deriving DecidableEq, Repr

/-- Where a protected word stands (R141): a register or tile register with the group that holds it, a word of an array with the team whose
read, or whose engine operation's read, finds the error. -/
inductive Protected where
  | l1 (core : Nat) (sector : Nat) | reg (core : Nat) (team : Nat) (grp : Nat) | array (core : Nat) (addr : Nat) (team : Nat)
  | l2 (die : Nat) (word : Nat) | vault (die : Nat) (word : Nat) | slice (word : Nat) | hbm (home : Nat) (word : Nat)
deriving DecidableEq, Repr

/-- A firmware image as the configuration store holds it (R455, R456): its identifier, version, bytes and signature. -/
structure Image where
  id : W32 := 0
  version : W64 := 0
  bytes : List Byte := []
  signature : List Byte := []
deriving DecidableEq, Repr

/-- What dawn's steps meet in the outside world (R455): whether the security processor starts, the four firmware images, the training
of each part, the search for PTP lock, and the endpoints of the configuration image. -/
structure DawnInput where
  silent : Bool := false
  ioDie : Image := {}
  power : Image := {}
  faultService : Image := {}
  memorySide : Image := {}
  cap : List Nat
  deadColumns : List Nat
  deadPorts : List Nat
  ptpLocked : Bool
  config : Option (Nat × Nat × Nat)
deriving DecidableEq, Repr

/-- A chunk arriving from a peer (R167 to R169): the sender's context identifier, receive slot, byte offset, bytes,
and the reduction of R169 with its format when the chunk is a REDUCE. -/
structure Chunk where
  ctx : Nat
  slot : Nat
  off : Nat
  data : List Byte
  reduce : Option (BitVec 2 × BitVec 6)
deriving DecidableEq, Repr

/-- The access of a peer device to one of this package's pages (R173). -/
inductive PeerAccess where
  | read (ia : Nat) (len : Nat) | write (ia : Nat) (data : List Byte)
deriving DecidableEq, Repr

/-- The limits message (R450): a change mask and the values it names. -/
structure LimitsBody where
  mask : BitVec 5
  cap : Nat
  ramp : Nat
  skew : Nat
  floors : List Nat
  ceilings : List Nat
deriving DecidableEq, Repr


/-- Every row of the opcode table: the instructions of programs first given by their operands, and the steps of the
package given by what the outside world or the scheduler supplies to them. -/
inductive Instr where
  /-- V-set NOP does nothing and pushes no latch entry. (R280) -/
  | nop (o : Alu)
  /-- U-set NOP does nothing and pushes no latch entry. (R280) -/
  | nopU (o : Alu)
  /-- Copies a source into a vector register and keeps the source's tag (class SAME). (R280) -/
  | mov (o : Alu)
  /-- Copies a source into a uniform register. (R280) -/
  | movU (o : Alu)
  /-- Adds two 32-bit integers per lane, wrapping or saturating. (R275) -/
  | iadd (o : Alu)
  /-- Adds two 32-bit uniform integers. (R275) -/
  | iaddU (o : Alu)
  /-- Subtracts two 32-bit integers per lane. (R275) -/
  | isub (o : Alu)
  /-- Subtracts two 32-bit uniform integers. (R275) -/
  | isubU (o : Alu)
  /-- Gives the low 32 bits of an integer product per lane. (R275) -/
  | imul (o : Alu)
  /-- Gives the low 32 bits of a uniform integer product. (R275) -/
  | imulU (o : Alu)
  /-- Gives the high 32 bits of the signed product per lane. (R275) -/
  | imulh (o : Alu)
  /-- Gives the high 32 bits of the signed uniform product. (R275) -/
  | imulhU (o : Alu)
  /-- Gives the high 32 bits of the unsigned product per lane. (R275) -/
  | imulhu (o : Alu)
  /-- Gives the high 32 bits of the unsigned uniform product. (R275) -/
  | imulhuU (o : Alu)
  /-- Gives the signed minimum per lane. (R275) -/
  | imin (o : Alu)
  /-- Gives the signed uniform minimum. (R275) -/
  | iminU (o : Alu)
  /-- Gives the signed maximum per lane. (R275) -/
  | imax (o : Alu)
  /-- Gives the signed uniform maximum. (R275) -/
  | imaxU (o : Alu)
  /-- Gives the unsigned minimum per lane. (R275) -/
  | iminu (o : Alu)
  /-- Gives the unsigned uniform minimum. (R275) -/
  | iminuU (o : Alu)
  /-- Gives the unsigned maximum per lane. (R275) -/
  | imaxu (o : Alu)
  /-- Gives the unsigned uniform maximum. (R275) -/
  | imaxuU (o : Alu)
  /-- Gives the bitwise AND per lane. (R275) -/
  | and (o : Alu)
  /-- Gives the bitwise AND of uniforms. (R275) -/
  | andU (o : Alu)
  /-- Gives the bitwise OR per lane. (R275) -/
  | or (o : Alu)
  /-- Gives the bitwise OR of uniforms. (R275) -/
  | orU (o : Alu)
  /-- Gives the bitwise XOR per lane. (R275) -/
  | xor (o : Alu)
  /-- Gives the bitwise XOR of uniforms. (R275) -/
  | xorU (o : Alu)
  /-- Shifts left per lane; a shift of 32 or more gives 0. (R275) -/
  | shl (o : Alu)
  /-- Shifts a uniform left. (R275) -/
  | shlU (o : Alu)
  /-- Shifts right with zero fill per lane. (R275) -/
  | shr (o : Alu)
  /-- Shifts a uniform right with zero fill. (R275) -/
  | shrU (o : Alu)
  /-- Shifts right with sign fill per lane. (R275) -/
  | sar (o : Alu)
  /-- Shifts a uniform right with sign fill. (R275) -/
  | sarU (o : Alu)
  /-- Compares integers per lane into a p predicate. (R282) -/
  | icmp (o : Cmp)
  /-- Compares uniform integers into a q predicate. (R282) -/
  | icmpU (o : Cmp)
  /-- Compares a uniform with an immediate into a q predicate. (R282) -/
  | icmpi (o : CmpImm)
  /-- Selects per lane between two sources by a p predicate; exists in long form only. (R281) -/
  | sel (o : Alu)
  /-- Selects between two uniforms by a q predicate; long form only. (R281) -/
  | selU (o : Alu)
  /-- Adds F32 or F64 values per lane with one rounding. (R283) -/
  | fadd (o : Alu)
  /-- Subtracts F32 or F64 values per lane. (R283) -/
  | fsub (o : Alu)
  /-- Multiplies F32 or F64 values per lane. (R283) -/
  | fmul (o : Alu)
  /-- Gives the floating minimum, preferring a non-NaN source. (R284) -/
  | fmin (o : Alu)
  /-- Gives the floating maximum, preferring a non-NaN source. (R284) -/
  | fmax (o : Alu)
  /-- Compares floating values per lane into a p predicate. (R282) -/
  | fcmp (o : Cmp)
  /-- Gives the correctly rounded F32 reciprocal. (R285) -/
  | rcp (o : Alu)
  /-- Gives the correctly rounded F32 reciprocal square root. (R285) -/
  | rsq (o : Alu)
  /-- Gives the correctly rounded F32 power of two. (R285) -/
  | exp2 (o : Alu)
  /-- Gives the correctly rounded F32 base-2 logarithm. (R285) -/
  | log2 (o : Alu)
  /-- Loads from global space per lane through window, caches and home. (R145) -/
  | ld (o : Ld)
  /-- Loads once for the group from global space into a uniform register. (R145) -/
  | ldU (o : Ld)
  /-- Stores to global space per lane and returns a completion time. (R145) -/
  | st (o : St)
  /-- Stores a uniform value once to global space. (R145) -/
  | stU (o : St)
  /-- Loads from local or remote scratchpad, parking on presence. (R145) -/
  | lds (o : Ld)
  /-- Stores to local or remote scratchpad. (R145) -/
  | sts (o : St)
  /-- Exchanges values between lanes of a block by mode. (R307) -/
  | lxch (o : Mode)
  /-- Gathers a predicate bit from each contributing lane of a block. (R308) -/
  | poll (o : Mode)
  /-- Redirects the current set's threads one by one on a predicate, possibly parting the group. (R295) -/
  | bra (o : Bra)
  /-- Lane branch in long form that raises UNIFORM_VIOLATION if it would part the group. (R295) -/
  | braNodiv (o : Bra)
  /-- Sets the meeting register of every ACTIVE thread to its target. (R298) -/
  | meet (o : Jmp)
  /-- V-set EXIT makes every selected ACTIVE thread EXITED. (R299) -/
  | exit (o : Alu)
  /-- U-set EXIT makes every thread of the current set EXITED. (R299) -/
  | exitU (o : Alu)
  /-- Counts set bits per lane. (R276) -/
  | popc (o : Alu)
  /-- Counts set bits of a uniform. (R276) -/
  | popcU (o : Alu)
  /-- Counts leading zeros per lane. (R276) -/
  | clz (o : Alu)
  /-- Counts leading zeros of a uniform. (R276) -/
  | clzU (o : Alu)
  /-- Forms a 64-bit address from a pair plus a scaled offset per lane. (R278) -/
  | lea (o : Alu)
  /-- Forms a 64-bit uniform address. (R278) -/
  | leaU (o : Alu)
  /-- Gives the integer absolute value per lane. (R276) -/
  | iabs (o : Alu)
  /-- Gives the integer absolute value of a uniform. (R276) -/
  | iabsU (o : Alu)
  /-- Negates an integer per lane. (R276) -/
  | ineg (o : Alu)
  /-- Clears the sign bit of a floating value. (R284) -/
  | fabs (o : Alu)
  /-- Inverts the sign bit of a floating value. (R284) -/
  | fneg (o : Alu)
  /-- Loads from a cluster vault on the issuing die. (R145) -/
  | ldv (o : Ld)
  /-- Stores to a cluster vault on the issuing die. (R145) -/
  | stv (o : St)
  /-- Performs an atomic on global memory per lane at the place its scope selects. (R150) -/
  | atom (o : Atm)
  /-- Performs one uniform atomic on global memory. (R150) -/
  | atomU (o : Atm)
  /-- Reads the presence count of a scratchpad line. (R152) -/
  | pres (o : Ld)
  /-- Rounds a floating value to an integral value in its format. (R284) -/
  | fint (o : Alu)
  /-- Gives the bitwise complement per lane. (R276) -/
  | not (o : Alu)
  /-- Gives the bitwise complement of a uniform. (R276) -/
  | notU (o : Alu)
  /-- Reverses the bits per lane. (R276) -/
  | brev (o : Alu)
  /-- Gives the correctly rounded F32 sine. (R285) -/
  | sin (o : Alu)
  /-- Gives the correctly rounded F32 cosine. (R285) -/
  | cos (o : Alu)
  /-- Gives the correctly rounded F32 hyperbolic tangent. (R285) -/
  | tanh (o : Alu)
  /-- Gives the correctly rounded F32 square root. (R285) -/
  | sqrt (o : Alu)
  /-- Writes a 32-bit immediate into a vector register, tagged B32. (R280) -/
  | movi (o : Imm)
  /-- Writes a 32-bit immediate into a uniform register. (R280) -/
  | moviU (o : Imm)
  /-- Adds an immediate as IADD does. (R280) -/
  | iaddi (u : Bool) (o : Imm)
  /-- Multiplies by an immediate as IMUL does. (R280) -/
  | imuli (u : Bool) (o : Imm)
  /-- ANDs with an immediate. (R280) -/
  | andi (u : Bool) (o : Imm)
  /-- ORs with an immediate. (R280) -/
  | ori (u : Bool) (o : Imm)
  /-- Multiplies by an F32 immediate as FMUL does. (R44) -/
  | fmuli (o : Imm)
  /-- Adds an F32 immediate as FADD does. (R44) -/
  | faddi (o : Imm)
  /-- Fused multiply-add with one rounding. (R283) -/
  | fma (o : Alu)
  /-- Integer multiply-accumulate per lane. (R277) -/
  | imac (o : Alu)
  /-- Uniform integer multiply-accumulate. (R277) -/
  | imacU (o : Alu)
  /-- Adds 64-bit pairs per lane. (R278) -/
  | iadd64 (o : Alu)
  /-- Adds 64-bit uniform pairs. (R278) -/
  | iadd64U (o : Alu)
  /-- Subtracts 64-bit pairs per lane. (R278) -/
  | isub64 (o : Alu)
  /-- Subtracts 64-bit uniform pairs. (R278) -/
  | isub64U (o : Alu)
  /-- Extracts a bit field, optionally sign-extended. (R279) -/
  | bfx (o : Alu)
  /-- Extracts a bit field of a uniform. (R279) -/
  | bfxU (o : Alu)
  /-- Inserts a bit field. (R279) -/
  | bfi (o : Alu)
  /-- Inserts a bit field into a uniform. (R279) -/
  | bfiU (o : Alu)
  /-- Writes a one-hot class mask of a floating value. (R284) -/
  | fclass (o : Alu)
  /-- Gives the correctly rounded F32 logistic function. (R285) -/
  | logistic (o : Alu)
  /-- Converts one element between formats with an optional scale. (R286) -/
  | cvt (o : Alu)
  /-- Quantises P registers into one packed register under a scale. (R287) -/
  | qnt (o : Alu)
  /-- Unpacks a packed register into P F32 registers under a scale. (R288) -/
  | dqn (o : Alu)
  /-- Reduces the largest magnitude over lanes, blocks or the group. (R289) -/
  | amax (o : Alu)
  /-- Looks up two codebook codes into BF16 x2. (R291) -/
  | cblk (o : Alu)
  /-- Packed fused multiply-add on BF16 or F16 pairs. (R292) -/
  | pfma (o : Alu)
  /-- Packed add on BF16 or F16 pairs. (R292) -/
  | padd (o : Alu)
  /-- Packed multiply on BF16 or F16 pairs. (R292) -/
  | pmul (o : Alu)
  /-- Performs an atomic on a scratchpad location. (R150) -/
  | atoms (o : Atm)
  /-- Performs an atomic reduction on global memory with no return value. (R150) -/
  | red (o : Atm)
  /-- Reduces or scans values over the lanes of a block. (R309) -/
  | lreduce (o : Mode)
  /-- Compares each lane's value with the other lanes of its block. (R310) -/
  | peers (o : Mode)
  /-- Holds the domain's threads, checks them, and repacks them into key-uniform groups. (R314) -/
  | regroup (o : Alu)
  /-- Byte dot product plus accumulator per lane. (R277) -/
  | bdot (o : Alu)
  /-- Converts a float to a one-cell ring-set mask. (R358) -/
  | ycvt (o : Alu)
  /-- Ring-set sum through the ADD table. (R353) -/
  | yadd (o : Alu)
  /-- Ring-set difference through NEG and ADD. (R353) -/
  | ysub (o : Alu)
  /-- Ring-set product through the MUL table. (R353) -/
  | ymul (o : Alu)
  /-- Ring-set quotient through the DIV table. (R353) -/
  | ydiv (o : Alu)
  /-- Ring-set negation. (R355) -/
  | yneg (o : Alu)
  /-- Ring-set reciprocal. (R355) -/
  | yrec (o : Alu)
  /-- Ring-set square. (R355) -/
  | ysqr (o : Alu)
  /-- Union of two ring-set masks. (R356) -/
  | yuni (o : Alu)
  /-- Intersection of two ring-set masks. (R356) -/
  | yint (o : Alu)
  /-- Decides a relation between two ring-sets. (R363) -/
  | ycmp (o : Alu)
  /-- Gives the hull of a ring-set mask. (R357) -/
  | yhull (o : Alu)
  /-- Packs the hull of a mask into a connected code. (R359) -/
  | ypack (o : Alu)
  /-- Unpacks a connected code into a mask. (R360) -/
  | yunpk (o : Alu)
  /-- Gives an F32 representative of a ring-set. (R361) -/
  | ymid (o : Alu)
  /-- Writes a summary word of a ring-set. (R362) -/
  | ytest (o : Alu)
  /-- Applies a unary ring-set function selected by b. (R355) -/
  | ymap (o : Alu)
  /-- Ring-set multiply then add. (R354) -/
  | yfma (o : Alu)
  /-- Signs a muster once the group's tile operations complete. (R330) -/
  | msign (o : Mtx)
  /-- Runs a plane-array product over K-chunks into an accumulator tile. (R338) -/
  | mma (o : Mtx)
  /-- Loads 4,096 bytes into a tile register and sets its tag and kc. (R333) -/
  | tld (o : Tmem)
  /-- Stores a tile register's 4,096 bytes to memory. (R333) -/
  | tst (o : Tmem)
  /-- Zeroes a tile and tags it as an accumulator. (R335) -/
  | tzero (o : Mtx)
  /-- Converts an accumulator tile into operand blocks. (R341) -/
  | tcvt (o : Mtx)
  /-- Writes the largest magnitude of a tile, row or column per lane. (R342) -/
  | tamax (o : Mtx)
  /-- Waits for tile operations or for a muster to complete. (R332) -/
  | mwait (o : Mtx)
  /-- Moves the whole current set to a target on a q predicate. (R296) -/
  | bru (o : Bra)
  /-- Moves the whole current set to a target unconditionally. (R296) -/
  | jmp (o : Jmp)
  /-- Pushes the return address and jumps, only while converged. (R297) -/
  | call (o : Jmp)
  /-- Pops the return stack and jumps, only while converged. (R297) -/
  | ret (o : Jind)
  /-- Jumps the current set to the address in a uniform pair. (R296) -/
  | jmpi (o : Jind)
  /-- Opens a zero-overhead loop level with a count from a uniform source. (R301) -/
  | loop (o : Lop)
  /-- Opens a zero-overhead loop level with an immediate count. (R301) -/
  | loopi (o : Lop)
  /-- Closes the named loop level and every level inside it. (R302) -/
  | brk (o : Lop)
  /-- Forces a switch point: rotates the group and clears its latches. (R300) -/
  | yield (o : Alu)
  /-- Arrives at a team barrier and waits for its completion. (R371) -/
  | barSync (o : Mode)
  /-- Arrives at a team barrier without waiting. (R371) -/
  | barArrive (o : Mode)
  /-- Waits for the completion of the group's outstanding arrival. (R371) -/
  | barWait (o : Mode)
  /-- Arrives at, or waits on, a gang barrier. (R372) -/
  | gbar (o : Mode)
  /-- Sets a stage-ring phase bit as a team-scope release. (R374) -/
  | stgw (o : Mode)
  /-- Waits until a stage-ring phase bit holds a value. (R374) -/
  | stga (o : Mode)
  /-- Orders the group's memory instructions at a scope. (R156) -/
  | fence (o : Mode)
  /-- Sets or unsets a sub-group partition register. (R304) -/
  | part (o : Alu)
  /-- Reads a CSR or window word into a uniform pair. (R366) -/
  | csrr (o : Alu)
  /-- Writes a writable CSR or raises PRIVILEGE. (R367) -/
  | csrw (o : Alu)
  /-- Reads package time or the team's cycle count. (R368) -/
  | clk (o : Alu)
  /-- Sets the team's burn level from the next window. (R377) -/
  | burn (o : Alu)
  /-- Requests a shunt grant from the column's budget. (R379) -/
  | shunt (o : Alu)
  /-- Reads the core's current estimate word. (R378) -/
  | curr (o : Alu)
  /-- Raises SOFTWARE with a data word. (R383) -/
  | trap (o : Alu)
  /-- A team leader launches a child grid from a launch packet. (R381) -/
  | launch (o : Alu)
  /-- Parks until a child grid retires, then writes its status. (R382) -/
  | gwait (o : Alu)
  /-- Sets the team's barrier watchdog limit. (R375) -/
  | wdog (o : Alu)
  /-- Delivers pending increments and reads an exception counter. (R369) -/
  | fcnt (o : Alu)
  /-- Loads a codebook slot from scratchpad. (R290) -/
  | cbld (o : Alu)
  /-- Loads and validates a ring slot and builds its tables. (R346) -/
  | yring (o : Alu)
  /-- Reads the group's completion horizon. (R157) -/
  | ctime (o : Alu)
  /-- Prefetches a line into L2 or L1; never traps. (R153) -/
  | pref (o : Ld)
  /-- Pins a die L2 line for the context and writes a status. (R155) -/
  | lockl (o : Ld)
  /-- Removes a die L2 line lock and writes a status. (R155) -/
  | unlockl (o : Ld)
  /-- Drops clean sectors of a line from L1 and die L2. (R154) -/
  | cinv (o : Ld)
  /-- Writes a line's dirty bytes to their home. (R154) -/
  | cwb (o : Ld)
  /-- Requests or queries a change of operating class. (R380) -/
  | opcl (o : Alu)
  /-- Arms a muster with an expected signature count. (R329) -/
  | mset (o : Mtx)
  /-- Reads a muster's state. (R331) -/
  | mstat (o : Mtx)
  /-- Reads a register's format tag. (R293) -/
  | tagr (o : Alu)
  /-- Writes a register's format tag and returns the old one. (R293) -/
  | tagw (o : Alu)
  /-- Copies eight uniforms into a shape slot. (R163) -/
  | engShape (o : Eng)
  /-- Starts a copy-engine row copy. (R165) -/
  | engCopy (o : Eng)
  /-- Starts a copy into bit-plane blocks in TENSOR banks. (R165) -/
  | engPlane (o : Eng)
  /-- Starts a gather of elements from a list of addresses. (R165) -/
  | engGather (o : Eng)
  /-- Starts a scatter of elements to a list of addresses. (R165) -/
  | engScatter (o : Eng)
  /-- Starts a fill with a 32-bit pattern. (R165) -/
  | engFill (o : Eng)
  /-- Starts the inverse of PLANE from TENSOR banks. (R165) -/
  | engUnplane (o : Eng)
  /-- Starts or binds one chunk sent to a peer's receive slot. (R168) -/
  | engSend (o : Eng)
  /-- Posts a receive buffer in a receive slot with a counter. (R167) -/
  | engRecv (o : Eng)
  /-- Arms a trigger slot on a counter and threshold, firing at once if met. (R170) -/
  | engArm (o : Eng)
  /-- Reads a context counter, acting as a SYSTEM-scope acquire. (R171) -/
  | engCntrd (o : Eng)
  /-- Adds a signed value to a context counter with clamping. (R171) -/
  | engCntadd (o : Eng)
  /-- Starts or binds a chunk that the receiver combines by SUM, MAX or MIN. (R169) -/
  | engReduce (o : Eng)
  /-- Cancels an operation named by a token. (R162) -/
  | engCancel (o : Eng)
  /-- Parks until an operation ends, then writes its status. (R161) -/
  | engWait (o : Eng)
  /-- Writes an operation's status at once. (R161) -/
  | engQuery (o : Eng)
  /-- A word with an unassigned extended opcode (V-set 0x70-0xFF, U-set 0x50-0xFF, or 0x3F) is decoded and raises ILLEGAL_INSTRUCTION. (R51) -/
  | unassignedExtendedOpcode (u : Bool) (r : RawWords)
  /-- Sequential flow past a body's last word decrements the counter and loops back or closes the level. (R301) -/
  | loopBack (g : GrpRef)
  /-- A lane's load data arrives and writes its part of the register and tag. (R95) -/
  | loadDataReturn (l : LaneRef)
  /-- An access reaching its home walks the page table and ends in one outcome. (R77) -/
  | pageWalk (l : LaneRef)
  /-- A not-present or WP response reaches the issuing unit, is filtered and reported to its stage. (R91) -/
  | faultResponse (l : LaneRef)
  /-- A store, CWB or write-back is accepted at its place and returns its completion time, raising the group's horizon and freeing its log entry. (R146) -/
  | storeComplete (l : LaneRef)
  /-- A queued TCVT, TZERO, TAMAX or local TLD/TST finishes writing its tile, releasing waiting readers, writers, MSIGN and MWAIT. (R326) -/
  | tileOperationComplete (core : Nat) (op : Nat)
  /-- An MMA's last chunk is written and its readers may proceed. (R338) -/
  | mmaComplete (core : Nat)
  /-- Compares both mates' signatures of MMA.PAIR and fixes a common start cycle. (R339) -/
  | mateAgreement (core : Nat)
  /-- An operation's last byte in a scratchpad or TENSOR line is written and the line's presence count falls. (R123) -/
  | engineWriteProgress (op : Nat)
  /-- An engine operation ends with a status, releasing range locks and presence counts. (R160) -/
  | engineOperationEnd (op : Nat) (overrun : Bool)
  /-- An instruction fetch faults, parks its group and joins its cluster stage as a waiter. (R99) -/
  | fetchFault (g : GrpRef)
  /-- A fault record's 512-cycle merge window closes and the record is posted to the fault queue. (R100) -/
  | mergeWindowClose (o : Origin) (id : Nat)
  /-- A stage reposts a refused record every 4,096 cycles. (R100) -/
  | faultQueueRetry (o : Origin) (id : Nat)
  /-- The firmware decides a record from the fault queue, mapping a pool page or refusing. (R480) -/
  | firmwareFaultService
  /-- RESUME reaches a record's origin, releasing or failing every waiter. (R103) -/
  | resume (word : W32)
  /-- A package-scope release performs at home and sets its release record. (R182) -/
  | releaseAtHome (l : LaneRef)
  /-- A package-scope acquire reads at home, pulls unpulled dies and waits for settlement. (R183) -/
  | acquireAtHome (l : LaneRef)
  /-- A die L2 sends its dirty bytes with epoch at most e to their homes and answers. (R183) -/
  | pull (die : Nat) (epoch : W32)
  /-- A die asks the front end for the next team and the front end grants it. (R400) -/
  | dispatchRequest (die : Nat)
  /-- A placed team is initialised and its first group may issue. (R228) -/
  | teamStart (team : Nat)
  /-- A team whose threads exited and work drained frees its core resources. (R234) -/
  | teamRetire (team : Nat)
  /-- A grid whose teams and children retired performs the release and reports completion. (R234) -/
  | gridRetire (launch : Nat)
  /-- A ready graph node fires, taking input tokens and reserving output slots. (R397) -/
  | graphNodeFire (graph : Nat)
  /-- The I/O die completes a cross-die gang barrier when reported totals reach the expected count. (R372) -/
  | gbarComplete (gang : Nat) (b : Nat)
  /-- Package time passes a horizon or completion time that a release, fence, acquire, RECLAIM or RMA write is waiting for, and that wait ends. (R178) -/
  | completionTimePassed (w : WaitRef)
  /-- A barrier, stage or muster wait exceeding WDOG_LIMIT raises BARRIER_TIMEOUT. (R375) -/
  | barrierTimeout (team : Nat)
  /-- A mate signature waits 2^16 cycles unanswered and PAIR_TIMEOUT is raised. (R340) -/
  | pairTimeout (core : Nat)
  /-- At each 256-cycle window end every core's current, deviation, zone and ballast are computed. (R412) -/
  | estimatorWindowEnd (cluster : Nat)
  /-- A pool's 20 µs class change ends and its cluster issues again. (R421) -/
  | classChangeEnd (cluster : Nat)
  /-- Groups not stopped within the limit are stopped at their next boundary. (R242) -/
  | forcedStop (team : Nat)
  /-- A stopped team's save ends, its slots free and it is requeued. (R243) -/
  | teamSaveEnd (team : Nat)
  /-- A saved team is restored on a core, its log entries replaced and resent. (R110) -/
  | teamRestore (team : Nat) (core : Nat)
  /-- Twins exchange interval signatures at a boundary and drain or roll back. (R437) -/
  | pairedSignature (team : Nat)
  /-- A counter reaching its threshold interrupts every controlling host. (R268) -/
  | counterIrq (launch : Nat) (counter : Nat)
  /-- The window replacement is acknowledged once every replica has it and old accesses complete. (R66) -/
  | windowAck (ctx : Nat)
  /-- A group ready but unissued for 256 cycles becomes boosted. (R407) -/
  | groupBoost (g : GrpRef)
  /-- After 32 consecutive issues the core may switch away from a group. (R239) -/
  | issueLimitSwitch (g : GrpRef)
  /-- A record without RESUME for 2^33 ns is closed with SERVICE_TIMEOUT. (R104) -/
  | faultServiceTimeout (o : Origin) (id : Nat)
  /-- A chunk finds no posted receive for 2^27 ns and ends NO_RECV. (R168) -/
  | noRecvTimeout (op : Nat)
  /-- A received chunk's last byte is performed and its counter is incremented. (R167) -/
  | chunkLanding (c : Chunk)
  /-- A peer stays unreachable for 100 ms and the operation ends PEER_UNREACHABLE. (R160) -/
  | peerUnreachable (op : Nat)
  /-- A HOST or PEER slot is unreachable for 100 ms and the access takes ACCESS_FAULT UNREACHABLE. (R77) -/
  | homeSlotUnreachable (w : SlotRef)
  /-- A record unpulled for 2^28 ns is pulled by its home without an acquire. (R181) -/
  | homeEpochAgePull (line : Nat) (die : Nat)
  /-- A dirty byte leaves the die L2 for its home within 2^16 ns of dirtying. (R179) -/
  | dirtyByteDeadline (die : Nat) (line : Nat)
  /-- Background scrub reads and corrects or poisons protected words. (R143) -/
  | scrub (p : Protected) (f : Flaw)
  /-- The front end pre-empts the fewest lower-priority teams to ready a core. (R408) -/
  | preemptionRequest (launch : Nat)
  /-- Every 1 ms the controller measures power and applies ramp, cap and floors. (R422) -/
  | powerIntervalEnd (m : Measure)
  /-- A cluster above threshold for 1 ms has its teams migrated or its pool stepped down. (R426) -/
  | hotSpotMigration (cluster : Nat) (temps : List Nat)
  /-- A pool steps back up after 100 ms 10 °C below threshold. (R426) -/
  | hotSpotStepUp (cluster : Nat)
  /-- A peer's collective arrival report is compared and power may be lent. (R425) -/
  | arrivalReport (peer : Nat) (grp : Nat) (number : Nat) (time : Nat) (saved : Nat)
  /-- Lent power from a peer raises the effective cap for the interval. (R425) -/
  | budgetMessage (watts : Nat)
  /-- A corrected-error count reaching its threshold interrupts the hosts. (R428) -/
  | errorIrq (unit : Nat)
  /-- A compute die fails fatally, ending its teams and poisoning its dirty lines. (R439) -/
  | dieFailure (die : Nat)
  /-- A memory-side die fails fatally and every page homed there is poisoned. (R440) -/
  | memorySideDieFailure (home : Nat)
  /-- An I/O die failure stops the module until the next dawn. (R440) -/
  | ioDieFailure
  /-- A core fails at run time, ending its teams and retiring its column later. (R442) -/
  | coreFailure (core : Nat)
  /-- Power-up runs the dawn steps to READY or FAILED. (R455) -/
  | dawn (inp : DawnInput)
  /-- Dawn stops seeking PTP lock after 2 s and proceeds. (R455) -/
  | dawnPtpWaitExpiry
  /-- A PTP sync message slews package time. (R453) -/
  | ptpSync (offset : Int)
  /-- One second without a valid sync puts PTP in HOLDOVER. (R454) -/
  | ptpHoldover
  /-- The device sends a UET keepalive every 10 ms. (R452) -/
  | keepalive
  /-- An endpoint silent for 100 ms loses its link and the semaphore. (R452) -/
  | linkLoss (ep : Nat)
  /-- A UET connection request is accepted for ROD or RUD and refused otherwise. (R444) -/
  | connectionRequest (ep : Nat) (mode : BitVec 2)
  /-- An unknown or device-type message from a host is refused BAD_MESSAGE. (R448) -/
  | unknownMessage (r : Req) (type : BitVec 16)
  /-- Returns dawn state, endpoints, semaphore holder and PTP state. (R450) -/
  | status (r : Req)
  /-- Returns a signed report of the measurement log and nonce. (R457) -/
  | attest (r : Req) (nonce : BitVec 256)
  /-- Claims the hardware control semaphore if free. (R452) -/
  | semClaim (r : Req)
  /-- Frees the semaphore when sent by its holder. (R452) -/
  | semRelease (r : Req)
  /-- Creates a context with its record area and lock quotas. (R450) -/
  | contextCreate (r : Req) (ctx : Nat) (area : Nat) (quotas : List Nat)
  /-- Ends a context, terminating its teams as CANCELLED. (R447) -/
  | contextEnd (r : Req)
  /-- Replaces all four words of one window or refuses them. (R64) -/
  | window (r : Req) (n : BitVec 3) (w0 w1 w2 w3 : W64)
  /-- Claims or returns a context's fault records. (R102) -/
  | faultRoute (r : Req) (claim : Bool)
  /-- Frees trap-record slots, letting held records be written. (R388) -/
  | recordFree (r : Req) (first : Nat) (count : Nat)
  /-- Accepts a launch packet into a queue or refuses it. (R390) -/
  | plierrovLaunch (r : Req) (packet : List W64)
  /-- Sets a counter threshold during a run. (R268) -/
  | threshold (r : Req) (launch : Nat) (counter : Nat) (thr : Nat)
  /-- Loads a task graph's nodes and edges. (R396) -/
  | graphLoad (r : Req) (graph : Nat) (nodes : List (List W64)) (edges : List W64)
  /-- Pushes tokens into a graph edge's unreserved slots. (R398) -/
  | graphPush (r : Req) (graph : Nat) (edge : Nat) (tokens : Nat)
  /-- Reads device memory through a context's windows at home. (R449) -/
  | rmaRead (r : Req) (va : W64) (len : Nat)
  /-- Writes device memory at home, acknowledged after completion time. (R449) -/
  | rmaWrite (r : Req) (va : W64) (data : List Byte)
  /-- Performs a SYSTEM-scope atomic at the home atomic unit. (R449) -/
  | rmaAtomic (r : Req) (va : W64) (kind : BitVec 4) (wide : Bool) (operand compare : W64)
  /-- Replaces a page-table entry if it matches the expected value. (R81) -/
  | ptSet (r : Req) (home : Nat) (level : Nat) (page : Nat) (expect new : W64)
  /-- Moves a page's contents to a new frame and replaces its leaf. (R82) -/
  | migrate (r : Req) (home : Nat) (level : Nat) (page : Nat) (new : W64)
  /-- Makes the span of an entry uncached in every cache. (R83) -/
  | reclaim (r : Req) (home : Nat) (level : Nat) (page : Nat)
  /-- A host sends RESUME for a fault record it claimed. (R102) -/
  | faultResume (r : Req) (word : W32)
  /-- Sets cap, ramp, floors, ceilings and skew threshold or refuses. (R422) -/
  | limits (r : Req) (b : LimitsBody)
  /-- Moves clusters between partitions, held while teams are resident. (R410) -/
  | partition (r : Req) (clusters : List (BitVec 16)) (target : Nat)
  /-- Changes a die's logical-to-physical cluster map, held while teams are resident. (R443) -/
  | clusterMap (r : Req) (die : Nat) (map : List Nat)
  /-- Reads corrected-error counts and optionally sets thresholds. (R428) -/
  | errorStatus (r : Req) (thresholds : Option (List Nat))
  /-- Writes MS_PTROOT or IO_PTROOT of a unit. (R79) -/
  | msConfigPtroot (r : Req) (unit : Nat) (value : W64)
  /-- Writes MS_LEASE, refusing values below 512. (R79) -/
  | msConfigLease (r : Req) (unit : Nat) (value : W64)
  /-- Writes an MS_PEERTAB slot, refused for an invalid peer entry. (R79) -/
  | msConfigPeertab (r : Req) (unit : Nat) (slot : Nat) (value : W64)
  /-- Writes MS_POOLB and starts a new fault pool. (R480) -/
  | msConfigPoolb (r : Req) (unit : Nat) (value : W64)
  /-- Writes MS_POOLL and starts a new fault pool. (R480) -/
  | msConfigPooll (r : Req) (unit : Nat) (value : W64)
  /-- Sets hot-spot thresholds per cluster. (R426) -/
  | thermal (r : Req) (thresholds : List Nat)
  /-- Writes entries of the collective peer table. (R451) -/
  | peerTable (r : Req) (first : Nat) (entries : List (W64 × W64))
  /-- An Ultra Ethernet port is retired at run time and its traffic moves to the remaining ports. (R442) -/
  | portRetirement (port : Nat)
  /-- An access from a peer Ozant device to a PEER frame arrives and is performed at its home here. (R173) -/
  | peerAccessArrival (a : PeerAccess)
deriving DecidableEq, Repr

end Sys2Proof
end

