-- ==== Sys2Proof/WellFormed.lean ====
section
/-! DEFINITION. The instructions that an instruction word can stand for: every field within its encoding, and the
fields that a short form does not carry at the values the short form means (R23, R37 to R49). -/
namespace Sys2Proof

/-- A reserved source code lies in 0x88 to 0xBF (R35). -/
def Src.wf : Src → Bool
  | .reserved c => 0x88 ≤ c.toNat && c.toNat ≤ 0xBF
  | _ => true

/-- A mask word's high-waters are at most 128 (R48). -/
def Mask.wf (m : Mask) : Bool := m.vec.toNat ≤ 128 && m.uni.toNat ≤ 128

/-- A guard needs the long form (R22). -/
def Hdr.wf (h : Hdr) : Bool := (h.long || h.guard.isNone) && h.sp.all Mask.wf

/-- The extension fields of the arithmetic class as a short form means them. -/
def Alu.isPlain (o : Alu) : Bool :=
  o.c == .reg 0 && o.fmt == 0 && o.rnd == .rne && !o.sat && o.var == 0

/-- R19: W = 1 needs d = 0; `wOk` says whether the instruction may carry W (R36). -/
def wWf (wOk w : Bool) (d : BitVec 7) : Bool := !w || (wOk && d == 0)

def Alu.wf (wOk : Bool) (o : Alu) : Bool :=
  o.h.wf && wWf wOk o.w o.d && o.a.wf && o.b.wf && o.c.wf && (o.h.long || o.isPlain)

def Cmp.wf (o : Cmp) : Bool :=
  o.h.wf && o.cond.toNat < 6 && o.a.wf && o.b.wf && o.c.wf && (o.h.long || (o.c == .reg 0 && o.fmt == 0))

def Ld.wf (o : Ld) (wOk : Bool := false) : Bool :=
  wWf wOk o.w o.d && o.h.wf && o.a.wf && o.b.wf &&
    (o.h.long || (o.tag == 0 && o.width == 2 && !o.sx && !o.imm && o.order == .rlx && o.scope == 0))

def St.wf (o : St) : Bool :=
  o.h.wf && o.a.wf && o.b.wf && o.val.wf && (!o.h.long || o.d == 0) &&
    (o.h.long || (o.val == .reg 0 && o.width == 2 && !o.sx && !o.imm && o.order == .rlx && o.scope == 0))

def Atm.wf (wOk : Bool) (o : Atm) : Bool :=
  o.h.wf && wWf wOk o.w o.d && o.a.wf && o.b.wf && o.c.wf &&
    (o.h.long || (o.c == .reg 0 && o.kind == 0 && !o.wide && o.order == .rlx && o.scope == 2))

def Mode.wf (wOk : Bool) (o : Mode) : Bool :=
  o.h.wf && wWf wOk o.w o.d && o.a.wf && o.b.wf && (o.h.long || (o.c == 0 && o.mode == 0 && o.scope == 0))

def Mtx.wf (o : Mtx) : Bool :=
  o.h.wf && o.h.long && o.d.toNat < 8 && o.a.wf && o.b.wf

def Tmem.wf (o : Tmem) : Bool :=
  o.h.wf && o.h.long && o.d.toNat < 8 && o.a.wf && o.b.wf

/-- A branch-class or loop-class instruction has no guard (R40). -/
def Hdr.bare (h : Hdr) : Bool := h.guard.isNone && h.sp.all Mask.wf

def Bra.wf (o : Bra) : Bool := o.h.bare
def Jmp.wf (o : Jmp) : Bool := o.h.bare
def Jind.wf (o : Jind) : Bool := o.h.bare && o.a.wf && o.b.wf
def Lop.wf (o : Lop) : Bool := o.h.bare && o.b.wf

def Eng.wf (o : Eng) : Bool :=
  o.h.wf && wWf true o.w o.d && o.a.wf && o.b.wf && o.c.wf && (o.h.long || o.c == .reg 0)

/-- An arithmetic-class instruction that has no short form. -/
def Alu.wfExt (wOk : Bool) (o : Alu) : Bool := o.h.long && o.wf wOk

/-- Well-formed instructions: those that some word encodes. Steps of the package have no word and are well formed
as they stand; an unassigned opcode is well formed when its words name one (R51, R53). -/
def Instr.wf : Instr → Bool
  | .nop o => o.wf false && o.d == 0 && o.a == .reg 0 && o.b == .reg 0
  | .nopU o => o.wf false && o.d == 0 && o.a == .reg 0 && o.b == .reg 0
  | .mov o => o.wf true
  | .movU o => o.wf true
  | .iadd o => o.wf true
  | .iaddU o => o.wf true
  | .isub o => o.wf true
  | .isubU o => o.wf true
  | .imul o => o.wf true
  | .imulU o => o.wf true
  | .imulh o => o.wf true
  | .imulhU o => o.wf true
  | .imulhu o => o.wf true
  | .imulhuU o => o.wf true
  | .imin o => o.wf true
  | .iminU o => o.wf true
  | .imax o => o.wf true
  | .imaxU o => o.wf true
  | .iminu o => o.wf true
  | .iminuU o => o.wf true
  | .imaxu o => o.wf true
  | .imaxuU o => o.wf true
  | .and o => o.wf true
  | .andU o => o.wf true
  | .or o => o.wf true
  | .orU o => o.wf true
  | .xor o => o.wf true
  | .xorU o => o.wf true
  | .shl o => o.wf true
  | .shlU o => o.wf true
  | .shr o => o.wf true
  | .shrU o => o.wf true
  | .sar o => o.wf true
  | .sarU o => o.wf true
  | .icmp o => o.wf
  | .icmpU o => o.wf
  | .icmpi o => o.o.wf
  | .sel o => o.wfExt true
  | .selU o => o.wfExt true
  | .fadd o => o.wf true
  | .fsub o => o.wf true
  | .fmul o => o.wf true
  | .fmin o => o.wf true
  | .fmax o => o.wf true
  | .fcmp o => o.wf
  | .rcp o => o.wf true
  | .rsq o => o.wf true
  | .exp2 o => o.wf true
  | .log2 o => o.wf true
  | .ld o => o.wf
  | .ldU o => o.wf
  | .st o => o.wf
  | .stU o => o.wf
  | .lds o => o.wf
  | .sts o => o.wf
  | .lxch o => o.wf true
  | .poll o => o.wf true
  | .bra o => o.wf
  | .braNodiv o => o.wf && o.h.long
  | .meet o => o.wf
  | .exit o => o.wf false && o.d == 0 && o.a == .reg 0 && o.b == .reg 0
  | .exitU o => o.wf false && o.d == 0 && o.a == .reg 0 && o.b == .reg 0
  | .popc o => o.wf true
  | .popcU o => o.wf true
  | .clz o => o.wf true
  | .clzU o => o.wf true
  | .lea o => o.wf true
  | .leaU o => o.wf true
  | .iabs o => o.wf true
  | .iabsU o => o.wf true
  | .ineg o => o.wf true
  | .fabs o => o.wf true
  | .fneg o => o.wf true
  | .ldv o => o.wf
  | .stv o => o.wf
  | .atom o => o.wf true
  | .atomU o => o.wf true && o.h.long
  | .pres o => o.wf
  | .fint o => o.wf true
  | .not o => o.wf true
  | .notU o => o.wf true
  | .brev o => o.wf true
  | .sin o => o.wf true
  | .cos o => o.wf true
  | .tanh o => o.wf true
  | .sqrt o => o.wf true
  | .movi o => o.o.wf true
  | .moviU o => o.o.wf true
  | .iaddi _ o => o.o.wf true
  | .imuli _ o => o.o.wf true
  | .andi _ o => o.o.wf true
  | .ori _ o => o.o.wf true
  | .fmuli o => o.o.wf true
  | .faddi o => o.o.wf true
  | .fma o => o.wfExt true
  | .imac o => o.wfExt true
  | .imacU o => o.wfExt true
  | .iadd64 o => o.wfExt true
  | .iadd64U o => o.wfExt true
  | .isub64 o => o.wfExt true
  | .isub64U o => o.wfExt true
  | .bfx o => o.wfExt true
  | .bfxU o => o.wfExt true
  | .bfi o => o.wfExt true
  | .bfiU o => o.wfExt true
  | .fclass o => o.wfExt true
  | .logistic o => o.wfExt true
  | .cvt o => o.wfExt true
  | .qnt o => o.wfExt true
  | .dqn o => o.wfExt true
  | .amax o => o.wfExt true
  | .cblk o => o.wfExt true
  | .pfma o => o.wfExt true
  | .padd o => o.wfExt true
  | .pmul o => o.wfExt true
  | .atoms o => o.wf true && o.h.long
  | .red o => o.wf false && o.h.long && o.d == 0
  | .lreduce o => o.wf true && o.h.long
  | .peers o => o.wf true && o.h.long
  | .regroup o => o.wfExt false
  | .bdot o => o.wfExt true
  | .ycvt o => o.wfExt true
  | .yadd o => o.wfExt true
  | .ysub o => o.wfExt true
  | .ymul o => o.wfExt true
  | .ydiv o => o.wfExt true
  | .yneg o => o.wfExt true
  | .yrec o => o.wfExt true
  | .ysqr o => o.wfExt true
  | .yuni o => o.wfExt true
  | .yint o => o.wfExt true
  | .ycmp o => o.wfExt true
  | .yhull o => o.wfExt true
  | .ypack o => o.wfExt true
  | .yunpk o => o.wfExt true
  | .ymid o => o.wfExt true
  | .ytest o => o.wfExt true
  | .ymap o => o.wfExt true
  | .yfma o => o.wfExt true
  | .msign o => o.wf
  | .mma o => o.wf
  | .tld o => o.wf
  | .tst o => o.wf
  | .tzero o => o.wf
  | .tcvt o => o.wf
  | .tamax o => o.wf
  | .mwait o => o.wf
  | .bru o => o.wf
  | .jmp o => o.wf
  | .call o => o.wf
  | .ret o => o.wf && o.b == .reg 0 && o.a == .reg 0
  | .jmpi o => o.wf && o.b == .reg 0
  | .loop o => o.wf && o.imm == 0
  | .loopi o => o.wf
  | .brk o => o.wf && o.imm == 0 && o.len == 0
  | .yield o => o.wf false && o.d == 0 && o.a == .reg 0 && o.b == .reg 0
  | .barSync o => o.wf false && o.mode == 0
  | .barArrive o => o.wf false && o.mode == 1
  | .barWait o => o.wf false && o.mode == 2
  | .gbar o => o.wf false
  | .stgw o => o.wf false
  | .stga o => o.wf false
  | .fence o => o.wf false
  | .part o => o.wf false
  | .csrr o => o.wf true
  | .csrw o => o.wf false
  | .clk o => o.wf true
  | .burn o => o.wf false
  | .shunt o => o.wf true
  | .curr o => o.wf true
  | .trap o => o.wf false
  | .launch o => o.wf true
  | .gwait o => o.wf true
  | .wdog o => o.wf false
  | .fcnt o => o.wf true
  | .cbld o => o.wf false
  | .yring o => o.wf true
  | .ctime o => o.wf true
  | .pref o => o.wf && o.h.long
  | .lockl o => o.wf true && o.h.long
  | .unlockl o => o.wf true && o.h.long
  | .cinv o => o.wf && o.h.long
  | .cwb o => o.wf && o.h.long
  | .opcl o => o.wfExt true
  | .mset o => o.wf
  | .mstat o => o.wf
  | .tagr o => o.wfExt true
  | .tagw o => o.wfExt true
  | .engShape o => o.wf && !o.cls
  | .engCopy o => o.wf && !o.cls
  | .engPlane o => o.wf && !o.cls
  | .engGather o => o.wf && !o.cls
  | .engScatter o => o.wf && !o.cls
  | .engFill o => o.wf && !o.cls
  | .engUnplane o => o.wf && !o.cls
  | .engSend o => o.wf && o.cls
  | .engRecv o => o.wf && o.cls
  | .engArm o => o.wf && o.cls
  | .engCntrd o => o.wf && o.cls
  | .engCntadd o => o.wf && o.cls
  | .engReduce o => o.wf && o.cls
  | .engCancel o => o.wf
  | .engWait o => o.wf
  | .engQuery o => o.wf
  | .unassignedExtendedOpcode u r =>
    r.w0.getLsbD 31 == u && (r.w0 >>> 24 &&& 0x3F#32) == 0x3F#32 &&
      (let x := (r.w1 >>> 24).toNat; x == 0x3F || (if u then 0x50 ≤ x else 0x70 ≤ x))
  | .mateAgreement ..
  | .mmaComplete ..
  | .loopBack ..
  | .gbarComplete ..
  | .engineOperationEnd ..
  | .engineWriteProgress ..
  | .chunkLanding ..
  | .noRecvTimeout ..
  | .peerUnreachable ..
  | .loadDataReturn ..
  | .pageWalk ..
  | .homeSlotUnreachable ..
  | .faultResponse ..
  | .fetchFault ..
  | .mergeWindowClose ..
  | .faultQueueRetry ..
  | .firmwareFaultService ..
  | .resume ..
  | .faultServiceTimeout ..
  | .releaseAtHome ..
  | .acquireAtHome ..
  | .pull ..
  | .homeEpochAgePull ..
  | .dirtyByteDeadline ..
  | .scrub ..
  | .windowAck ..
  | .dispatchRequest ..
  | .teamStart ..
  | .teamRetire ..
  | .gridRetire ..
  | .graphNodeFire ..
  | .preemptionRequest ..
  | .forcedStop ..
  | .teamSaveEnd ..
  | .teamRestore ..
  | .issueLimitSwitch ..
  | .groupBoost ..
  | .barrierTimeout ..
  | .pairTimeout ..
  | .estimatorWindowEnd ..
  | .classChangeEnd ..
  | .powerIntervalEnd ..
  | .hotSpotMigration ..
  | .hotSpotStepUp ..
  | .arrivalReport ..
  | .budgetMessage ..
  | .pairedSignature ..
  | .counterIrq ..
  | .errorIrq ..
  | .dieFailure ..
  | .memorySideDieFailure ..
  | .ioDieFailure ..
  | .coreFailure ..
  | .dawn ..
  | .dawnPtpWaitExpiry ..
  | .ptpSync ..
  | .ptpHoldover ..
  | .keepalive ..
  | .linkLoss ..
  | .connectionRequest ..
  | .unknownMessage ..
  | .status ..
  | .attest ..
  | .semClaim ..
  | .semRelease ..
  | .contextCreate ..
  | .contextEnd ..
  | .window ..
  | .faultRoute ..
  | .recordFree ..
  | .plierrovLaunch ..
  | .threshold ..
  | .graphLoad ..
  | .graphPush ..
  | .rmaRead ..
  | .rmaWrite ..
  | .rmaAtomic ..
  | .ptSet ..
  | .migrate ..
  | .reclaim ..
  | .faultResume ..
  | .limits ..
  | .partition ..
  | .clusterMap ..
  | .errorStatus ..
  | .msConfigPtroot ..
  | .msConfigLease ..
  | .msConfigPeertab ..
  | .msConfigPoolb ..
  | .msConfigPooll ..
  | .thermal ..
  | .peerTable ..
  | .storeComplete ..
  | .tileOperationComplete ..
  | .completionTimePassed ..
  | .portRetirement ..
  | .peerAccessArrival .. => true

end Sys2Proof
end

