-- ==== Sys2Proof/Decode.lean ====
section
/-! DEFINITION. Decoding: from instruction words to an instruction or a named rejection (R33 to R54), then the encoder
written from the same layouts. Every rejection here is the trap ILLEGAL_INSTRUCTION (R34, R54); ILLEGAL_OPERAND and
later checks need the machine and are made by the meanings (R55). -/
namespace Sys2Proof

/-- Why words are no instruction: the rule broken. -/
inductive DecodeErr where
  | truncated      -- fewer words than the instruction has (R37)
  | unassigned     -- an opcode or mode that no map assigns (R51, R53, R54)
  | reservedBits   -- a reserved bit or field is set (R34, R54)
  | wBit           -- W = 1 where it is not allowed, or with d not 0 (R19, R36)
  | noShortForm    -- an instruction that exists only in long form (R50)
  | maskWord       -- a high-water above 128 (R48)
  | engWord        -- a reserved class, or a function outside its class (R49)
deriving DecidableEq, Repr

/-- The fields of an instruction's words (R33, R39, R49): `code` is the primary or extended opcode, `x` is bits 23:0 of
the extension word, zero in a short form. -/
structure Raw where
  u : Bool
  sp : Option Mask
  long : Bool
  code : BitVec 8
  w : Bool
  d : BitVec 7
  a : BitVec 8
  b : BitVec 8
  x : BitVec 24
  imm : W32
  eng : W32
deriving DecidableEq, Repr

/-! ## Fields -/

/-- A source code (R35). -/
def Src.ofCode (c : BitVec 8) : Src :=
  if c.toNat < 0x80 then .reg (c.setWidth 7)
  else if c.toNat < 0x84 then .latch (c.setWidth 2)
  else if c = 0x84 then .zero
  else if c = 0x85 then .home
  else if c = 0x86 then .index
  else if c = 0x87 then .ones
  else if c.toNat < 0xC0 then .reserved c
  else .bcast (c.setWidth 6)

/-- The code of a source (R35). -/
def Src.code : Src → BitVec 8
  | .reg n => n.setWidth 8
  | .latch n => 0x80 ||| n.setWidth 8
  | .zero => 0x84
  | .home => 0x85
  | .index => 0x86
  | .ones => 0x87
  | .reserved c => c
  | .bcast n => 0xC0 ||| n.setWidth 8

/-- The rnd field (R39). -/
def Rnd.ofBits (x : BitVec 2) : Rnd :=
  if x = 0 then .rne else if x = 1 then .rz else if x = 2 then .rs else .dyn

def Rnd.bits : Rnd → BitVec 2
  | .rne => 0 | .rz => 1 | .rs => 2 | .dyn => 3

/-- The order field (R41). -/
def Order.ofBits (x : BitVec 2) : Order :=
  if x = 0 then .rlx else if x = 1 then .acq else if x = 2 then .rel else .reserved

def Order.bits : Order → BitVec 2
  | .rlx => 0 | .acq => 1 | .rel => 2 | .reserved => 3

def bit1 (b : Bool) : BitVec 1 := BitVec.ofBool b

/-- The mask word (R48); a high-water above 128 is refused. -/
def Mask.ofWord (w : W32) : Except DecodeErr Mask :=
  let m : Mask := ⟨w.extractLsb' 24 8, w.extractLsb' 16 8, w.extractLsb' 8 8, w.extractLsb' 5 3, w.getLsbD 4,
    w.getLsbD 3, w.extractLsb' 0 3⟩
  if m.wf then .ok m else .error .maskWord

def Mask.word (m : Mask) : W32 :=
  m.vec ++ m.uni ++ m.tiles ++ m.lcs ++ bit1 m.grp ++ bit1 m.mus ++ m.sets

/-- The guard in bits 15:11 of the extension word (R22, R39); bits under a clear enable are reserved. -/
def guardOf (x : BitVec 24) : Except DecodeErr (Option Guard) :=
  if x.getLsbD 15 then .ok (some { neg := x.getLsbD 14, idx := x.extractLsb' 11 3 })
  else if x.extractLsb' 11 4 = 0 then .ok none
  else .error .reservedBits

def guardBits : Option Guard → BitVec 5
  | none => 0
  | some g => bit1 true ++ bit1 g.neg ++ g.idx

/-! ## Words to fields -/

/-- Opcodes that an immediate word follows (R37, R44). -/
def hasImm (code : BitVec 8) : Bool := 0x38 ≤ code.toNat && code.toNat ≤ 0x3E

/-- ENG (R37, R49). -/
def isEng (u : Bool) (code : BitVec 8) : Bool := u && code == 0x37

/-- How many words the fields take (R37). -/
def Raw.words (r : Raw) : Nat :=
  1 + (if r.long then 1 else 0) + (if hasImm r.code then 1 else 0) + (if isEng r.u r.code then 1 else 0)
    + (if r.sp.isSome then 1 else 0)

/-- Take the words that follow (R37), in order: extension, immediate or ENG word, mask word. -/
def takeIf (p : Bool) (ws : List W32) : Except DecodeErr (W32 × List W32) :=
  if p then (match ws with | w :: r => .ok (w, r) | [] => .error .truncated) else .ok (0, ws)

/-- Split an instruction's words into fields (R33, R37, R39). -/
def decodeRaw (ws : List W32) : Except DecodeErr Raw :=
  match ws with
  | [] => .error .truncated
  | w0 :: r0 =>
    let u := w0.getLsbD 31
    let op := w0.extractLsb' 24 6
    let long := op == 0x3F
    (takeIf long r0).bind fun (w1, r1) =>
    let code := if long then w1.extractLsb' 24 8 else op.setWidth 8
    (takeIf (hasImm code) r1).bind fun (imm, r2) =>
    (takeIf (isEng u code) r2).bind fun (eng, r3) =>
    (takeIf (w0.getLsbD 30) r3).bind fun (m, _) =>
    (if w0.getLsbD 30 then (Mask.ofWord m).map some else .ok none).bind fun sp =>
    .ok { u := u, sp := sp, long := long, code := code, w := w0.getLsbD 23, d := w0.extractLsb' 16 7,
          a := w0.extractLsb' 8 8, b := w0.extractLsb' 0 8, x := w1.extractLsb' 0 24, imm := imm, eng := eng }

/-- The first word (R33). -/
def Raw.first (r : Raw) : W32 :=
  bit1 r.u ++ bit1 r.sp.isSome ++ (if r.long then (0x3F : BitVec 6) else r.code.setWidth 6) ++ bit1 r.w ++ r.d ++ r.a ++ r.b

/-- The words of the fields (R33, R37, R39). -/
def encodeRaw (r : Raw) : List W32 :=
  [r.first] ++ (if r.long then [r.code ++ r.x] else []) ++ (if hasImm r.code then [r.imm] else [])
    ++ (if isEng r.u r.code then [r.eng] else []) ++ (match r.sp with | some m => [m.word] | none => [])

/-! ## Fields to operands, class by class -/

/-- R19, R36: W = 1 needs permission and d = 0. -/
def checkW (wOk : Bool) (r : Raw) : Except DecodeErr Unit := if wWf wOk r.w r.d then .ok () else .error .wBit

def check (p : Bool) (e : DecodeErr) : Except DecodeErr Unit := if p then .ok () else .error e

/-- Form, guard and mask word (R22, R38, R48). -/
def hdrOf (r : Raw) : Except DecodeErr Hdr := (guardOf r.x).map fun g => { long := r.long, guard := g, sp := r.sp }

/-- A header without a guard (R40). -/
def bareOf (r : Raw) : Hdr := { long := r.long, guard := none, sp := r.sp }

/-- The arithmetic class (R39). -/
def aluOf (wOk : Bool) (r : Raw) : Except DecodeErr Alu :=
  (checkW wOk r).bind fun _ => (hdrOf r).map fun h =>
    { h := h, w := r.w, d := r.d, a := .ofCode r.a, b := .ofCode r.b, c := .ofCode (r.x.extractLsb' 16 8),
      fmt := r.x.extractLsb' 5 6, rnd := .ofBits (r.x.extractLsb' 3 2), sat := r.x.getLsbD 2, var := r.x.extractLsb' 0 2 }

/-- The immediate forms (R44). -/
def immOf (r : Raw) : Except DecodeErr Imm := (aluOf true r).map fun o => { o := o, imm := r.imm }

/-- The compare class (R34, R40). -/
def cmpOf (r : Raw) : Except DecodeErr Cmp :=
  (check (!r.w) .wBit).bind fun _ =>
  (check ((r.d.extractLsb' 4 3).toNat < 6 && r.x.extractLsb' 0 5 == 0) .reservedBits).bind fun _ => (hdrOf r).map fun h =>
    { h := h, cond := r.d.extractLsb' 4 3, u := r.d.getLsbD 3, p := r.d.extractLsb' 0 3, a := .ofCode r.a, b := .ofCode r.b,
      c := .ofCode (r.x.extractLsb' 16 8), fmt := r.x.extractLsb' 5 6 }

/-- Loads and cache control (R41); the short form is 32 bits, RLX, tag B32. Of them LOCKL and UNLOCKL alone may have W = 1 (R36,
R155). -/
def ldOf (r : Raw) (wOk : Bool := false) : Except DecodeErr Ld :=
  (checkW wOk r).bind fun _ =>
  if r.long then
    (check (r.x.extractLsb' 22 2 == 0 && !r.x.getLsbD 6) .reservedBits).bind fun _ => (hdrOf r).map fun h =>
      { h := h, w := r.w, d := r.d, a := .ofCode r.a, b := .ofCode r.b, tag := r.x.extractLsb' 16 6, width := r.x.extractLsb' 8 3,
        sx := r.x.getLsbD 7, imm := r.x.getLsbD 5, order := .ofBits (r.x.extractLsb' 3 2), scope := r.x.extractLsb' 0 3 }
  else .ok { h := bareOf r, w := r.w, d := r.d, a := .ofCode r.a, b := .ofCode r.b }

/-- Stores (R34, R41): the value stands in d in short form and in c in long form, where d is 0. -/
def stOf (r : Raw) : Except DecodeErr St :=
  (check (!r.w) .wBit).bind fun _ =>
  if r.long then
    (check (r.d == 0 && !r.x.getLsbD 6) .reservedBits).bind fun _ => (hdrOf r).map fun h =>
      { h := h, d := 0, a := .ofCode r.a, b := .ofCode r.b, val := .ofCode (r.x.extractLsb' 16 8),
        width := r.x.extractLsb' 8 3, sx := r.x.getLsbD 7, imm := r.x.getLsbD 5, order := .ofBits (r.x.extractLsb' 3 2),
        scope := r.x.extractLsb' 0 3 }
  else .ok { h := bareOf r, d := r.d, a := .ofCode r.a, b := .ofCode r.b }

/-- Atomics (R42); the short form is ADD, 32-bit, RLX at DIE (R149). -/
def atmOf (wOk : Bool) (r : Raw) : Except DecodeErr Atm :=
  (checkW wOk r).bind fun _ =>
  if r.long then
    (check (!r.x.getLsbD 5) .reservedBits).bind fun _ => (hdrOf r).map fun h =>
      { h := h, w := r.w, d := r.d, a := .ofCode r.a, b := .ofCode r.b, c := .ofCode (r.x.extractLsb' 16 8),
        kind := r.x.extractLsb' 7 4, wide := r.x.getLsbD 6, order := .ofBits (r.x.extractLsb' 3 2),
        scope := r.x.extractLsb' 0 3 }
  else .ok { h := bareOf r, w := r.w, d := r.d, a := .ofCode r.a, b := .ofCode r.b }

/-- The mode class (R43). -/
def modeOf (wOk : Bool) (r : Raw) : Except DecodeErr Mode :=
  (checkW wOk r).bind fun _ => (check (r.x.extractLsb' 3 2 == 0) .reservedBits).bind fun _ => (hdrOf r).map fun h =>
    { h := h, w := r.w, d := r.d, a := .ofCode r.a, b := .ofCode r.b, c := r.x.extractLsb' 16 8,
      mode := r.x.extractLsb' 5 6, scope := r.x.extractLsb' 0 3 }

/-- The matrix class (R34, R40, R43). -/
def mtxOf (r : Raw) : Except DecodeErr Mtx :=
  (check (!r.w) .wBit).bind fun _ => (check r.long .noShortForm).bind fun _ =>
  (check (r.d.toNat < 8 && r.x.extractLsb' 22 2 == 0) .reservedBits).bind fun _ => (hdrOf r).map fun h =>
    { h := h, d := r.d, a := .ofCode r.a, b := .ofCode r.b, second := r.x.extractLsb' 16 6, fmt := r.x.extractLsb' 5 6,
      fusion := r.x.extractLsb' 2 3, pair := r.x.getLsbD 1, var := r.x.getLsbD 0 }

/-- TLD and TST (R41, R333). -/
def tmemOf (r : Raw) : Except DecodeErr Tmem :=
  (check (!r.w) .wBit).bind fun _ => (check r.long .noShortForm).bind fun _ =>
  (check (r.d.toNat < 8 && r.x.extractLsb' 22 2 == 0 && r.x.extractLsb' 8 3 == 0 && r.x.extractLsb' 4 2 == 0) .reservedBits).bind fun _ =>
    (hdrOf r).map fun h =>
    { h := h, d := r.d, a := .ofCode r.a, b := .ofCode r.b, tag := r.x.extractLsb' 16 6, space := r.x.extractLsb' 6 2,
      kc := r.x.extractLsb' 0 4 }

/-- BRA and BRU (R45); the extension word may carry bit 0 only for BRA.NODIV (R40). -/
def braOf (r : Raw) : Except DecodeErr Bra :=
  (check (!r.w) .wBit).bind fun _ => (check (r.x.extractLsb' 1 23 == 0) .reservedBits).map fun _ =>
    { h := bareOf r, neg := r.d.getLsbD 6, idx := r.d.extractLsb' 3 3, off := r.d.extractLsb' 0 3 ++ r.a ++ r.b }

/-- MEET, JMP and CALL (R45). -/
def jmpOf (r : Raw) : Except DecodeErr Jmp :=
  (check (!r.w) .wBit).bind fun _ => (check (r.x == 0) .reservedBits).map fun _ => { h := bareOf r, off := r.d ++ r.a ++ r.b }

/-- JMPI and RET (R45, R294). -/
def jindOf (r : Raw) : Except DecodeErr Jind :=
  (check (!r.w) .wBit).bind fun _ => (check (r.x == 0 && r.d == 0) .reservedBits).map fun _ =>
    { h := bareOf r, a := .ofCode r.a, b := .reg 0 }

/-- LOOP, LOOPI and BRK (R46). -/
def lopOf (brk : Bool) (r : Raw) : Except DecodeErr Lop :=
  (check (!r.w) .wBit).bind fun _ =>
  (check (r.x == 0 && r.d.extractLsb' 1 4 == 0 && (!brk || (r.a == 0 && r.d.extractLsb' 0 1 == 0))) .reservedBits).map fun _ =>
    { h := bareOf r, ctr := r.d.extractLsb' 5 2, len := r.d.extractLsb' 0 1 ++ r.a, b := .ofCode r.b, imm := r.imm }

/-- ENG (R49): its operand fields and those of the ENG word. -/
def engOf (r : Raw) : Except DecodeErr Eng :=
  (checkW true r).bind fun _ => (check (r.x.extractLsb' 0 11 == 0) .reservedBits).bind fun _ => (hdrOf r).map fun h =>
    { h := h, w := r.w, d := r.d, a := .ofCode r.a, b := .ofCode r.b, c := .ofCode (r.x.extractLsb' 16 8),
      cls := r.eng.getLsbD 28, idx := r.eng.extractLsb' 22 6, imm := r.eng.extractLsb' 0 15 }

/-- The fields of an instruction that reads neither a nor b, which are ignored (R23, R54). -/
def Raw.unread (r : Raw) : Raw := { r with a := 0, b := 0 }

/-- Instructions whose d, a and b fields must be 0 (R280, R294). -/
def emptyOf (r : Raw) : Except DecodeErr Alu :=
  (check (r.d == 0 && r.a == 0 && r.b == 0) .reservedBits).bind fun _ => aluOf false r

/-- Instructions that exist only in long form (R50). -/
def longOf (r : Raw) : Except DecodeErr Unit := check r.long .noShortForm

/-! ## The opcode maps -/

/-- BAR by its mode (R370). -/
def barOf (r : Raw) : Except DecodeErr Instr :=
  (modeOf false r).bind fun o =>
    if o.mode = 0 then .ok (.barSync o) else if o.mode = 1 then .ok (.barArrive o)
    else if o.mode = 2 then .ok (.barWait o) else .error .unassigned

/-- The ENG functions with the class each is listed for (R49); WAIT, QUERY and CANCEL exist in both. -/
def engBuild (r : Raw) : Except DecodeErr Instr :=
  (engOf r).bind fun o =>
  if r.eng.extractLsb' 29 3 ≠ 0 then .error .engWord else
  match (r.eng.extractLsb' 15 7).toNat, o.cls with
  | 0x0, false => .ok (.engShape o)
  | 0x1, false => .ok (.engCopy o)
  | 0x2, false => .ok (.engPlane o)
  | 0x3, false => .ok (.engGather o)
  | 0x4, false => .ok (.engScatter o)
  | 0x5, false => .ok (.engFill o)
  | 0x6, false => .ok (.engUnplane o)
  | 0x10, true => .ok (.engSend o)
  | 0x11, true => .ok (.engRecv o)
  | 0x12, true => .ok (.engArm o)
  | 0x13, true => .ok (.engCntrd o)
  | 0x14, true => .ok (.engCntadd o)
  | 0x15, true => .ok (.engReduce o)
  | 0x16, _ => .ok (.engCancel o)
  | 0x20, _ => .ok (.engWait o)
  | 0x21, _ => .ok (.engQuery o)
  | _, _ => .error .engWord

/-- The V-set maps (R50, R51), codes 0x0 to 0xf. -/
def buildV00 (r : Raw) : Except DecodeErr Instr :=
  match r.code.toNat with
  | 0x00 => (emptyOf r).map .nop
  | 0x01 => (aluOf true r).map .mov
  | 0x02 => (aluOf true r).map .iadd
  | 0x03 => (aluOf true r).map .isub
  | 0x04 => (aluOf true r).map .imul
  | 0x05 => (aluOf true r).map .imulh
  | 0x06 => (aluOf true r).map .imulhu
  | 0x07 => (aluOf true r).map .imin
  | 0x08 => (aluOf true r).map .imax
  | 0x09 => (aluOf true r).map .iminu
  | 0x0a => (aluOf true r).map .imaxu
  | 0x0b => (aluOf true r).map .and
  | 0x0c => (aluOf true r).map .or
  | 0x0d => (aluOf true r).map .xor
  | 0x0e => (aluOf true r).map .shl
  | 0x0f => (aluOf true r).map .shr
  | _ => .error .unassigned

/-- The V-set maps (R50, R51), codes 0x10 to 0x1f. -/
def buildV10 (r : Raw) : Except DecodeErr Instr :=
  match r.code.toNat with
  | 0x10 => (aluOf true r).map .sar
  | 0x11 => (cmpOf r).map .icmp
  | 0x12 => (longOf r).bind fun _ => (aluOf true r).map .sel
  | 0x13 => (aluOf true r).map .fadd
  | 0x14 => (aluOf true r).map .fsub
  | 0x15 => (aluOf true r).map .fmul
  | 0x16 => (aluOf true r).map .fmin
  | 0x17 => (aluOf true r).map .fmax
  | 0x18 => (cmpOf r).map .fcmp
  | 0x19 => (aluOf true r).map .rcp
  | 0x1a => (aluOf true r).map .rsq
  | 0x1b => (aluOf true r).map .exp2
  | 0x1c => (aluOf true r).map .log2
  | 0x1d => (ldOf r).map .ld
  | 0x1e => (stOf r).map .st
  | 0x1f => (ldOf r).map .lds
  | _ => .error .unassigned

/-- The V-set maps (R50, R51), codes 0x20 to 0x2f. -/
def buildV20 (r : Raw) : Except DecodeErr Instr :=
  match r.code.toNat with
  | 0x20 => (stOf r).map .sts
  | 0x21 => (modeOf true r).map .lxch
  | 0x22 => (modeOf true r).map .poll
  | 0x23 => if r.x.getLsbD 0 then (braOf r).map .braNodiv else (braOf r).map .bra
  | 0x24 => (jmpOf r).map .meet
  | 0x25 => (emptyOf r.unread).map .exit
  | 0x26 => (aluOf true r).map .popc
  | 0x27 => (aluOf true r).map .clz
  | 0x28 => (aluOf true r).map .lea
  | 0x29 => (aluOf true r).map .iabs
  | 0x2a => (aluOf true r).map .ineg
  | 0x2b => (aluOf true r).map .fabs
  | 0x2c => (aluOf true r).map .fneg
  | 0x2d => (ldOf r).map .ldv
  | 0x2e => (stOf r).map .stv
  | 0x2f => (atmOf true r).map .atom
  | _ => .error .unassigned

/-- The V-set maps (R50, R51), codes 0x30 to 0x3f. -/
def buildV30 (r : Raw) : Except DecodeErr Instr :=
  match r.code.toNat with
  | 0x30 => (ldOf r).map .pres
  | 0x31 => (aluOf true r).map .fint
  | 0x32 => (aluOf true r).map .not
  | 0x33 => (aluOf true r).map .brev
  | 0x34 => (aluOf true r).map .sin
  | 0x35 => (aluOf true r).map .cos
  | 0x36 => (aluOf true r).map .tanh
  | 0x37 => (aluOf true r).map .sqrt
  | 0x38 => (immOf r).map .movi
  | 0x39 => (immOf r).map (.iaddi r.u)
  | 0x3a => (immOf r).map (.imuli r.u)
  | 0x3b => (immOf r).map (.andi r.u)
  | 0x3c => (immOf r).map (.ori r.u)
  | 0x3d => (immOf r).map .fmuli
  | 0x3e => (immOf r).map .faddi
  | _ => .error .unassigned

/-- The V-set maps (R50, R51), codes 0x40 to 0x4f. -/
def buildV40 (r : Raw) : Except DecodeErr Instr :=
  match r.code.toNat with
  | 0x40 => (aluOf true r).map .fma
  | 0x41 => (aluOf true r).map .imac
  | 0x42 => (aluOf true r).map .iadd64
  | 0x43 => (aluOf true r).map .isub64
  | 0x44 => (aluOf true r).map .bfx
  | 0x45 => (aluOf true r).map .bfi
  | 0x46 => (aluOf true r).map .fclass
  | 0x47 => (aluOf true r).map .logistic
  | 0x48 => (aluOf true r).map .cvt
  | 0x49 => (aluOf true r).map .qnt
  | 0x4a => (aluOf true r).map .dqn
  | 0x4b => (aluOf true r).map .amax
  | 0x4c => (aluOf true r).map .cblk
  | 0x4d => (aluOf true r).map .pfma
  | 0x4e => (aluOf true r).map .padd
  | 0x4f => (aluOf true r).map .pmul
  | _ => .error .unassigned

/-- The V-set maps (R50, R51), codes 0x50 to 0x5f. -/
def buildV50 (r : Raw) : Except DecodeErr Instr :=
  match r.code.toNat with
  | 0x50 => (atmOf true r).map .atoms
  | 0x51 => (check (r.d == 0) .reservedBits).bind fun _ => (atmOf false r).map .red
  | 0x52 => (modeOf true r).map .lreduce
  | 0x53 => (modeOf true r).map .peers
  | 0x54 => (aluOf false r).map .regroup
  | 0x55 => (aluOf true r).map .bdot
  | 0x56 => (aluOf true r).map .ycvt
  | 0x57 => (aluOf true r).map .yadd
  | 0x58 => (aluOf true r).map .ysub
  | 0x59 => (aluOf true r).map .ymul
  | 0x5a => (aluOf true r).map .ydiv
  | 0x5b => (aluOf true r).map .yneg
  | 0x5c => (aluOf true r).map .yrec
  | 0x5d => (aluOf true r).map .ysqr
  | 0x5e => (aluOf true r).map .yuni
  | 0x5f => (aluOf true r).map .yint
  | _ => .error .unassigned

/-- The V-set maps (R50, R51), codes 0x60 to 0x6f. -/
def buildV60 (r : Raw) : Except DecodeErr Instr :=
  match r.code.toNat with
  | 0x60 => (aluOf true r).map .ycmp
  | 0x61 => (aluOf true r).map .yhull
  | 0x62 => (aluOf true r).map .ypack
  | 0x63 => (aluOf true r).map .yunpk
  | 0x64 => (aluOf true r).map .ymid
  | 0x65 => (aluOf true r).map .ytest
  | 0x66 => (aluOf true r).map .ymap
  | 0x67 => (aluOf true r).map .yfma
  | 0x68 => (mtxOf r).map .msign
  | 0x69 => (mtxOf r).map .mma
  | 0x6a => (tmemOf r).map .tld
  | 0x6b => (tmemOf r).map .tst
  | 0x6c => (mtxOf r).map .tzero
  | 0x6d => (mtxOf r).map .tcvt
  | 0x6e => (mtxOf r).map .tamax
  | 0x6f => (mtxOf r).map .mwait
  | _ => .error .unassigned

/-- The V-set maps (R50, R51). -/
def buildV (r : Raw) : Except DecodeErr Instr :=
  match (r.code.extractLsb' 4 4).toNat with
  | 0 => buildV00 r
  | 1 => buildV10 r
  | 2 => buildV20 r
  | 3 => buildV30 r
  | 4 => buildV40 r
  | 5 => buildV50 r
  | 6 => buildV60 r
  | _ => .error .unassigned

/-- The U-set maps (R52, R53), codes 0x0 to 0xf. -/
def buildU00 (r : Raw) : Except DecodeErr Instr :=
  match r.code.toNat with
  | 0x00 => (emptyOf r).map .nopU
  | 0x01 => (aluOf true r).map .movU
  | 0x02 => (aluOf true r).map .iaddU
  | 0x03 => (aluOf true r).map .isubU
  | 0x04 => (aluOf true r).map .imulU
  | 0x05 => (aluOf true r).map .imulhU
  | 0x06 => (aluOf true r).map .imulhuU
  | 0x07 => (aluOf true r).map .iminU
  | 0x08 => (aluOf true r).map .imaxU
  | 0x09 => (aluOf true r).map .iminuU
  | 0x0a => (aluOf true r).map .imaxuU
  | 0x0b => (aluOf true r).map .andU
  | 0x0c => (aluOf true r).map .orU
  | 0x0d => (aluOf true r).map .xorU
  | 0x0e => (aluOf true r).map .shlU
  | 0x0f => (aluOf true r).map .shrU
  | _ => .error .unassigned

/-- The U-set maps (R52, R53), codes 0x10 to 0x1f. -/
def buildU10 (r : Raw) : Except DecodeErr Instr :=
  match r.code.toNat with
  | 0x10 => (aluOf true r).map .sarU
  | 0x11 => (cmpOf r).map .icmpU
  | 0x12 => (longOf r).bind fun _ => (aluOf true r).map .selU
  | 0x13 => (ldOf r).map .ldU
  | 0x14 => (stOf r).map .stU
  | 0x15 => (check (!r.x.getLsbD 0) .reservedBits).bind fun _ => (braOf r).map .bru
  | 0x16 => (jmpOf r).map .jmp
  | 0x17 => (jmpOf r).map .call
  | 0x18 => (jindOf { r with a := 0 }).map .ret
  | 0x19 => (jindOf r).map .jmpi
  | 0x1a => (lopOf false r).map .loop
  | 0x1b => (lopOf true r).map .brk
  | 0x1c => (emptyOf r.unread).map .yield
  | 0x1d => barOf r
  | 0x1e => (modeOf false r).map .gbar
  | 0x1f => (modeOf false r).map .stgw
  | _ => .error .unassigned

/-- The U-set maps (R52, R53), codes 0x20 to 0x2f. -/
def buildU20 (r : Raw) : Except DecodeErr Instr :=
  match r.code.toNat with
  | 0x20 => (modeOf false r).map .stga
  | 0x21 => (modeOf false r).map .fence
  | 0x22 => (aluOf false r).map .part
  | 0x23 => (aluOf true r).map .csrr
  | 0x24 => (aluOf false r).map .csrw
  | 0x25 => (aluOf true r).map .clk
  | 0x26 => (aluOf false r).map .burn
  | 0x27 => (aluOf true r).map .shunt
  | 0x28 => (aluOf true r).map .curr
  | 0x29 => (aluOf false r).map .trap
  | 0x2a => (aluOf true r).map .launch
  | 0x2b => (aluOf true r).map .gwait
  | 0x2c => (aluOf false r).map .wdog
  | 0x2d => (aluOf true r).map .fcnt
  | 0x2e => (aluOf false r).map .cbld
  | 0x2f => (aluOf true r).map .yring
  | _ => .error .unassigned

/-- The U-set maps (R52, R53), codes 0x30 to 0x3f. -/
def buildU30 (r : Raw) : Except DecodeErr Instr :=
  match r.code.toNat with
  | 0x30 => (aluOf true r).map .ctime
  | 0x31 => (aluOf true r).map .popcU
  | 0x32 => (aluOf true r).map .clzU
  | 0x33 => (aluOf true r).map .notU
  | 0x34 => (aluOf true r).map .leaU
  | 0x35 => (aluOf true r).map .iabsU
  | 0x36 => (emptyOf r.unread).map .exitU
  | 0x37 => engBuild r
  | 0x38 => (immOf r).map .moviU
  | 0x39 => (immOf r).map (.iaddi r.u)
  | 0x3a => (immOf r).map (.imuli r.u)
  | 0x3b => (immOf r).map (.andi r.u)
  | 0x3c => (immOf r).map (.ori r.u)
  | 0x3d => (cmpOf r).map fun o => .icmpi ⟨o, r.imm⟩
  | 0x3e => (lopOf false r).map .loopi
  | _ => .error .unassigned

/-- The U-set maps (R52, R53), codes 0x40 to 0x4f. -/
def buildU40 (r : Raw) : Except DecodeErr Instr :=
  match r.code.toNat with
  | 0x40 => (aluOf true r).map .imacU
  | 0x41 => (aluOf true r).map .iadd64U
  | 0x42 => (aluOf true r).map .isub64U
  | 0x43 => (aluOf true r).map .bfxU
  | 0x44 => (aluOf true r).map .bfiU
  | 0x45 => (atmOf true r).map .atomU
  | 0x46 => (ldOf r).map .pref
  | 0x47 => (ldOf r true).map .lockl
  | 0x48 => (ldOf r true).map .unlockl
  | 0x49 => (ldOf r).map .cinv
  | 0x4a => (ldOf r).map .cwb
  | 0x4b => (aluOf true r).map .opcl
  | 0x4c => (mtxOf r).map .mset
  | 0x4d => (mtxOf r).map .mstat
  | 0x4e => (aluOf true r).map .tagr
  | 0x4f => (aluOf true r).map .tagw
  | _ => .error .unassigned

/-- The U-set maps (R52, R53). -/
def buildU (r : Raw) : Except DecodeErr Instr :=
  match (r.code.extractLsb' 4 4).toNat with
  | 0 => buildU00 r
  | 1 => buildU10 r
  | 2 => buildU20 r
  | 3 => buildU30 r
  | 4 => buildU40 r
  | _ => .error .unassigned

/-- An extended opcode that no map assigns (R38, R51, R53). -/
def isUnassigned (u long : Bool) (code : BitVec 8) : Bool :=
  long && (code == 0x3F || (if u then 0x50 ≤ code.toNat else 0x70 ≤ code.toNat))

/-- The instruction of the fields (R50 to R53). -/
def build (r : Raw) : Except DecodeErr Instr := if r.u then buildU r else buildV r

/-- Decode the words of one instruction: the instruction, or the rule that the words break. A word whose extended
opcode no map assigns decodes to the instruction that only raises ILLEGAL_INSTRUCTION. -/
def decode (ws : List W32) : Except DecodeErr Instr :=
  match ws with
  | w0 :: w1 :: _ =>
    if isUnassigned (w0.getLsbD 31) (w0.extractLsb' 24 6 == 0x3F) (w1.extractLsb' 24 8) then
      .ok (.unassignedExtendedOpcode (w0.getLsbD 31) ⟨w0, w1⟩)
    else (decodeRaw ws).bind build
  | _ => (decodeRaw ws).bind build

/-! ## The encoder -/

def hdrBits (h : Hdr) (lo : BitVec 11) (c : BitVec 8) : BitVec 24 := c ++ guardBits h.guard ++ lo

/-- Extension bits of a form: zero in short form. -/
def Hdr.ext (h : Hdr) (x : BitVec 24) : BitVec 24 := if h.long then x else 0

def Alu.raw (u : Bool) (code : BitVec 8) (o : Alu) : Raw :=
  { u := u, sp := o.h.sp, long := o.h.long, code := code, w := o.w, d := o.d, a := o.a.code, b := o.b.code,
    x := o.h.ext (hdrBits o.h (o.fmt ++ o.rnd.bits ++ bit1 o.sat ++ o.var) o.c.code), imm := 0, eng := 0 }

def Imm.raw (u : Bool) (code : BitVec 8) (o : Imm) : Raw := { o.o.raw u code with imm := o.imm }

def Cmp.raw (u : Bool) (code : BitVec 8) (o : Cmp) : Raw :=
  { u := u, sp := o.h.sp, long := o.h.long, code := code, w := false, d := o.cond ++ bit1 o.u ++ o.p, a := o.a.code,
    b := o.b.code, x := o.h.ext (hdrBits o.h (o.fmt ++ (0 : BitVec 5)) o.c.code), imm := 0, eng := 0 }

def Ld.raw (u : Bool) (code : BitVec 8) (o : Ld) : Raw :=
  { u := u, sp := o.h.sp, long := o.h.long, code := code, w := o.w, d := o.d, a := o.a.code, b := o.b.code,
    x := o.h.ext (hdrBits o.h (o.width ++ bit1 o.sx ++ bit1 false ++ bit1 o.imm ++ o.order.bits ++ o.scope) ((0 : BitVec 2) ++ o.tag)),
    imm := 0, eng := 0 }

def St.raw (u : Bool) (code : BitVec 8) (o : St) : Raw :=
  { u := u, sp := o.h.sp, long := o.h.long, code := code, w := false, d := o.d, a := o.a.code, b := o.b.code,
    x := o.h.ext (hdrBits o.h (o.width ++ bit1 o.sx ++ bit1 false ++ bit1 o.imm ++ o.order.bits ++ o.scope) o.val.code),
    imm := 0, eng := 0 }

def Atm.raw (u : Bool) (code : BitVec 8) (o : Atm) : Raw :=
  { u := u, sp := o.h.sp, long := o.h.long, code := code, w := o.w, d := o.d, a := o.a.code, b := o.b.code,
    x := o.h.ext (hdrBits o.h (o.kind ++ bit1 o.wide ++ bit1 false ++ o.order.bits ++ o.scope) o.c.code), imm := 0, eng := 0 }

def Mode.raw (u : Bool) (code : BitVec 8) (o : Mode) : Raw :=
  { u := u, sp := o.h.sp, long := o.h.long, code := code, w := o.w, d := o.d, a := o.a.code, b := o.b.code,
    x := o.h.ext (hdrBits o.h (o.mode ++ (0 : BitVec 2) ++ o.scope) o.c), imm := 0, eng := 0 }

def Mtx.raw (u : Bool) (code : BitVec 8) (o : Mtx) : Raw :=
  { u := u, sp := o.h.sp, long := o.h.long, code := code, w := false, d := o.d, a := o.a.code, b := o.b.code,
    x := o.h.ext (hdrBits o.h (o.fmt ++ o.fusion ++ bit1 o.pair ++ bit1 o.var) ((0 : BitVec 2) ++ o.second)), imm := 0, eng := 0 }

def Tmem.raw (u : Bool) (code : BitVec 8) (o : Tmem) : Raw :=
  { u := u, sp := o.h.sp, long := o.h.long, code := code, w := false, d := o.d, a := o.a.code, b := o.b.code,
    x := o.h.ext (hdrBits o.h ((0 : BitVec 3) ++ o.space ++ (0 : BitVec 2) ++ o.kc) ((0 : BitVec 2) ++ o.tag)), imm := 0, eng := 0 }

def Bra.raw (u : Bool) (code : BitVec 8) (nodiv : Bool) (o : Bra) : Raw :=
  { u := u, sp := o.h.sp, long := o.h.long, code := code, w := false, d := bit1 o.neg ++ o.idx ++ o.off.extractLsb' 16 3,
    a := o.off.extractLsb' 8 8, b := o.off.extractLsb' 0 8, x := o.h.ext (if nodiv then 1 else 0), imm := 0, eng := 0 }

def Jmp.raw (u : Bool) (code : BitVec 8) (o : Jmp) : Raw :=
  { u := u, sp := o.h.sp, long := o.h.long, code := code, w := false, d := o.off.extractLsb' 16 7,
    a := o.off.extractLsb' 8 8, b := o.off.extractLsb' 0 8, x := 0, imm := 0, eng := 0 }

def Jind.raw (u : Bool) (code : BitVec 8) (o : Jind) : Raw :=
  { u := u, sp := o.h.sp, long := o.h.long, code := code, w := false, d := 0, a := o.a.code, b := o.b.code, x := 0, imm := 0, eng := 0 }

def Lop.raw (u : Bool) (code : BitVec 8) (o : Lop) : Raw :=
  { u := u, sp := o.h.sp, long := o.h.long, code := code, w := false, d := o.ctr ++ (0 : BitVec 4) ++ o.len.extractLsb' 8 1,
    a := o.len.extractLsb' 0 8, b := o.b.code, x := 0, imm := o.imm, eng := 0 }

def Eng.raw (func : BitVec 7) (o : Eng) : Raw :=
  { u := true, sp := o.h.sp, long := o.h.long, code := 0x37, w := o.w, d := o.d, a := o.a.code, b := o.b.code,
    x := o.h.ext (hdrBits o.h 0 o.c.code), imm := 0, eng := (0 : BitVec 3) ++ bit1 o.cls ++ o.idx ++ func ++ o.imm }

/-- The fields of an instruction; a step of the package has none. -/
def Instr.raw? : Instr → Option Raw
  | .nop o => some (o.raw false 0x00)
  | .nopU o => some (o.raw true 0x00)
  | .mov o => some (o.raw false 0x01)
  | .movU o => some (o.raw true 0x01)
  | .iadd o => some (o.raw false 0x02)
  | .iaddU o => some (o.raw true 0x02)
  | .isub o => some (o.raw false 0x03)
  | .isubU o => some (o.raw true 0x03)
  | .imul o => some (o.raw false 0x04)
  | .imulU o => some (o.raw true 0x04)
  | .imulh o => some (o.raw false 0x05)
  | .imulhU o => some (o.raw true 0x05)
  | .imulhu o => some (o.raw false 0x06)
  | .imulhuU o => some (o.raw true 0x06)
  | .imin o => some (o.raw false 0x07)
  | .iminU o => some (o.raw true 0x07)
  | .imax o => some (o.raw false 0x08)
  | .imaxU o => some (o.raw true 0x08)
  | .iminu o => some (o.raw false 0x09)
  | .iminuU o => some (o.raw true 0x09)
  | .imaxu o => some (o.raw false 0x0a)
  | .imaxuU o => some (o.raw true 0x0a)
  | .and o => some (o.raw false 0x0b)
  | .andU o => some (o.raw true 0x0b)
  | .or o => some (o.raw false 0x0c)
  | .orU o => some (o.raw true 0x0c)
  | .xor o => some (o.raw false 0x0d)
  | .xorU o => some (o.raw true 0x0d)
  | .shl o => some (o.raw false 0x0e)
  | .shlU o => some (o.raw true 0x0e)
  | .shr o => some (o.raw false 0x0f)
  | .shrU o => some (o.raw true 0x0f)
  | .sar o => some (o.raw false 0x10)
  | .sarU o => some (o.raw true 0x10)
  | .icmp o => some (o.raw false 0x11)
  | .icmpU o => some (o.raw true 0x11)
  | .icmpi o => some { o.o.raw true 0x3d with imm := o.imm }
  | .sel o => some (o.raw false 0x12)
  | .selU o => some (o.raw true 0x12)
  | .fadd o => some (o.raw false 0x13)
  | .fsub o => some (o.raw false 0x14)
  | .fmul o => some (o.raw false 0x15)
  | .fmin o => some (o.raw false 0x16)
  | .fmax o => some (o.raw false 0x17)
  | .fcmp o => some (o.raw false 0x18)
  | .rcp o => some (o.raw false 0x19)
  | .rsq o => some (o.raw false 0x1a)
  | .exp2 o => some (o.raw false 0x1b)
  | .log2 o => some (o.raw false 0x1c)
  | .ld o => some (o.raw false 0x1d)
  | .ldU o => some (o.raw true 0x13)
  | .st o => some (o.raw false 0x1e)
  | .stU o => some (o.raw true 0x14)
  | .lds o => some (o.raw false 0x1f)
  | .sts o => some (o.raw false 0x20)
  | .lxch o => some (o.raw false 0x21)
  | .poll o => some (o.raw false 0x22)
  | .bra o => some (o.raw false 0x23 false)
  | .braNodiv o => some (o.raw false 0x23 true)
  | .meet o => some (o.raw false 0x24)
  | .exit o => some (o.raw false 0x25)
  | .exitU o => some (o.raw true 0x36)
  | .popc o => some (o.raw false 0x26)
  | .popcU o => some (o.raw true 0x31)
  | .clz o => some (o.raw false 0x27)
  | .clzU o => some (o.raw true 0x32)
  | .lea o => some (o.raw false 0x28)
  | .leaU o => some (o.raw true 0x34)
  | .iabs o => some (o.raw false 0x29)
  | .iabsU o => some (o.raw true 0x35)
  | .ineg o => some (o.raw false 0x2a)
  | .fabs o => some (o.raw false 0x2b)
  | .fneg o => some (o.raw false 0x2c)
  | .ldv o => some (o.raw false 0x2d)
  | .stv o => some (o.raw false 0x2e)
  | .atom o => some (o.raw false 0x2f)
  | .atomU o => some (o.raw true 0x45)
  | .pres o => some (o.raw false 0x30)
  | .fint o => some (o.raw false 0x31)
  | .not o => some (o.raw false 0x32)
  | .notU o => some (o.raw true 0x33)
  | .brev o => some (o.raw false 0x33)
  | .sin o => some (o.raw false 0x34)
  | .cos o => some (o.raw false 0x35)
  | .tanh o => some (o.raw false 0x36)
  | .sqrt o => some (o.raw false 0x37)
  | .movi o => some (o.raw false 0x38)
  | .moviU o => some (o.raw true 0x38)
  | .iaddi u o => some (o.raw u 0x39)
  | .imuli u o => some (o.raw u 0x3a)
  | .andi u o => some (o.raw u 0x3b)
  | .ori u o => some (o.raw u 0x3c)
  | .fmuli o => some (o.raw false 0x3d)
  | .faddi o => some (o.raw false 0x3e)
  | .fma o => some (o.raw false 0x40)
  | .imac o => some (o.raw false 0x41)
  | .imacU o => some (o.raw true 0x40)
  | .iadd64 o => some (o.raw false 0x42)
  | .iadd64U o => some (o.raw true 0x41)
  | .isub64 o => some (o.raw false 0x43)
  | .isub64U o => some (o.raw true 0x42)
  | .bfx o => some (o.raw false 0x44)
  | .bfxU o => some (o.raw true 0x43)
  | .bfi o => some (o.raw false 0x45)
  | .bfiU o => some (o.raw true 0x44)
  | .fclass o => some (o.raw false 0x46)
  | .logistic o => some (o.raw false 0x47)
  | .cvt o => some (o.raw false 0x48)
  | .qnt o => some (o.raw false 0x49)
  | .dqn o => some (o.raw false 0x4a)
  | .amax o => some (o.raw false 0x4b)
  | .cblk o => some (o.raw false 0x4c)
  | .pfma o => some (o.raw false 0x4d)
  | .padd o => some (o.raw false 0x4e)
  | .pmul o => some (o.raw false 0x4f)
  | .atoms o => some (o.raw false 0x50)
  | .red o => some (o.raw false 0x51)
  | .lreduce o => some (o.raw false 0x52)
  | .peers o => some (o.raw false 0x53)
  | .regroup o => some (o.raw false 0x54)
  | .bdot o => some (o.raw false 0x55)
  | .ycvt o => some (o.raw false 0x56)
  | .yadd o => some (o.raw false 0x57)
  | .ysub o => some (o.raw false 0x58)
  | .ymul o => some (o.raw false 0x59)
  | .ydiv o => some (o.raw false 0x5a)
  | .yneg o => some (o.raw false 0x5b)
  | .yrec o => some (o.raw false 0x5c)
  | .ysqr o => some (o.raw false 0x5d)
  | .yuni o => some (o.raw false 0x5e)
  | .yint o => some (o.raw false 0x5f)
  | .ycmp o => some (o.raw false 0x60)
  | .yhull o => some (o.raw false 0x61)
  | .ypack o => some (o.raw false 0x62)
  | .yunpk o => some (o.raw false 0x63)
  | .ymid o => some (o.raw false 0x64)
  | .ytest o => some (o.raw false 0x65)
  | .ymap o => some (o.raw false 0x66)
  | .yfma o => some (o.raw false 0x67)
  | .msign o => some (o.raw false 0x68)
  | .mma o => some (o.raw false 0x69)
  | .tld o => some (o.raw false 0x6a)
  | .tst o => some (o.raw false 0x6b)
  | .tzero o => some (o.raw false 0x6c)
  | .tcvt o => some (o.raw false 0x6d)
  | .tamax o => some (o.raw false 0x6e)
  | .mwait o => some (o.raw false 0x6f)
  | .bru o => some (o.raw true 0x15 false)
  | .jmp o => some (o.raw true 0x16)
  | .call o => some (o.raw true 0x17)
  | .ret o => some (o.raw true 0x18)
  | .jmpi o => some (o.raw true 0x19)
  | .loop o => some (o.raw true 0x1a)
  | .loopi o => some (o.raw true 0x3e)
  | .brk o => some (o.raw true 0x1b)
  | .yield o => some (o.raw true 0x1c)
  | .barSync o => some (o.raw true 0x1d)
  | .barArrive o => some (o.raw true 0x1d)
  | .barWait o => some (o.raw true 0x1d)
  | .gbar o => some (o.raw true 0x1e)
  | .stgw o => some (o.raw true 0x1f)
  | .stga o => some (o.raw true 0x20)
  | .fence o => some (o.raw true 0x21)
  | .part o => some (o.raw true 0x22)
  | .csrr o => some (o.raw true 0x23)
  | .csrw o => some (o.raw true 0x24)
  | .clk o => some (o.raw true 0x25)
  | .burn o => some (o.raw true 0x26)
  | .shunt o => some (o.raw true 0x27)
  | .curr o => some (o.raw true 0x28)
  | .trap o => some (o.raw true 0x29)
  | .launch o => some (o.raw true 0x2a)
  | .gwait o => some (o.raw true 0x2b)
  | .wdog o => some (o.raw true 0x2c)
  | .fcnt o => some (o.raw true 0x2d)
  | .cbld o => some (o.raw true 0x2e)
  | .yring o => some (o.raw true 0x2f)
  | .ctime o => some (o.raw true 0x30)
  | .pref o => some (o.raw true 0x46)
  | .lockl o => some (o.raw true 0x47)
  | .unlockl o => some (o.raw true 0x48)
  | .cinv o => some (o.raw true 0x49)
  | .cwb o => some (o.raw true 0x4a)
  | .opcl o => some (o.raw true 0x4b)
  | .mset o => some (o.raw true 0x4c)
  | .mstat o => some (o.raw true 0x4d)
  | .tagr o => some (o.raw true 0x4e)
  | .tagw o => some (o.raw true 0x4f)
  | .engShape o => some (o.raw 0x00)
  | .engCopy o => some (o.raw 0x01)
  | .engPlane o => some (o.raw 0x02)
  | .engGather o => some (o.raw 0x03)
  | .engScatter o => some (o.raw 0x04)
  | .engFill o => some (o.raw 0x05)
  | .engUnplane o => some (o.raw 0x06)
  | .engSend o => some (o.raw 0x10)
  | .engRecv o => some (o.raw 0x11)
  | .engArm o => some (o.raw 0x12)
  | .engCntrd o => some (o.raw 0x13)
  | .engCntadd o => some (o.raw 0x14)
  | .engReduce o => some (o.raw 0x15)
  | .engCancel o => some (o.raw 0x16)
  | .engWait o => some (o.raw 0x20)
  | .engQuery o => some (o.raw 0x21)
  | .unassignedExtendedOpcode ..
  | .mateAgreement ..
  | .mmaComplete ..
  | .loopBack ..
  | .gbarComplete ..
  | .engineOperationEnd ..
  | .engineWriteProgress ..
  | .chunkLanding ..
  | .noRecvTimeout ..
  | .peerUnreachable ..
  | .loadDataReturn ..
  | .pageWalk ..
  | .homeSlotUnreachable ..
  | .faultResponse ..
  | .fetchFault ..
  | .mergeWindowClose ..
  | .faultQueueRetry ..
  | .firmwareFaultService ..
  | .resume ..
  | .faultServiceTimeout ..
  | .releaseAtHome ..
  | .acquireAtHome ..
  | .pull ..
  | .homeEpochAgePull ..
  | .dirtyByteDeadline ..
  | .scrub ..
  | .windowAck ..
  | .dispatchRequest ..
  | .teamStart ..
  | .teamRetire ..
  | .gridRetire ..
  | .graphNodeFire ..
  | .preemptionRequest ..
  | .forcedStop ..
  | .teamSaveEnd ..
  | .teamRestore ..
  | .issueLimitSwitch ..
  | .groupBoost ..
  | .barrierTimeout ..
  | .pairTimeout ..
  | .estimatorWindowEnd ..
  | .classChangeEnd ..
  | .powerIntervalEnd ..
  | .hotSpotMigration ..
  | .hotSpotStepUp ..
  | .arrivalReport ..
  | .budgetMessage ..
  | .pairedSignature ..
  | .counterIrq ..
  | .errorIrq ..
  | .dieFailure ..
  | .memorySideDieFailure ..
  | .ioDieFailure ..
  | .coreFailure ..
  | .dawn ..
  | .dawnPtpWaitExpiry ..
  | .ptpSync ..
  | .ptpHoldover ..
  | .keepalive ..
  | .linkLoss ..
  | .connectionRequest ..
  | .unknownMessage ..
  | .status ..
  | .attest ..
  | .semClaim ..
  | .semRelease ..
  | .contextCreate ..
  | .contextEnd ..
  | .window ..
  | .faultRoute ..
  | .recordFree ..
  | .plierrovLaunch ..
  | .threshold ..
  | .graphLoad ..
  | .graphPush ..
  | .rmaRead ..
  | .rmaWrite ..
  | .rmaAtomic ..
  | .ptSet ..
  | .migrate ..
  | .reclaim ..
  | .faultResume ..
  | .limits ..
  | .partition ..
  | .clusterMap ..
  | .errorStatus ..
  | .msConfigPtroot ..
  | .msConfigLease ..
  | .msConfigPeertab ..
  | .msConfigPoolb ..
  | .msConfigPooll ..
  | .thermal ..
  | .peerTable ..
  | .storeComplete ..
  | .tileOperationComplete ..
  | .completionTimePassed ..
  | .portRetirement ..
  | .peerAccessArrival .. => none

/-- The words of a well-formed instruction (R33 to R49); a step of the package has none. -/
def encode (i : Instr) : List W32 :=
  match i with
  | .unassignedExtendedOpcode _ r => [r.w0, r.w1]
  | i => match i.raw? with | some r => encodeRaw r | none => []

/-- How many words an instruction takes (R37). -/
def Instr.words (i : Instr) : Nat :=
  match i with
  | .unassignedExtendedOpcode .. => 2
  | i => match i.raw? with | some r => r.words | none => 0

/-! ## The table's numbering -/

/-- The first `n` words of a number, least significant first. -/
def wordsOfNat : Nat → Nat → List W32
  | 0, _ => []
  | n + 1, w => BitVec.ofNat 32 w :: wordsOfNat n (w / 2 ^ 32)

/-- The instruction the decoder reads from an instruction whose bits are `w`, numbered as the opcode table numbers
them; bits above `nbits` are 0. -/
def decodeTableWord (nbits w : Nat) : Option Instr :=
  match decode (wordsOfNat 5 (w % 2 ^ nbits)) with
  | .ok i => some i
  | .error _ => none

end Sys2Proof
end

