-- ==== Sys2Proof/Config.lean ====
section
/-! DEFINITION. What an implementation fixes or the spec leaves open: free values with no body, which no proof can
evaluate (assumption log 3). -/
namespace Sys2Proof.Config

/-- A word that the spec leaves undefined: registers a mask word does not name (R48, R243), registers of lanes that a
REGROUP leaves empty (R314). Applied to the counter `State.fresh`. -/
opaque freeWord : Nat → W32

/-- The port group to which an Ultra Ethernet port belongs (R79, R451): the manual gives masks of groups and no map from the 12 ports
to them (log 89). -/
opaque portGroup : Nat → Nat

/-- The public key under which dawn checks its images, 64 bytes (R9, R455); the manual does not give it. -/
opaque firmwareKey : BitVec 512

/-- The seeds of the device identity key, made at manufacture: the public seed, and the two secret ones (R457). -/
opaque identitySeed : BitVec 256
opaque identitySecret : BitVec 256
opaque identityPrf : BitVec 256

/-- The 32 bytes that a signer adds of its choice to a signature (R457; log 96). Applied to the counter `State.fresh`. -/
opaque signerChoice : Nat → BitVec 256

/-- An exact rational midpoint decision that no precision of the model settles (R285): which neighbour of an
irrational value is nearest, for a function number and an operand; see log 10. -/
opaque tieBreak : Nat → W32 → Bool

end Sys2Proof.Config
end

