-- ==== Sys2Proof/Machine/State.lean ====
section
/-! DEFINITION. The state of one Ozant package as plain data: every unit the spec gives the machine, each field with
the rule that names it, and the state right after reset. Sparse containers (`Sp`) list only what differs from the
default; the default of a field is its value at reset, or at the start of the unit that holds it. -/
namespace Sys2Proof.Machine
open Sys2Proof

/-- Why a step stops the model. No program and no host can cause one: each names a step asked for out of turn. -/
inductive Fault where
  /-- `exec` was asked to run a program instruction while no group holds the issue slot. Raised by every meaning of a
  program instruction through `issuing`; safe: `step` gives the slot to a group before it calls `exec`. -/
  | noIssuer
  /-- A step of the package was asked for while its precondition does not hold (for example the return of data that no
  lane waits for). Raised by the meanings of the package's own steps, with the step's mnemonic; safe: nothing happens. -/
  | notEnabled (what : String)
deriving DecidableEq, Repr

/-- Why an instruction has no meaning here. -/
inductive Refusal where
  /-- The instruction of this mnemonic has no meaning in the model yet; raised only by `exec`'s own arms; safe. -/
  | notModelled (mnemonic : String)
deriving DecidableEq, Repr

/-- The four thread states (R236). HELD is `held` at a meeting address and `regroup` at a REGROUP (R312), which keeps the
thread's key, the address of the instruction after the REGROUP and its mask word. -/
inductive ThreadMode where
  | active | waiting | held | regroup (key : W32) (after : Nat) (sp : Option Mask) | exited
deriving DecidableEq, Repr

/-- The states of a group slot (R240). -/
inductive GroupMode where
  | free | ready | interlocked | stalled | parked | barrier | meeting | formed | done | saving | stopped
deriving DecidableEq, Repr

/-- What a group that cannot issue waits for (R240): the detail behind its state. -/
inductive Wait where
  | none
  | latch (uid : Nat)        -- a pending latch (R96)
  | reg (uid : Nat)          -- a pending register (R95)
  | logEntry                 -- a free operand log entry (R93)
  | entries                  -- every earlier entry of the group (R97, R191)
  | acquire (uid : Nat)      -- an ACQ access in flight (R97, R147)
  | time (t : Nat)           -- package time passing t (R147, R178)
  | through (die mark t : Nat) -- the same, and every write-back that a home held before `mark` for the die (R77, R177)
  | presence                 -- presence counts (R124)
  | token (entry : Nat)      -- ENG.WAIT (R161)
  | grid (handle : Nat)      -- GWAIT (R382)
  | engine                   -- an ENG resource (R123, R158)
  | fetch (page : Nat)       -- an instruction fetch that faulted (R99)
  | bar (b gen : Nat)        -- completion of a team barrier (R371)
  | barNext (b gen : Nat)    -- the next generation of a team barrier (R371)
  | gbar (b gen : Nat)       -- completion of a gang barrier (R372)
  | gbarNext (b gen : Nat)   -- the next generation of a gang barrier
  | stage (k j : Nat) (full : Bool)   -- STGA (R374)
  | muster (n : Nat) (takes : Bool)   -- a muster, which an MMA takes as it completes (R332, R338)
  | mate                     -- the mate's signature (R339)
  | tile                     -- tile operations (R326)
  | tiles (upto : Nat) (t : Option Nat)   -- tile operations issued before an identifier, on one tile or on all (R332)
  | twin                     -- the other twin (R437)
  | regroup                  -- the other participants of a REGROUP (R312)
deriving DecidableEq, Repr

/-- The roles of R230. -/
inductive Role where
  | vector | copy | matrix
deriving DecidableEq, Repr

/-- One latch entry: valid bit, pending bit (the access or tile operation it waits for and which half), tag, values
by lane (lane 0 in the U-set) (R36, R246). -/
structure Latch where
  valid : Bool := false
  pend : Option (Nat × Bool) := none
  tag : Tag := 0
  vals : Sp W32 := []
deriving DecidableEq, Repr

/-- One active loop level: its counter's number, first word and end (R301). -/
structure Level where
  ctr : Nat
  start : Nat
  stop : Nat
deriving DecidableEq, Repr

/-- What a thread owns (R225, R263). -/
structure Thread where
  /-- Thread index, 11 bits (R225). -/
  tid : Nat := 0
  /-- Home lane, 6 bits (R225, R229). -/
  lane : Nat := 0
  /-- PC, 57 bits (R225). -/
  pc : Nat := 0
  /-- Meeting register, 57 bits with its valid bit (R225, R298). -/
  meet : Option Nat := none
  /-- v0 to v(V-1), 32 bits each (R225). -/
  v : Sp W32 := []
  /-- p0 to p7 (R225). -/
  p : BitVec 8 := 0
  /-- Thread state (R236). -/
  mode : ThreadMode := .active
  /-- Retired count, 64 bits (R263). -/
  retired : Nat := 0
deriving DecidableEq, Repr

/-- What a group owns (R226, R297). -/
structure Group where
  /-- The threads of the group, by home lane (R226). -/
  threads : List Thread := []
  /-- Role (R230). -/
  role : Role := .vector
  /-- s0 to s(S-1), 32 bits each (R226). -/
  s : Sp W32 := []
  /-- q0 to q7 (R226). -/
  q : BitVec 8 := 0
  /-- Loop counters lc0 to lc2, 32 bits each (R226, R301). -/
  lc : Sp Nat := []
  /-- Active loop levels, innermost first (R47, R301). -/
  levels : List Level := []
  /-- Sequential flow stands at the end of the innermost level, whose loop-back is due (R301). -/
  loopDue : Bool := false
  /-- g0 to g7, the partition sizes; unset is 0 (R304). -/
  g : Sp Nat := []
  /-- x0 to x3, newest first (R36). -/
  x : List Latch := []
  /-- y0 to y3, newest first (R36). -/
  y : List Latch := []
  /-- Format tags of v0 to v(V-1), 10 bits each (R226, R245). -/
  tags : Sp Tag := []
  /-- Registers with writes outstanding and the accesses that will make them, in issue order (R95). -/
  pendV : Sp (List Nat) := []
  /-- The same for uniform registers (R95). -/
  pendS : Sp (List Nat) := []
  /-- Writes outstanding that a later instruction has overtaken: the access, the register, and the thread index whose part of the
  register it is, 0 in a uniform register; 2048 stands for the register's tag (R95, log 11). -/
  superseded : List (Nat × Nat × Nat) := []
  /-- Completion horizon, a 64-bit package time (R178). -/
  horizon : Nat := 0
  /-- Current PC (R226). -/
  pc : Nat := 0
  /-- Group state (R240). -/
  mode : GroupMode := .ready
  /-- What it waits for (R240). -/
  wait : Wait := .none
  /-- Package time at which the wait began, and the core cycles of its team then (R375). -/
  since : Nat := 0
  mark : Nat := 0
  /-- Return stack, 16 entries of 57 bits, top first (R297). -/
  ret : List Nat := []
  /-- Outstanding-arrival flags of the team barriers, with the generation each names (R371). -/
  outB : Sp (Option Nat) := []
  /-- Outstanding-arrival flags of the gang barriers (R372). -/
  outG : Sp (Option Nat) := []
  /-- Consecutive issues since the last switch point (R239). -/
  run : Nat := 0
  /-- Boosted until its next issue (R407). -/
  boosted : Bool := false
  /-- Package time at which the group last became READY unissued (R407). -/
  readySince : Nat := 0
  /-- The mask word of the safe point at which it stopped (R243). -/
  stopMask : Option Mask := none
  /-- The group stopped for pre-emption at a safe point or by force (R242). -/
  stoppedAt : Option Bool := none
  /-- The mask word of an S = 1 instruction whose switch point waits for a loop-back (R239, R301). -/
  spDue : Option (Option Mask) := none
  /-- A switch point that waits for the words of the next instruction, with the mask word of an S = 1 (R20, R239). -/
  switchDue : Option (Option Mask) := none
  /-- Addresses of waiting instructions that have done what they do once before they wait again: the write-through of a
  release or fence (R156, R186), the consumption of an MMA's muster (R338), the operations of an MWAIT (R332). -/
  drained : List Nat := []
  /-- Address of an instruction whose wait is decided, whatever stands when it issues again: an MMA.PAIR to which the mate has agreed
(R339), an STGA whose slot has stood as it asks (R374), an MWAIT whose muster was complete (R332). -/
  agreed : Option Nat := none
  /-- The members of the formed group this group leads, itself among them (R241). -/
  formed : List Nat := []
  /-- While a formed group issues: each lane's home group and its uniform registers and q0 to q7 (R241). -/
  homes : Sp (Nat × Sp W32) := []
  /-- A register of the group holds an error that no code mends, which the REGROUP it waits at will find (R316). -/
  flaw : Bool := false
  /-- Address of the instruction in progress (R386). -/
  ipc : Nat := 0
  /-- Address of the group's last EXIT (R387). -/
  exitPc : Nat := 0
deriving DecidableEq, Repr

/-- One muster register (R328). -/
structure Muster where
  expected : Nat := 0
  count : Nat := 0
  signers : BitVec 64 := 0
  gen : BitVec 8 := 0
deriving DecidableEq, Repr

/-- One team or gang barrier (R371). -/
structure Barrier where
  gen : Nat := 0
  count : Nat := 0
  arrived : List Nat := []
  first : Nat := 0
  /-- The core cycles of each team at the first arrival, by team (R375). -/
  marks : Sp Nat := []
deriving DecidableEq, Repr

/-- One token-table entry (R159): generation, the operation it names, and its status once it ended (R160). -/
structure Token where
  gen : BitVec 14 := 0
  op : Nat := 0
  cls : Bool := false
  idx : BitVec 6 := 0
  ended : Option (W32 × Nat) := none
  done : Nat := 0
deriving DecidableEq, Repr

/-- Stage ring declaration: slots and slot bytes (R231). -/
structure StageDecl where
  slots : Nat := 0
  bytes : Nat := 0
deriving DecidableEq, Repr

/-- The kernel descriptor (R56, R389). -/
structure Kernel where
  entry : Nat := 0
  width : Nat := 16
  v : Nat := 32
  s : Nat := 16
  threads : Nat := 16
  gang : Nat := 1
  gclass : BitVec 2 := 0
  cls : Nat := 0
  rcore : Bool := false
  rkeys : Nat := 1
  merge : Bool := false
  autoburn : Bool := false
  checkpoint : Bool := false
  paired : Bool := false
  plane : Bool := false
  ring : Bool := false
  tensor : Nat := 0
  scratch : Nat := 0
  vault : Nat := 0
  roles : List Role := []
  stages : List StageDecl := []
deriving DecidableEq, Repr

/-- Where a team stands in its life (R234, R235, R242). -/
inductive TeamMode where
  | placed | running | stopping (since : Nat) | saving | stopped
deriving DecidableEq, Repr

/-- What a team owns (R227) together with its placement (R114, R401). -/
structure Team where
  /-- Team index in the grid, 64 bits (R227, R365). -/
  index : Nat := 0
  /-- Team slot on the core, 0-15 (R227). -/
  slot : Nat := 0
  /-- Context identifier (R227). -/
  ctx : Nat := 0
  /-- Launch slot (R227). -/
  launch : Nat := 0
  /-- Core: (die x 16 + cluster) x 16 + core (R3, R458). -/
  core : Nat := 0
  /-- Slice number on the core (R114). -/
  slice : Nat := 0
  /-- The kernel's descriptor (R389). -/
  k : Kernel := {}
  mode : TeamMode := .placed
  /-- The groups by slot, spare slots of R229 included while filled. -/
  groups : Sp Group := []
  /-- Vault allocation: offset in the cluster's vault and length (R86, R134). -/
  vault : Option (Nat × Nat) := none
  /-- Shadow region of a checkpointed team in the same vault (R134, R430). -/
  shadow : Option (Nat × Nat) := none
  /-- m0 to m15 (R328). -/
  musters : Sp Muster := []
  /-- The 16 team barriers (R371). -/
  bars : Sp Barrier := []
  /-- STAGE_STATE, 64 bits (R231). -/
  stage : BitVec 64 := 0
  /-- The token table, 256 entries (R159). -/
  tokens : Sp Token := []
  /-- The 16 shape slots of eight words (R163). -/
  shapes : Sp (List W32) := []
  /-- Gang and rank (R227, R232). -/
  gang : Option (Nat × Nat) := none
  /-- Nesting depth 0-9 (R233). -/
  depth : Nat := 0
  /-- FPMODE (R260). -/
  fpmode : BitVec 3 := 0
  /-- SEED (R262). -/
  seed : W64 := 0
  /-- LEASE_LEN in ns (R365). -/
  leaseLen : Nat := 0x1F4
  /-- WDOG_LIMIT in core cycles (R365, R375). -/
  wdog : Nat := 0x04000000
  /-- Burn level in ceu as BURN has set it, and the one in force in the window under way (R377). -/
  burn : Nat := 0
  burnNow : Nat := 0
  /-- OPCLASS.PEND and REQ (R380). -/
  opreq : Option Nat := none
  /-- OPCLASS.REQ as last requested (R365). -/
  opreqLast : Nat := 0
  /-- Core cycles counted in earlier residencies (R368). -/
  cycles : Nat := 0
  /-- Package time at which this residency began (R368). -/
  started : Nat := 0
  /-- Dispatch order (R406, R408). -/
  order : Nat := 0
  /-- Rollbacks over the team's life and mismatches, for its report item (R441). -/
  rollbacks : Nat := 0
  mismatches : Nat := 0
  /-- Package time before which the team may not migrate again (R426). -/
  settled : Nat := 0
  /-- The twin of a paired team, and whether this one is the primary (R435). -/
  twin : Option (Nat × Bool) := none
  /-- The launch for whose team this one is pre-empted (R408, R409). -/
  forLaunch : Option Nat := none
  /-- Clusters to which a thermal move takes the team (R426). -/
  targets : Option (List Nat) := none
  /-- Placed on a waiting cluster under R404. -/
  onWaiting : Bool := false
  /-- The fence of its save: the completion time it waits for, and the identifier before which held write-backs count (R197). -/
  saveFence : Option (Nat × Nat) := none
deriving DecidableEq, Repr

/-- State of an operand log entry (R94). -/
inductive EntryMode where
  | inflight | faulted | chained | replaying
deriving DecidableEq, Repr

/-- What a logged access does (R92). -/
inductive AccessKind where
  | load | store | atomic | red | tld | tst
deriving DecidableEq, Repr

/-- How far a lane's access has come (R91, R95): on its way to its holder; performed at its home, with the value on its
way back, whether it is poisoned (R142), and the completion time; a fault response on its way back, with the level, WP
and PEER flags (R91) or the cause of R105; reported to a stage; an acquire waiting for the settling of its records
(R183), which holds the value it read. -/
inductive LaneStage where
  | sent
  | home (value : W64) (poisoned : Bool) (time : Nat)
  | resp (level : Nat) (wp peer : Bool)
  | bad (cause : Nat)
  | reported
  | settling (until_ : Nat) (value : W64) (poisoned : Bool)
deriving DecidableEq, Repr

/-- One lane slot of an operand log entry (R94). -/
structure LogLane where
  lane : Nat
  tid : Nat := 0
  waiting : Bool := true
  gsel : Nat := 0
  ia : Nat := 0
  value : W64 := 0
  compare : W64 := 0
  stage : LaneStage := .sent
  /-- The replay of the entry that sent the lane again, until that replay has been counted (R103); 0 for none. -/
  replay : Nat := 0
  /-- The lane has been sent again: it is checked against the range locks once more (R98). -/
  again : Bool := false
  /-- Package time at which the lane was last sent (R77). -/
  sent : Nat := 0
  /-- A load whose L1 fill is outstanding, with the LEASE_LEN of its issue; none once a store has met the fill (R121, R367). -/
  fill : Option Nat := none
deriving DecidableEq, Repr

/-- One operand log entry (R94), with the decoded access it stands for. -/
structure LogEntry where
  uid : Nat := 0
  mode : EntryMode := .inflight
  replays : Nat := 0
  pc : Nat := 0
  iword : W32 := 0
  xword : W32 := 0
  ctx : Nat := 0
  team : Nat := 0
  /-- The home groups, one to four; each lane names one (R94, R109). -/
  grps : List Nat := []
  issued : Nat := 0
  kind : AccessKind := .load
  uset : Bool := false
  bytes : Nat := 4
  sx : Bool := false
  order : Order := .rlx
  scope : BitVec 3 := 0
  akind : BitVec 4 := 0
  w : Bool := false
  d : Nat := 0
  tag : Tag := 0
  lanes : List LogLane := []
deriving DecidableEq, Repr

/-- One L1 sector: 64 bytes under a lease (R120), in a bank of the array (R119). -/
structure L1Sector where
  sector : Nat
  bank : Nat := 0
  expiry : Nat
  data : BitVec 512
  /-- Poison by 8-byte word (R142). -/
  poison : BitVec 8 := 0
  used : Nat := 0
deriving DecidableEq, Repr

/-- One die L2 line (R130); `data` holds clean and dirty bytes, and the dirty mask says which are dirty. -/
structure L2Line where
  valid : BitVec 4 := 0
  data : BitVec 2048 := 0
  lease : Nat := 0
  permit : Bool := false
  horizon : Nat := 0
  dirty : BitVec 256 := 0
  epoch : W32 := 0
  since : Nat := 0
  lock : Option Nat := none
  /-- Poison by 8-byte word (R142). -/
  poison : BitVec 32 := 0
deriving DecidableEq, Repr

/-- A release record of a home-slice line (R182), with the package time of the release that last raised it (R181). -/
structure RelRec where
  epoch : W32 := 0
  pulled : Option W32 := none
  settled : Nat := 0
  raised : Nat := 0
  /-- A pull under way: its epoch, and the identifier before which its write-backs are held at their homes (R132, R183). -/
  under : Option (W32 × Nat) := none
deriving DecidableEq, Repr

/-- One home-slice line (R136). -/
structure HomeLine where
  valid : Bool := false
  data : BitVec 2048 := 0
  dirty : BitVec 256 := 0
  lease : Nat := 0
  dies : BitVec 8 := 0
  recs : Sp RelRec := []
  /-- Poison by 8-byte word (R142). -/
  poison : BitVec 32 := 0
deriving DecidableEq, Repr

/-- One tile register (R323). -/
structure Tile where
  data : Sp Byte := []
  tag : Tag := 0
  kc : Nat := 1
deriving DecidableEq, Repr

/-- What a queued tile operation does (R326): an MMA with the codebooks of its sides and, under PAIR on the upper mate, the
B operand of the lower one with its codebook (R319, R339); a conversion with its mode resolved; the bytes of a local load. -/
inductive TileWork where
  | mma (td ta tb : Nat) (fa fb : BitVec 6) (fusion kc : Nat) (pair upper : Bool) (tabA tabB : Option (BitVec 256))
      (start : Option Nat) (b : Option (Sp Byte × Option (BitVec 256)))
  | tcvt (td ta : Nat) (src dst : BitVec 6) (sideB : Bool) (fusion mode : Nat) (sat : Bool) (scale : Option W32)
  | tzero (td span : Nat)
  | tamax (ta v : Nat) (src : BitVec 6) (fusion mode : Nat) (lanes : List Nat)
  | tld (td : Nat) (data : Sp Byte)
  | tst (td : Nat)
  | logged (td : Nat) (store : Bool)
deriving DecidableEq, Repr

/-- One tile operation of the core, in issue order (R326), with the thread, retired count and key of its rounding (R262). -/
structure TileOp where
  uid : Nat
  team : Nat
  grp : Nat
  work : TileWork
  tid : Nat := 0
  count : Nat := 0
  seed : W64 := 0
  /-- Passes of an MMA on each sub-array (R320). -/
  passes : Nat := 0
  /-- Package time from which the passes of an MMA run that have not been charged, and the pass cycles that have been (R320, R413). -/
  begun : Option Nat := none
  charged : Nat := 0
deriving DecidableEq, Repr

/-- One ring slot: its finite points in ascending order; ∞ is the last point (R256, R344). -/
structure Ring where
  n : Nat
  points : List W32
  add : List (List Nat) := []
  mul : List (List Nat) := []
  div : List (List Nat) := []
  un : List (List Nat) := []
deriving DecidableEq, Repr

/-- The pipes of R405; `vectors` are both vector pipes at once. -/
inductive Pipe where
  | uniform | vector | vectors | memory | special | matrix
deriving DecidableEq, Repr

/-- The zones of R415. -/
inductive Zone where
  | day | dusk | midnight
deriving DecidableEq, Repr

/-- The estimator of one core (R412 to R419). -/
structure Estimator where
  /-- Weight sum of the window under way (R413). -/
  sw : Nat := 0
  /-- Current of the last window, unsaturated (R412). -/
  cur : Nat := 16
  /-- Deviation of the last window (R414). -/
  dev : Int := 0
  /-- Zone (R415). -/
  zone : Zone := .day
  /-- Dusk, midnight and calm counts, saturating at 255 (R415). -/
  dusk : Nat := 0
  mid : Nat := 0
  calm : Nat := 0
  /-- Auto level (R418). -/
  auto_ : Nat := 0
  /-- Hardware ballast of this window (R419). -/
  ballast : Nat := 0
  /-- Windows for which the barrier ballast has held (R419). -/
  held : Nat := 0
  /-- Draw that the regulator of a core outside R takes through ballast (R414). -/
  regulator : Nat := 0
  /-- Throttled for the whole window (R416). -/
  throttled : Bool := false
  /-- Ballast added by the package controller, in ceu (R423). -/
  ctlBallast : Nat := 0
deriving DecidableEq, Repr

/-- One core (R3): its array layout, caches, log, matrix and ring state, estimator. -/
structure Core where
  /-- Slice count and shape k, US, UT of the unified array (R114). -/
  k : Nat := 0
  us : Nat := 0
  ut : Nat := 0
  /-- The operand log, 64 entries (R92). -/
  log : Sp LogEntry := []
  /-- The fault filter: 64 KiB granules reported, at most 32 (R99). -/
  filter : List Nat := []
  /-- L1: valid sectors of the CACHE banks (R119, R120). -/
  l1 : List L1Sector := []
  /-- Presence counts of SCRATCH and TENSOR lines, by line of the array (R123). -/
  presence : Sp Nat := []
  /-- t0 to t7 (R323). -/
  tiles : Sp Tile := []
  /-- Tile operations in issue order (R326). -/
  tileOps : List TileOp := []
  /-- cb0 to cb15, 16 BF16 entries each (R254, R290). -/
  codebooks : Sp (Option (BitVec 256)) := []
  /-- Ring slots 0 and 1 (R344). -/
  rings : Sp (Option Ring) := []
  /-- The signature of an MMA.PAIR sent to the mate: its time, its group and its tile operation (R339). -/
  mate : Option (Nat × GrpRef × Nat) := none
  /-- EST_CUR: the word of CURR as of the last completed window (R365, R378). -/
  estWord : W32 := 0x10
  /-- Estimator counters (R412). -/
  est : Estimator := {}
  /-- The launch for which a pre-emption holds the core (R409). -/
  heldFor : Option Nat := none
  /-- Cycle of the core's last issue, the pipes taken in it, the groups that issued then with the addresses of their instructions, and
the cycle up to which the special-function pipe is taken, on the clock of its cluster (R405). -/
  last : Option Nat := none
  pipes : List Pipe := []
  issuers : List (GrpRef × Nat) := []
  special : Nat := 0
deriving DecidableEq, Repr

/-- A shunt grant on a column: team, ceu, windows left (R420); it starts at the next window (R379). -/
structure Grant where
  team : Nat
  ceu : Nat
  left : Nat
  pending : Bool := true
deriving DecidableEq, Repr

/-- One column of four cores in series (R411). -/
structure Column where
  /-- Shunt budget in ceu-windows (R420). -/
  budget : Nat := 65536
  grants : List Grant := []
  /-- Previous window's target (R414, R419). -/
  target : Nat := 0
  /-- To be retired once its other cores are empty (R442). -/
  retiring : Bool := false
deriving DecidableEq, Repr

/-- One cluster: a pool (R421), its partition (R410), its logical index (R443), its thermal state (R426). -/
structure Cluster where
  part : Nat := 0
  /-- Class of the pool: 0 NOON to 3 TWILIGHT (R421). -/
  cls : Nat := 0
  /-- End of a class change under way and the new class (R421). -/
  changing : Option (Nat × Nat) := none
  /-- A requested step of the class at the next team boundary (R424, R425, R426), and whether it is a thermal or a skew one (R427). -/
  stepTo : Option Nat := none
  stepNoted : Bool := false
  /-- Physical cluster of this logical index; none when unmapped (R443). -/
  phys : Option Nat := none
  /-- Hot-spot threshold in degrees (R426). -/
  hot : Nat := 95
  /-- Class before thermal steps, to step back up to (R426). -/
  thermalFrom : Option Nat := none
  /-- Class before the step of an arrival skew, to return to at the next tracked collective (R425). -/
  skewFrom : Option Nat := none
  /-- Windows completed since the clock of the pool last began, and the package time at which it did (R412, R421). -/
  windows : Nat := 0
  base : Nat := 0
  /-- Consecutive windows in which every non-TWILIGHT group waited (R404), and the time at which the last window ended. -/
  waitRun : Nat := 0
  sampled : Nat := 0
  /-- Saved teams hold this logical index's meaning (R443): a held map change. -/
  remap : Option (Option Nat) := none
deriving DecidableEq, Repr

/-- One compute die (R3, R129). -/
structure Die where
  /-- The die L2 lines by ia / 256 (R129, R130). -/
  lines : Sp L2Line := []
  /-- Die-lease horizons of lines that were evicted while an L1 may still hold a sector of them (R130, R177). -/
  past : Sp Nat := []
  /-- Release count, 32 bits wrapping (R181). -/
  release : W32 := 0
  /-- Failed fatally (R439). -/
  failed : Bool := false
  /-- Vault words poisoned, by 8-byte word of the die's vaults (R141). -/
  poison : List Nat := []
deriving DecidableEq, Repr

/-- One memory-side die (R79, R136). -/
structure Home where
  ptroot : Nat := 0
  /-- MS_CAP, set at dawn (R79). -/
  cap : Nat := 0
  /-- MS_PEERTAB slots (R79). -/
  peertab : Sp W64 := []
  /-- MS_LEASE (R79). -/
  lease : Nat := 0x0FA0
  /-- MS_POOLB, MS_POOLL and the pool space handed out (R79, R480). -/
  poolb : Nat := 0
  pooll : Nat := 0
  handed : List (Nat × Nat) := []
  /-- The home slice by ia / 256 (R136). -/
  lines : Sp HomeLine := []
  /-- 64 KiB pages poisoned (R77, R107). -/
  poisoned : List Nat := []
  /-- Stack words poisoned, by 8-byte word (R141). -/
  poison : List Nat := []
  /-- Failed fatally: every page homed here is poisoned (R440). -/
  failed : Bool := false
deriving DecidableEq, Repr

/-- A waiter of a fault record (R101). -/
inductive Waiter where
  | lanes (core entry uid granule : Nat) | engine (op : Nat) | fetch (g : GrpRef) | held (id : Nat)
deriving DecidableEq, Repr

/-- A fault record at its stage (R99 to R101). -/
structure FaultRec where
  ctx : Nat := 0
  page : Nat := 0
  level : Nat := 0
  wp : Bool := false
  peer : Bool := false
  access : BitVec 5 := 0
  waiters : List Waiter := []
  core : Nat := 0
  pc : Nat := 0
  opened : Nat := 0
  posted : Option Nat := none
  /-- Waiters at posting (R101). -/
  count : Nat := 0
  refused : Bool := false
deriving DecidableEq, Repr

/-- What a host RMA does (R449). -/
inductive RmaOp where
  | read (va : W64) (len : Nat)
  | write (va : W64) (data : List Byte)
  | atomic (va : W64) (kind : BitVec 4) (wide : Bool) (operand compare : W64)
deriving DecidableEq, Repr

/-- Whose completion time a held write-back is: the group of its CWB, or an engine operation (R154, R161). -/
inductive Owed where
  | group (g : GrpRef) | op (id : Nat)
deriving DecidableEq, Repr

/-- An access held at its home on the fault path (R91): a write-back of a die's bytes (8 is the I/O die) with its context and whose
it is; a store of a drained interval with the groups of its team that made it (R434); or a host RMA with the line behind whose held
write-back it waits and the time at which it was held (R77); or a peer's access (R82); or the read of a graph's node at its firing
(R399); or the store of a group's lane that is on its way to the scratchpad of a gang mate on another die (R146, R204). A write-back that has
been merged stays until its completion time has passed (R177). -/
inductive HeldAccess where
  | writeBack (die line : Nat) (mask : BitVec 256) (data : BitVec 2048) (poison : BitVec 32) (ctx since : Nat) (owner : Option Owed)
  | merged (die till : Nat)
  | store (core team : Nat) (grps : List Nat) (line : Nat) (mask : BitVec 256) (data : BitVec 2048) (buffer since : Nat)
  | rma (r : Req) (i : RmaOp) (windows : List (List W64)) (behind : Option Nat) (since : Nat)
  | peer (a : PeerAccess) (since : Nat)
  | node (graph node ia since : Nat)
  | pad (team grp mate off : Nat) (data : List Byte)
deriving DecidableEq, Repr

/-- The memory-side operations (R80). -/
inductive MsOp where
  | ptSet (expect new : W64)
  | migrate (new : W64)
  | reclaim
deriving DecidableEq, Repr

/-- A memory-side operation in hand: it runs once `ends` holds the time that its step 3 waits for, and else waits its turn
(R80, R83). The RMAs that reached its page meanwhile are held, in arrival order. -/
structure MemOp where
  req : Req
  home : Nat
  level : Nat
  /-- Offset of the page in its home. -/
  off : Nat
  op : MsOp
  ends : Option Nat := none
  held : List (Nat × Req × RmaOp × List (List W64)) := []
deriving DecidableEq, Repr

/-- The spaces an engine names (R164). -/
inductive Space where
  | global | scratch | vault | tensor
deriving DecidableEq, Repr

/-- A range an operation holds: locked destination, locked source, or presence counts (R123, R124, R148). -/
structure RangeHold where
  space : Space
  dst : Bool
  /-- Intermediate address, absolute vault address with the cluster, or array byte of the core. -/
  lo : Nat
  len : Nat
  core : Nat := 0
deriving DecidableEq, Repr

/-- What an engine operation does (R165 to R169). -/
inductive EngWork where
  | copy | gather | scatter | fill (pattern : W32) | plane (sideB : Bool) | unplane (sideB : Bool)
  | send (peer : Nat) (slot : Nat) (off : Nat) | reduce (peer : Nat) (slot : Nat) (off : Nat) (op : BitVec 2) (fmt : BitVec 6)
  | recv (slot : Nat) (counter : Nat)
deriving DecidableEq, Repr

/-- How far an operation has come. -/
inductive EngMode where
  | queued | bound (trigger : Nat) | running | suspended
  | halted      -- a fifth fault, which halts the queue of its engine (R108)
deriving DecidableEq, Repr

/-- One engine operation (R158 to R169), with the windows fixed at its issue (R66). -/
structure EngOp where
  /-- Its own identifier. -/
  id : Nat := 0
  cls : Bool := false
  die : Nat := 0
  idx : Nat := 0
  work : EngWork := .copy
  mode : EngMode := .queued
  team : Nat := 0
  grp : Nat := 0
  ctx : Nat := 0
  launch : Nat := 0
  core : Nat := 0
  token : Option Nat := none
  pc : Nat := 0
  src : Nat := 0
  dst : Nat := 0
  sspace : Space := .global
  dspace : Space := .global
  len : Nat := 0
  rows : Nat := 1
  spitch : Int := 0
  dpitch : Int := 0
  elem : Nat := 1
  fmt : BitVec 6 := 0
  scope : BitVec 3 := 0
  windows : List (List W64) := []
  locks : List RangeHold := []
  /-- Lines whose presence count the operation holds, as core x 2048 + line of its array (R123). -/
  lines : List Nat := []
  /-- Scratchpads by array byte with their cores: the team's own, then those of the ranks of its gang (R84). -/
  pads : List (Nat × Nat) := []
  /-- First array byte of the team's TENSOR slice, and its vault allocation as cluster x 2^25 + offset (R126, R86). -/
  tbase : Nat := 0
  vbase : Nat := 0
  /-- Package time that must have passed before the operation's first access (R192). -/
  after : Nat := 0
  /-- Bytes done, in the order of rows. -/
  progress : Nat := 0
  /-- Bytes landed of a RECV (R167); 1 once a SEND's chunk has left (R168). -/
  landed : Nat := 0
  /-- The chunk that is landing (R167). -/
  chunk : Option Chunk := none
  compl : Nat := 0
  /-- Write-backs held at a home before this identifier count toward the operation's completion (R177). -/
  mark : Nat := 0
  /-- Source bytes of a SEND or REDUCE read so far (R108, R168). -/
  got : List Byte := []
  /-- Package time since which its next access has been the operation's to make (R77). -/
  reached : Nat := 0
  issued : Nat := 0
  /-- The entry of the collective peer table with which a SEND or REDUCE started (R451). -/
  peer : Option (W64 × W64) := none
  /-- The skew groups and numbers of the tracked collectives that the operation is part of (R451). -/
  skew : List (Nat × Nat) := []
  /-- Package time of its last step: the model's own schedule (log 2). -/
  last : Option Nat := none
deriving DecidableEq, Repr

/-- A posted receive slot and an armed trigger slot (R167, R170). -/
structure Trigger where
  armed : Option (Nat × Nat) := none
  bound : List Nat := []
deriving DecidableEq, Repr

/-- One context (R10, R450). -/
structure Context where
  /-- WIN0 to WIN7, four 64-bit words each (R60). -/
  windows : List (List W64) := []
  /-- Intermediate address of the record area (R388). -/
  area : Nat := 0
  /-- Die L2 lock quotas (R133). -/
  quotas : List Nat := []
  /-- The 256 counters, 32 bits (R167). -/
  counters : Sp Nat := []
  /-- The 256 receive slots: the RECV posted in each (R167). -/
  recv : Sp (Option Nat) := []
  /-- The 256 trigger slots (R170). -/
  trig : Sp Trigger := []
  /-- The endpoint that claimed its fault records (R102). -/
  route : Option Nat := none
  /-- Record-area slots in use (R388). -/
  used : List Nat := []
  /-- Records held on the I/O die until a slot frees (R388). -/
  heldRecs : List (List W64) := []
  /-- Grids launched by its teams: handle to launch slot while live and status once retired (R382). -/
  grids : Sp (Option Nat × Nat) := []
  /-- The next grid handle (R381). -/
  nextHandle : Nat := 1
  /-- Window replacements not yet acknowledged: the request, and the operations translated before (R66). -/
  acks : List (Req × List Nat) := []
deriving DecidableEq, Repr

/-- A report item (R441). -/
structure Item where
  team : Nat
  status : Nat
  code : Nat
  rollbacks : Nat := 0
  mismatches : Nat := 0
  time : Nat := 0
deriving DecidableEq, Repr

/-- One accepted launch in its launch slot (R393). -/
structure Launch where
  ctx : Nat := 0
  k : Kernel := {}
  queue : Nat := 0
  part : Nat := 0
  seed : W64 := 0
  /-- First team of this device's share, one past the last, and the next not started (R392). -/
  lo : Nat := 0
  hi : Nat := 0
  next : Nat := 0
  /-- Acceptance order (R394). -/
  order : Nat := 0
  /-- The first dispatch attempt has been made (R113). -/
  checked : Bool := false
  /-- Saved teams at the head of its unstarted teams (R403). -/
  requeued : List Nat := []
  thresholds : Sp Nat := []
  /-- Thresholds that have fired at their present setting (R268). -/
  fired : List Nat := []
  /-- The exception counters, 48 bits (R264). -/
  counters : Sp Nat := []
  items : List Item := []
  parent : Option (Nat × Nat) := none
  children : Nat := 0
  depth : Nat := 0
  /-- The refusal status of R395, when refused at dispatch. -/
  refused : Option Nat := none
  /-- The graph and node that launched it (R397). -/
  graph : Option (Nat × Nat) := none
  /-- Dies that ran a team of it (R189). -/
  dies : BitVec 8 := 0
  /-- Latest completion horizon of its retired groups (R186, R189). -/
  horizon : Nat := 0
  /-- Completion time of the release that its report waits for, and the identifier before which held write-backs count (R189). -/
  releasing : Option (Nat × Nat) := none
deriving DecidableEq, Repr

/-- A graph edge: capacity, tokens, reserved slots (R396, R397). -/
structure Edge where
  cap : Nat
  tokens : Nat
  reserved : Nat := 0
deriving DecidableEq, Repr

/-- A resident task graph and its run (R396 to R399). -/
structure Graph where
  /-- The context that loaded it (R396). -/
  ctx : Nat := 0
  nodes : List (List W64) := []
  edges : List Edge := []
  running : Bool := false
  /-- Nodes fired: node, status, launch slot, iterations, end time (R398). -/
  fired : List (Nat × Nat × Nat × Nat × Nat) := []
  /-- Iterations of WHILE nodes in the run (R397). -/
  iters : Sp Nat := []
  failed : Option Nat := none
  /-- A host's push is in hand: the run does not end before it is applied (R398). -/
  pushing : Bool := false
deriving DecidableEq, Repr

/-- One gang (R232, R372). -/
structure Gang where
  members : List Nat := []
  /-- Threads expected at its barriers (R372). -/
  expected : Nat := 0
  bars : Sp Barrier := []
  /-- Broken: cause 1 a member terminated, 2 a die failed (R373). -/
  broken : Option Nat := none
  oneDie : Bool := true
deriving DecidableEq, Repr

/-- What a save of a team keeps (R243) beside the team: its slices, vault bytes, matrix and ring state, log entries. -/
structure Saved where
  team : Team := {}
  scratch : Sp Byte := []
  tensor : Sp Byte := []
  vault : Sp Byte := []
  /-- Poisoned words of the vault allocation, by 8-byte word in it (R142). -/
  vaultPoison : List Nat := []
  tiles : Sp Tile := []
  codebooks : Sp (Option (BitVec 256)) := []
  rings : Sp (Option Ring) := []
  entries : List LogEntry := []
deriving DecidableEq, Repr

/-- The interval of a checkpointed team (R431 to R434): held sectors with byte masks, vault sectors apart, counts held
(R266), the shadow copies newest first, rollbacks of the interval, and what a boundary still waits for. -/
structure Interval where
  held : Sp (BitVec 64 × BitVec 512) := []
  heldVault : Sp (BitVec 64 × BitVec 512) := []
  counts : Sp Nat := []
  copies : List Saved := []
  recoverable : Bool := true
  rollbacks : Nat := 0
  /-- Mismatches of this interval (R437). -/
  mismatched : Nat := 0
  /-- An early end is asked for at the next instruction boundary (R433, R434). -/
  early : Bool := false
  /-- The instruction of R433 that issues in its own interval: its group and whether it has issued. -/
  own : Option (Nat × Bool) := none
  /-- Groups that wait in an instruction of R433 whose arrival has been made, or have left it since the last boundary: a boundary stands
  before anything further of theirs. -/
  after : List Nat := []
  /-- The team stands at a boundary and waits for its twin (R437). -/
  atBoundary : Bool := false
  /-- Release stores of this interval, performed as releases at the drain (R433): address and scope. -/
  releases : List (Nat × Nat) := []
  /-- The identifier of the buffer's present contents, since its first store (R66). -/
  buffer : Nat := 0
  /-- Groups whose stores the buffer holds: the drain is theirs (R434). -/
  storers : List Nat := []
  /-- The newer copy stands in the upper half of the shadow region (R430). -/
  upper : Bool := false
deriving DecidableEq, Repr

/-- One Plierrov message the device sends: header fields of R446, body from offset 0x20, and the package time that must
have passed before it leaves (R66, R188). -/
structure Msg where
  ep : Nat
  type : BitVec 16
  seq : W32 := 0
  ctx : Nat := 0
  status : BitVec 16 := 0
  time : Nat := 0
  tag : W64 := 0
  body : List W64 := []
  after : Nat := 0
deriving DecidableEq, Repr

/-- A chunk sent to a peer module (R168, R169), or a peer's answer or report. -/
inductive NetOut where
  | chunk (op : Nat) (endpoint : W64) (ports : List Nat) (c : Chunk)
  | answer (c : Chunk) (overrun : Bool)
  | forward (slot : Nat) (write : Bool) (addr : Nat) (data : List Byte)
  | arrival (endpoint : W64) (grp number time : Nat)
  | budget (endpoint : W64) (watts : Nat)
  | keepalive (endpoint : Nat)
  | connection (ep : Nat) (accepted : Bool)
  | peerData (data : Option (List Byte))
deriving DecidableEq, Repr

/-- PTP states (R454). -/
inductive Ptp where
  | unlocked | locked | holdover
deriving DecidableEq, Repr

/-- One measurement-log entry (R456). -/
structure Measured where
  image : W32
  index : Nat
  version : W64
  digest : BitVec 512
deriving DecidableEq, Repr

/-- The package limits (R422). -/
structure Limits where
  cap : Nat := 4800
  ramp : Nat := 300
  skew : Nat := 0
  floors : List Nat := [0, 0, 0, 0, 0, 0, 0, 0]
  ceilings : List Nat := [4800, 4800, 4800, 4800, 4800, 4800, 4800, 4800]
deriving DecidableEq, Repr

/-- The power controller (R422 to R427). -/
structure Power where
  limits : Limits := {}
  /-- Draw measured over the last interval and the idle floor, mW (R422, R423). -/
  last : Nat := 0
  idle : Nat := 0
  /-- Intervals since dawn: the frame number (R427). -/
  seq : Nat := 0
  /-- Time of the last running measurement that the fall actions have answered (R423). -/
  fallAt : Nat := 0
  /-- Index of the last interval measured, package time by 1,000,000 ns (R422). -/
  mark : Nat := 0
  /-- Steps of R424 taken for the draw above the cap, and above the ceiling of each partition. -/
  level : Nat := 0
  levels : Sp Nat := []
  /-- Power borrowed from a peer for this interval, and lent, W (R425). -/
  borrowed : Nat := 0
  lent : Nat := 0
  /-- CURRENT_MIDNIGHT traps and class steps of the interval (R427). -/
  mids : Nat := 0
  steps : Nat := 0
  /-- Own arrival of the last tracked collective of each skew group: its number, its time, its launch (R425, R451). -/
  arrivals : Sp (Nat × Nat × Nat) := []
  /-- Arrivals that peers have reported, by skew group: number, latest time, its endpoint, endpoints heard (R451). -/
  reports : Sp (Nat × Nat × Nat × List Nat) := []
  /-- Collectives counted in each skew group (R451). -/
  collectives : Sp Nat := []
  /-- The last chunk that has left of a tracked collective under way, by skew group: its number, its time, its launch (R451). -/
  leaving : Sp (Nat × Nat × Nat) := []
deriving DecidableEq, Repr

/-- The I/O die (R2, R79, R444 to R457). -/
structure Io where
  /-- Dawn state as STATUS reports it: 1-7, 0x80 READY, 0xFF FAILED (R455). -/
  dawn : Nat := 1
  /-- Waiting in step 6 for PTP lock, and since when (R455). -/
  ptpWait : Option Nat := none
  /-- The measurement log (R456). -/
  log : List Measured := []
  /-- PTP state, the last offset, when it was last corrected, and whether it has locked since dawn (R454). -/
  ptp : Ptp := .unlocked
  offset : Int := 0
  lastSync : Nat := 0
  everLocked : Bool := false
  /-- What the steps of a dawn under way meet (R455). -/
  dawning : Option DawnInput := none
  /-- Requests for a report that the security processor holds, oldest first (R457). -/
  attests : List (Req × BitVec 256) := []
  /-- Messages that the device has sent of its own to each endpoint: their sequence numbers (R446). -/
  seqs : Sp Nat := []
  /-- The two controlling endpoints and the collective endpoint (R451, R452). -/
  ctl : Nat × Nat := (0, 0)
  coll : Nat := 0
  /-- The semaphore's holder (R452). -/
  sem : Option Nat := none
  /-- Package time of the last acknowledged traffic of each endpoint (R452). -/
  heard : Sp Nat := []
  /-- Package time of the last keepalives, and endpoints whose link is lost (R452). -/
  kept : Nat := 0
  lost : List Nat := []
  /-- IO_PTROOT (R79). -/
  ptroot : Nat := 0
  /-- The I/O die's own MS_PEERTAB (R79). -/
  peertab : Sp W64 := []
  /-- The collective peer table, 4,096 entries of two words (R451). -/
  peers : Sp (W64 × W64) := []
  /-- The fault queue, at most 4,096 records (R100). -/
  faultq : List (Origin × Nat) := []
  /-- Ultra Ethernet ports retired (R442). -/
  deadPorts : List Nat := []
  /-- Retired columns by die x 64 + physical cluster x 4 + column (R442, R443). -/
  deadCols : List Nat := []
  /-- Moves between partitions that are held, oldest first: the target and the clusters named (R410). -/
  moves : List (Nat × List Nat) := []
  /-- Failed fatally: the module answers nothing until the next dawn (R440). -/
  failed : Bool := false
  /-- Thresholds of corrected-error counts, by unit 0-16, and those that fired (R428). -/
  errThr : Sp Nat := []
  errFired : List Nat := []
  /-- Corrected-error counts, 48 bits, by unit 0-16 (R428). -/
  errors : Sp Nat := []
  /-- Counter thresholds reached whose interrupt is due: launch and counter (R268). -/
  irqs : List (Nat × Nat) := []
  /-- The die granted last in rotating order (R400). -/
  lastDie : Option Nat := none
  /-- The power controller (R422). -/
  power : Power := {}
deriving DecidableEq, Repr

/-- One turn of the package: a group issues, or a step of the package takes place. -/
inductive Turn where
  | issue (g : GrpRef)
  | event (i : Instr)
  /-- Groups that join the group that issues next (R241). -/
  | merge (g : GrpRef) (others : List Nat)
  /-- The checks of a REGROUP that waited (R109, R312). -/
  | meet (team : Nat)
  /-- Plierrov messages that arrive at the I/O die in one cycle, each the bytes that an endpoint has sent (R445, R446). -/
  | messages (l : List (Nat × List Byte))
  /-- An endpoint acknowledges traffic (R452). -/
  | acknowledged (ep : Nat)
deriving DecidableEq, Repr

/-- One Ozant package. -/
structure State where
  /-- Package time, 64-bit nanoseconds (R8). -/
  time : Nat := 0
  /-- The turns the outside world has fixed: the model's own schedule, not the spec's. -/
  turns : List Turn := []
  /-- The group that holds the issue slot, and the words of its instruction (for the log, R92). -/
  cur : Option (GrpRef × W32 × W32) := none
  /-- The model's own counter behind free values; no rule names it. -/
  fresh : Nat := 0
  /-- The next identifier of a team, access, operation or order of acceptance (the model's own). -/
  next : Nat := 1
  /-- The bytes of the eight stacks, the 128 vaults and the 2048 unified arrays (R5, R112, R134). -/
  mem : List Host.Cell := []
  /-- Peer pages that their device reports not present, as (endpoint, page) (R77): the outside world's. -/
  peerAbsent : List (Nat × Nat) := []
  /-- HOST and PEER pages that end a MIGRATE onto them in a fatal error, as (endpoint, page) (R82): the outside world's. -/
  badFrames : List (Nat × Nat) := []
  /-- Peer-table slots of homes that Ultra Ethernet does not reach, as (home, slot, the time at which it does again) (R77): the
  outside world's. -/
  deadSlots : List (Nat × Nat × Nat) := []
  /-- Running measurements of the package draw, as (time, mW) (R423): the outside world's. -/
  draws : List (Nat × Nat) := []
  /-- Memory of hosts and peers behind HOST and PEER frames and home 8, by endpoint x 2^52 + address, and the I/O die's own table
  (R74, R78). -/
  ext : List Host.Cell := []
  /-- Words of that memory poisoned, by 8-byte word (R142). -/
  extPoison : List Nat := []
  /-- The 2,048 cores by (die x 16 + cluster) x 16 + core (R3). -/
  cores : Sp Core := []
  /-- The 512 columns by cluster x 4 + column (R3, R411). -/
  columns : Sp Column := []
  /-- The 128 clusters by die x 16 + logical index (R3, R443). -/
  clusters : Sp Cluster := []
  /-- The compute dies (R2). -/
  dies : Sp Die := []
  /-- The memory-side dies M0 to M7 (R2); home 8 keeps the release records of its lines on the I/O die (R182). -/
  homes : Sp Home := []
  /-- The I/O die (R2). -/
  io : Io := {}
  /-- Fault stages: records by stage key x 2^16 + identifier (R99). -/
  stages : Sp FaultRec := []
  /-- Accesses held at their home (R91). -/
  held : Sp HeldAccess := []
  /-- Memory-side operations in hand, oldest first (R80). -/
  memOps : List MemOp := []
  /-- Contexts by identifier (R10). -/
  contexts : Sp Context := []
  /-- The 4,096 launch slots (R393). -/
  launches : Sp Launch := []
  /-- Task graphs by number, at most 64 (R396). -/
  graphs : Sp Graph := []
  /-- Gangs by identifier (R232). -/
  gangs : Sp Gang := []
  /-- Resident teams by identifier (R227). -/
  teams : Sp Team := []
  /-- Saved teams (R243, R403). -/
  saved : Sp Saved := []
  /-- Intervals of checkpointed teams (R431). -/
  intervals : Sp Interval := []
  /-- Engine operations queued, bound, running or suspended (R158). -/
  ops : Sp EngOp := []
  /-- Messages sent to hosts, oldest first (R446). -/
  out : List Msg := []
  /-- Traffic sent to peers and hosts' memories, oldest first (R168, R451). -/
  net : List NetOut := []
deriving DecidableEq, Repr

/-- The package right after reset: dawn is at its first step, every register holds its reset value, nothing is
resident and no byte differs from what an unlisted byte reads as. -/
def State.reset : State := {}

end Sys2Proof.Machine
end

