-- ==== Sys2Proof/Machine/Ops.lean ====
section
/-! DEFINITION. The named operations every meaning is built from: sparse containers, bytes of memory, the package's
units, latches and tags, the exception counters, and TAKING A TRAP as one shared operation (R384 to R388). -/
namespace Sys2Proof

/-! ## Sparse containers -/

/-- The entry of a key. -/
def Sp.find? {α : Type} : Sp α → Nat → Option α
  | [], _ => none
  | (k, v) :: r, i => if k = i then some v else Sp.find? r i

/-- The value of a key, `d` where nothing is listed. -/
def Sp.get {α : Type} (d : α) (m : Sp α) (i : Nat) : α := (m.find? i).getD d

/-- List `v` under a key, keeping the keys in rising order. -/
def Sp.put {α : Type} : Sp α → Nat → α → Sp α
  | [], i, v => [(i, v)]
  | (k, w) :: r, i, v => if i = k then (i, v) :: r else if i < k then (i, v) :: (k, w) :: r else (k, w) :: Sp.put r i v

/-- Drop every entry of a key. -/
def Sp.erase {α : Type} : Sp α → Nat → Sp α
  | [], _ => []
  | (k, w) :: r, i => if k = i then Sp.erase r i else (k, w) :: Sp.erase r i

/-- Write a value whose default is `d`: the default itself is not listed. -/
def Sp.set {α : Type} [DecidableEq α] (d : α) (m : Sp α) (i : Nat) (v : α) : Sp α :=
  if v = d then m.erase i else m.put i v

/-- Keys strictly rising from `lo` on. -/
def Sp.risingFrom {α : Type} : Nat → Sp α → Bool
  | _, [] => true
  | lo, (k, _) :: r => decide (lo ≤ k) && Sp.risingFrom (k + 1) r

def Sp.keys {α : Type} (m : Sp α) : List Nat := m.map (·.1)

/-- Change the entry of a key where there is one. -/
def Sp.adjust {α : Type} (m : Sp α) (i : Nat) (f : α → α) : Sp α :=
  match m.find? i with
  | some v => m.put i (f v)
  | none => m

namespace Machine

abbrev Out := Host.Outcome State Fault Refusal

/-! ## Bytes -/

/-- The canonical form of memory: addresses strictly rising, no listed byte equal to what an unlisted byte reads as. -/
def Memory.wf (m : List Host.Cell) : Bool := Sp.risingFrom 0 m && m.all (fun c => c.2 != 0)

/-- What a byte that no cell lists reads as (DESIGN CHOICE: the spec gives no contents at power-on; log 4). -/
def unlistedByte : Byte := 0

def readByte (m : List Host.Cell) (a : Nat) : Byte := Sp.get unlistedByte m a
def writeByte (m : List Host.Cell) (a : Nat) (b : Byte) : List Host.Cell := Sp.set unlistedByte m a b

/-- `n` bytes from `a` on. -/
def readBytes (m : List Host.Cell) (a : Nat) : Nat → List Byte
  | 0 => []
  | n + 1 => readByte m a :: readBytes m (a + 1) n

def writeBytes (m : List Host.Cell) (a : Nat) : List Byte → List Host.Cell
  | [] => m
  | b :: r => writeBytes (writeByte m a b) (a + 1) r

/-- Little-endian value of bytes (R4). -/
def leNat : List Byte → Nat
  | [] => 0
  | b :: r => b.toNat + 256 * leNat r

/-- The `n` little-endian bytes of a value. -/
def leBytes : Nat → Nat → List Byte
  | 0, _ => []
  | n + 1, v => BitVec.ofNat 8 v :: leBytes n (v / 256)

/-- Bytes of a list of 64-bit words (R386). -/
def wordBytes (ws : List W64) : List Byte := ws.flatMap fun w => leBytes 8 w.toNat

/-- The 64-bit words of bytes. -/
def bytesWords : Nat → List Byte → List W64
  | 0, _ => []
  | n + 1, bs => BitVec.ofNat 64 (leNat (bs.take 8)) :: bytesWords n (bs.drop 8)

/-- Where stack byte `a` of home `h` stands in the package's memory (R5). -/
def stackAt (h a : Nat) : Nat := h * 2 ^ 40 + a
/-- Where byte `o` of the vault of cluster `cl` (die x 16 + cluster) stands (R134). -/
def vaultAt (cl o : Nat) : Nat := 2 ^ 44 + cl * 2 ^ 25 + o
/-- Where byte `b` of a core's unified array stands: bank x 10,240 + byte (R112). -/
def arrayAt (core b : Nat) : Nat := 2 ^ 45 + core * 2 ^ 19 + b
/-- Where byte `a` of the memory of the host or device at endpoint `ep` stands, and where that of the I/O die's own table does, whose
key no endpoint of 48 bits has (R74, R78). -/
def slotAt (ep a : Nat) : Nat := ep * 2 ^ 52 + a
def ioTableAt (a : Nat) : Nat := slotAt (2 ^ 48) a

/-! ## Places -/

/-- Core identifier: (die x 16 + cluster) x 16 + core. -/
def dieOf (core : Nat) : Nat := core / 256
def clusterOf (core : Nat) : Nat := core / 16
def clusterInDie (core : Nat) : Nat := core / 16 % 16
def coreInCluster (core : Nat) : Nat := core % 16
/-- Core n of a cluster stands on layer n / 4 of column n mod 4 (R3, R458). -/
def columnOf (core : Nat) : Nat := core / 16 * 4 + core % 4
/-- The mate: the core of the same column on the other layer of its pair (R337). -/
def mateOf (core : Nat) : Nat := if core % 8 < 4 then core + 4 else core - 4

def State.core (s : State) (c : Nat) : Core := s.cores.get {} c
def State.setCore (s : State) (c : Nat) (x : Core) : State := { s with cores := s.cores.put c x }
def State.column (s : State) (c : Nat) : Column := s.columns.get {} c
def State.setColumn (s : State) (c : Nat) (x : Column) : State := { s with columns := s.columns.put c x }
def State.cluster (s : State) (c : Nat) : Cluster := s.clusters.get {} c
def State.setCluster (s : State) (c : Nat) (x : Cluster) : State := { s with clusters := s.clusters.put c x }
def State.die (s : State) (d : Nat) : Die := s.dies.get {} d
def State.setDie (s : State) (d : Nat) (x : Die) : State := { s with dies := s.dies.put d x }
def State.home (s : State) (h : Nat) : Home := s.homes.get {} h
def State.setHome (s : State) (h : Nat) (x : Home) : State := { s with homes := s.homes.put h x }
def State.ctx (s : State) (c : Nat) : Context := s.contexts.get {} c
def State.setCtx (s : State) (c : Nat) (x : Context) : State := { s with contexts := s.contexts.put c x }
def State.setTeam (s : State) (t : Nat) (x : Team) : State := { s with teams := s.teams.put t x }
def State.setGroup (s : State) (g : GrpRef) (x : Group) : State :=
  { s with teams := s.teams.adjust g.team fun t => { t with groups := t.groups.put g.grp x } }
/-- The team and the group of a reference. -/
def State.group? (s : State) (g : GrpRef) : Option (Team × Group) :=
  (s.teams.find? g.team).bind fun t => (t.groups.find? g.grp).map fun x => (t, x)
def State.updTeam (s : State) (t : Nat) (f : Team → Team) : State := { s with teams := s.teams.adjust t f }
def State.updGroup (s : State) (g : GrpRef) (f : Group → Group) : State :=
  s.updTeam g.team fun t => { t with groups := t.groups.adjust g.grp f }
def State.updCore (s : State) (c : Nat) (f : Core → Core) : State := s.setCore c (f (s.core c))
def State.updCtx (s : State) (c : Nat) (f : Context → Context) : State := { s with contexts := s.contexts.adjust c f }
def State.updLaunch (s : State) (l : Nat) (f : Launch → Launch) : State := { s with launches := s.launches.adjust l f }
def State.updOp (s : State) (o : Nat) (f : EngOp → EngOp) : State := { s with ops := s.ops.adjust o f }
def State.updIo (s : State) (f : Io → Io) : State := { s with io := f s.io }
def State.updHome (s : State) (h : Nat) (f : Home → Home) : State := s.setHome h (f (s.home h))
def State.updDie (s : State) (d : Nat) (f : Die → Die) : State := s.setDie d (f (s.die d))
def State.updCluster (s : State) (c : Nat) (f : Cluster → Cluster) : State := s.setCluster c (f (s.cluster c))
def State.updColumn (s : State) (c : Nat) (f : Column → Column) : State := s.setColumn c (f (s.column c))

/-- Clock of a class in tenths of a gigahertz (R7, R421): core cycles per 10 ns. -/
def classRate (c : Nat) : Nat := if c = 0 then 36 else if c = 1 then 30 else if c = 2 then 24 else 16

/-- Core cycles of a span of package time at a class, rounded up for waits (log 8). -/
def cyclesOf (cls ns : Nat) : Nat := ns * classRate cls / 10
def nsOf (cls cyc : Nat) : Nat := (cyc * 10 + classRate cls - 1) / classRate cls
/-- The nanosecond in which a cycle falls, counted from the same moment; the first cycle that falls in a nanosecond, and the last. -/
def nsAt (cls cyc : Nat) : Nat := cyc * 10 / classRate cls
def cycleFrom (cls ns : Nat) : Nat := (ns * classRate cls + 9) / 10
def cycleTo (cls ns : Nat) : Nat := cycleFrom cls (ns + 1) - 1

/-- The class a core's pool runs. -/
def State.classOf (s : State) (core : Nat) : Nat := (s.cluster (clusterOf core)).cls

/-- The cycle of a core's clock at a time, counted since that clock began (R412). -/
def State.clockCycle (s : State) (core time : Nat) : Nat := cyclesOf (s.classOf core) (time - (s.cluster (clusterOf core)).base)

/-- The core cycles that a team has been resident for, at the first cycle of the present nanosecond (R368, R375). -/
def State.teamCycle (s : State) (t : Team) : Nat := t.cycles + cycleFrom (s.classOf t.core) (s.time - t.started)

/-! ## Weights and passes (R320, R413) -/

def State.charge (s : State) (core w : Nat) : State :=
  s.updCore core fun c => { c with est := { c.est with sw := c.est.sw + w } }

/-- The first MMA in a core's queue. -/
def Core.firstMma (c : Core) : Option TileOp := c.tileOps.find? fun p => match p.work with | .mma .. => true | _ => false
/-- The passes of the first MMA in the queue begin, those of a paired one at the time that its mates have fixed (R320, R339). -/
def Core.beginMma (c : Core) (now : Nat) : Core :=
  match c.firstMma with
  | none => c
  | some p =>
    let from_ := match p.work with
      | .mma _ _ _ _ _ _ _ pair _ _ _ start _ => if pair then start.map (max now) else some now
      | _ => none
    if p.begun.isSome || from_.isNone then c
    else { c with tileOps := c.tileOps.map fun q => if q.uid = p.uid then { q with begun := from_ } else q }

/-- Pass cycles from a time until now, in one window: a throttled core passes in the even cycles only (R416). -/
def State.passCycles (s : State) (core since : Nat) : Nat :=
  let a := s.clockCycle core since
  let b := s.clockCycle core s.time
  if (s.core core).est.throttled then (b + 1) / 2 - (a + 1) / 2 else b - a

/-- The pass cycles of the running MMA up to now add their weight, one for each of the four sub-arrays (R320, R413). -/
def State.chargePasses (s : State) (core : Nat) : State :=
  match (s.core core).firstMma with
  | none => s
  | some p =>
    let n := min (p.passes - p.charged) (match p.begun with | some b => s.passCycles core b | none => 0)
    let on := fun (q : TileOp) => if q.uid = p.uid then { q with charged := q.charged + n, begun := q.begun.map (max s.time) } else q
    (s.updCore core fun c => { c with tileOps := c.tileOps.map on }).charge core (4 * 512 * n)

/-- The tile operations of a team end without effect: the passes that have run are charged, the next MMA of the queue begins, and the
team's signature of an MMA.PAIR goes with them (R106, R320, R339). -/
def State.dropTiles (s : State) (core team : Nat) : State :=
  (s.chargePasses core).updCore core fun c =>
    ({ c with tileOps := c.tileOps.filter fun o => o.team != team,
              mate := match c.mate with | some (_, g, _) => if g.team = team then none else c.mate | none => none } : Core).beginMma s.time

/-! ## Clusters at their boundaries (R410, R421, R443) -/

def State.clusterTeams (s : State) (cl : Nat) : List (Nat × Team) := s.teams.filter fun (_, t) => clusterOf t.core == cl

/-- A class change of a pool begins (R421): its cluster issues nothing for 20 µs, its cores have no current and stay out of every count.
A step down for a thermal or a skew reason counts in the frame (R427). -/
def State.changeClass (s : State) (cl cls : Nat) : State :=
  let c := s.cluster cl
  let noted := (c.stepNoted && decide (cls > c.cls)).toNat
  let quiet := fun (x : Core) => { x with est := { cur := 0, ctlBallast := x.est.ctlBallast }, estWord := 0 }
  let s1 := ((List.range 16).map fun i => cl * 16 + i).foldl (fun (u : State) k => u.updCore k quiet) s
  ({ s1 with io := { s1.io with power := { s1.io.power with steps := s1.io.power.steps + noted } } } : State).updCluster cl fun c =>
    { c with changing := some (s.time + 20000, cls), stepTo := none, stepNoted := false }

/-- Moves between partitions in their order: one takes place once no team is resident on the clusters that leave their partition and no
move before it that names one of them is held; the whole message is held until then (R410). -/
def State.makeMoves (s : State) (before : List (Nat × List Nat)) : List (Nat × List Nat) → State
  | [] => { s with io := { s.io with moves := before } }
  | (target, named) :: r =>
    let busy := named.any fun c => ((s.cluster c).part != target && !(s.clusterTeams c).isEmpty) || before.any fun m => m.2.contains c
    if busy then s.makeMoves (before ++ [(target, named)]) r
    else (named.foldl (fun (u : State) c => u.updCluster c fun x => { x with part := target }) s).makeMoves before r

/-- A held move takes a cluster to another partition: it receives no team (R410). -/
def State.moving (s : State) (cl : Nat) : Bool := s.io.moves.any fun (t, l) => l.contains cl && (s.cluster cl).part != t

/-- A retired column stands behind a logical one (R442, R443). -/
def State.colRetired (s : State) (col : Nat) : Bool :=
  (s.cluster (col / 4)).phys.any fun q => s.io.deadCols.contains (col / 64 * 64 + q * 4 + col % 4)

/-- What becomes due once a cluster has no resident team: a held move, a held map change, a step of its class. -/
def State.clusterBoundary (s : State) (cl : Nat) : State :=
  if !(s.clusterTeams cl).isEmpty then s else
  let s1 := s.makeMoves [] s.io.moves
  let same := (List.range 16).map fun i => cl / 16 * 16 + i
  let touched := same.filter fun c => (s1.cluster c).remap.isSome
  let s2 := if touched.all fun c => (s1.clusterTeams c).isEmpty then
      touched.foldl (fun (u : State) c => u.updCluster c fun x => { x with phys := x.remap.getD x.phys, remap := none }) s1
    else s1
  match (s2.cluster cl).stepTo with
  | some n => if (s2.cluster cl).changing.isNone then s2.changeClass cl n else s2
  | none => s2

/-! ## Slices of the unified array (R114, R126) -/

/-- Granted scratchpad bytes. -/
def Core.scratchBytes (c : Core) : Nat := c.us * 10240
def Core.tensorBytes (c : Core) : Nat := c.ut * 40960
/-- First array byte of a slice's SCRATCH and TENSOR banks. -/
def Core.scratchBase (c : Core) (slice : Nat) : Nat := slice * c.us * 10240
def Core.tensorBase (c : Core) (slice : Nat) : Nat := (32 - (slice + 1) * 4 * c.ut) * 10240

/-! ## Threads of a group -/

def Group.active (g : Group) : List Thread := g.threads.filter (·.mode == .active)
def Thread.unexited (t : Thread) : Bool := t.mode != .exited
/-- Converged: every unexited thread is ACTIVE (R297). -/
def Group.converged (g : Group) : Bool := g.threads.all fun t => t.mode == .active || t.mode == .exited
/-- The thread whose home lane is `l`. -/
def Group.at (g : Group) (l : Nat) : Option Thread := g.threads.find? (·.lane == l)
/-- The lowest-numbered ACTIVE thread; the lowest thread where none is ACTIVE (R386). -/
def Group.lead (g : Group) : Option Thread :=
  let pick := fun (l : List Thread) => l.foldl (fun (o : Option Thread) t =>
    match o with | none => some t | some u => if t.tid < u.tid then some t else some u) none
  if g.active.isEmpty then pick g.threads else pick g.active
def Group.mapActive (g : Group) (f : Thread → Thread) : Group :=
  { g with threads := g.threads.map fun t => if t.mode == .active then f t else t }

/-! ## Tags, latches and registers -/

def tagB32 : Tag := 0
def tagCode (t : Tag) : Nat := t.toNat / 16
def tagAux (t : Tag) : Nat := t.toNat % 16
def mkTag (code aux : Nat) : Tag := BitVec.ofNat 10 (code * 16 + aux)

def Group.tag (g : Group) (r : Nat) : Tag := g.tags.get tagB32 r
def Group.setTag (g : Group) (r : Nat) (t : Tag) : Group := { g with tags := g.tags.set tagB32 r t }
def Thread.reg (t : Thread) (r : Nat) : W32 := t.v.get 0 r
def Thread.setReg (t : Thread) (r : Nat) (x : W32) : Thread := { t with v := t.v.set 0 r x }
def Group.sreg (g : Group) (r : Nat) : W32 := g.s.get 0 r
def Group.setSreg (g : Group) (r : Nat) (x : W32) : Group := { g with s := g.s.set 0 r x }

/-- Push an entry: the older ones move down and the fourth is lost (R36). -/
def pushLatch (l : List Latch) (e : Latch) : List Latch := (e :: l).take 4
/-- Clear every latch: valid bits clear (R238, R239). -/
def Group.clearLatches (g : Group) : Group := { g with x := [], y := [] }
def latchAt (l : List Latch) (n : Nat) : Latch := l.getD n {}
def Latch.lane (l : Latch) (i : Nat) : W32 := l.vals.get 0 i

/-! ## Exception counters (R264 to R268) -/

/-- Counter number of a kind and a format code (R264). -/
def counterNo (kind code : Nat) : Nat := kind * 64 + code
def isFloatCode (c : Nat) : Bool := 1 ≤ c && c ≤ 0x0B
/-- The pairs that have a counter (R264). -/
def hasCounter (n : Nat) : Bool :=
  let kind := n / 64
  let c := n % 64
  if kind = 0 then isFloatCode c || c == 0x0C || c == 0x27
  else if kind = 1 then 1 ≤ c && c ≤ 6
  else if kind = 2 || kind = 3 then isFloatCode c || c == 0x0C
  else if kind = 4 then (0x10 ≤ c && c ≤ 0x19) || (0x20 ≤ c && c ≤ 0x26) || c == 0x28 || c == 0x29
  else if kind = 5 then 0x2A ≤ c && c ≤ 0x2E
  else false

/-- Counters whose threshold the present value has reached and that have not fired at it (R268). -/
def Launch.due (l : Launch) : List Nat :=
  l.thresholds.keys.eraseDups.filter fun n =>
    let t := l.thresholds.get 0 n
    t != 0 && t ≤ l.counters.get 0 n && !l.fired.contains n

/-- Note the thresholds reached: each is one interrupt still to be sent (R268). -/
def State.noteDue (s : State) (slot : Nat) : State :=
  match s.launches.find? slot with
  | none => s
  | some l =>
    { s with launches := s.launches.put slot { l with fired := l.due ++ l.fired },
             io := { s.io with irqs := s.io.irqs ++ l.due.map fun n => (slot, n) } }

/-- Add to a counter of a launch slot, saturating at 48 bits (R264). -/
def State.addCount (s : State) (slot n by_ : Nat) : State :=
  if hasCounter n then
    (s.updLaunch slot fun l =>
      { l with counters := l.counters.set 0 n (min (2 ^ 48 - 1) (l.counters.get 0 n + by_)) }).noteDue slot
  else s

def State.addCounts (s : State) (slot : Nat) : List (Nat × Nat) → State
  | [] => s
  | (n, k) :: r => (s.addCount slot n k).addCounts slot r

/-- Add one to each number listed, as pairs. -/
def tally (ns : List Nat) : List (Nat × Nat) :=
  ns.foldl (fun (m : Sp Nat) n => m.set 0 n (m.get 0 n + 1)) []

/-- Count for a team: with its interval while it is checkpointed or paired, at its launch otherwise (R264, R266). -/
def State.count (s : State) (team : Nat) (ns : List Nat) : State :=
  if ns.isEmpty then s else
  match s.teams.find? team with
  | none => s
  | some t =>
    let add := tally ns
    match s.intervals.find? team with
    | some iv =>
      let held := add.foldl (fun m (n, k) => Sp.set 0 m n (Sp.get 0 m n + k)) iv.counts
      { s with intervals := s.intervals.put team { iv with counts := held } }
    | none => s.addCounts t.launch add

/-! ## Tracked collectives and ports (R442, R451) -/

def peerGroup (e : W64 × W64) : Nat := (e.2.extractLsb' 48 3).toNat
def peerTrig (e : W64 × W64) : Nat := (e.2.extractLsb' 56 8).toNat
def peerEndpoint (e : W64 × W64) : W64 := e.1 &&& 0xFFFFFFFFFFFF

/-- The ports that traffic under a mask of port groups may use: those of its groups, every port where the mask is 0, without those
retired; where none of them remains, the remaining ports (R442, R451). -/
def State.portsFor (s : State) (mask : Nat) : List Nat :=
  let up := (List.range 12).filter fun p => !s.io.deadPorts.contains p
  let own := up.filter fun p => mask == 0 || mask.testBit (Config.portGroup p)
  if own.isEmpty then up else own

/-- The last chunk of a tracked collective has left, once no operation of it may still send one: its time is this device's arrival,
which every peer of the group is sent (R425, R451). -/
def State.arrived (s : State) (g n : Nat) : State :=
  if s.ops.any fun (_, q) => q.skew.contains (g, n) && q.landed == 0 then s else
  match s.io.power.leaving.find? g with
  | none => s
  | some (k, t, launch) =>
    if k ≠ n then s else
    let tell := fun (l : List NetOut) ((_, q) : Nat × W64 × W64) =>
      if q.1.getLsbD 63 && peerGroup q == g then l ++ [.arrival (peerEndpoint q) g n t] else l
    let p := s.io.power
    { s with io := { s.io with power := { p with arrivals := p.arrivals.put g (n, t, launch), leaving := p.leaving.erase g } },
             net := s.io.peers.foldl tell s.net }

/-! ## Messages -/

/-- A message joins its connection, which keeps its send order (R445); one that must wait leaves at its time (R66, R188). -/
def State.send (s : State) (m : Msg) : State :=
  let last := s.out.foldl (fun t x => if x.ep = m.ep then max t x.time else t) 0
  { s with out := s.out ++ [{ m with time := max s.time (max last m.after) }] }

/-- A message that the device sends of its own bears the next sequence number of its connection (R446; log 97). -/
def State.sendOwn (s : State) (m : Msg) : State :=
  let n := s.io.seqs.get 0 m.ep
  ({ s with io := { s.io with seqs := s.io.seqs.put m.ep (n + 1) } } : State).send { m with seq := BitVec.ofNat 32 n }

/-- A device-initiated message to both controlling endpoints (R384, R447). -/
def State.notify (s : State) (type : BitVec 16) (ctx : Nat) (body : List W64) (status : BitVec 16 := 0) (after : Nat := 0) : State :=
  (s.sendOwn { ep := s.io.ctl.1, type := type, ctx := ctx, status := status, body := body, after := after }).sendOwn
    { ep := s.io.ctl.2, type := type, ctx := ctx, status := status, body := body, after := after }

/-! ## Waking (R240) -/

/-- A group's wait ends: it is READY, or stays stopped for a save (R242). -/
def Group.wake (g : Group) (now : Nat) : Group :=
  if g.mode = .saving then { g with wait := .none } else { g with mode := .ready, wait := .none, readySince := now }

/-- Groups of a team whose wait has ended are READY; a wait for a log entry stays noted until the group issues (R93). -/
def State.wakeTeam (s : State) (id : Nat) (p : Nat → Group → Bool) : State :=
  let wake := fun ((k, g) : Nat × Group) => if p k g then (k, g.wake s.time) else (k, g)
  s.updTeam id fun t => { t with groups := t.groups.map wake }

def State.wakeAll (s : State) (p : Group → Bool) : State :=
  s.teams.keys.foldl (fun (u : State) id => u.wakeTeam id fun _ g => p g) s

/-- Waits on presence or on an engine: each instruction checks its condition again when it issues. -/
def Wait.onEngine : Wait → Bool
  | .presence | .engine => true
  | _ => false

/-- The order of lists by their first difference. -/
def lexLess : List Nat → List Nat → Bool
  | a :: r, b :: q => decide (a < b) || (a == b && lexLess r q)
  | _, _ => false

/-- A list in order; elements that are equal in it stay as they were. -/
def inOrder {α : Type} (le : α → α → Bool) : List α → List α
  | [] => []
  | a :: r =>
    let rec place : List α → List α
      | [] => [a]
      | b :: q => if le a b then a :: b :: q else b :: place q
    place (inOrder le r)

def fresh (s : State) : Nat × State := (s.next, { s with next := s.next + 1 })

end Machine
end Sys2Proof
end

