-- ==== Sys2Proof/Machine/Memory.lean ====
section
/-! DEFINITION. Global memory: the memory-side page table and its walk (R75 to R79), the home slices (R136), the die L2s
(R129 to R133), L1 (R119 to R121), leases and completion times (R177), pulls and releases (R181 to R187). -/
namespace Sys2Proof.Machine

/-! ## Lines -/

def homeOf (ia : Nat) : Nat := ia / 2 ^ 48
def offsetOf (ia : Nat) : Nat := ia % 2 ^ 48
def lineOf (ia : Nat) : Nat := ia / 256
/-- The 64 KiB granule of an intermediate address (R97). -/
def granuleOf (ia : Nat) : Nat := ia / 65536

def lineByte (d : BitVec 2048) (i : Nat) : Byte := d.extractLsb' (8 * i) 8
def setLineByte (d : BitVec 2048) (i : Nat) (b : Byte) : BitVec 2048 :=
  (d &&& ~~~((0xFF : BitVec 2048) <<< (8 * i))) ||| (b.setWidth 2048 <<< (8 * i))

/-- Take the bytes of `new` that the mask names, from byte `i` on. -/
def mergeFrom (mask : BitVec 256) (new : BitVec 2048) : Nat → Nat → BitVec 2048 → BitVec 2048
  | 0, _, d => d
  | n + 1, i, d => mergeFrom mask new n (i + 1) (if mask.getLsbD i then setLineByte d i (lineByte new i) else d)

def mergeLine (mask : BitVec 256) (new old : BitVec 2048) : BitVec 2048 :=
  if mask = 0 then old else mergeFrom mask new 256 0 old

/-- The bytes of one line from `o` on, as line data with the mask that names them. -/
def lineOfBytes (o : Nat) (bs : List Byte) : BitVec 256 × BitVec 2048 :=
  (BitVec.ofNat 256 ((2 ^ bs.length - 1) * 2 ^ o), BitVec.ofNat 2048 (leNat bs * 2 ^ (8 * o)))

def lineBytes (d : BitVec 2048) (o n : Nat) : List Byte := leBytes n (d.toNat / 2 ^ (8 * o))

/-- Words of a line of which the mask names some byte, and every byte. -/
def someWords (mask : BitVec 256) : BitVec 32 :=
  (List.range 32).foldl (fun m i => if mask.extractLsb' (8 * i) 8 != 0 then m ||| (1 <<< i) else m) 0
def fullWords (mask : BitVec 256) : BitVec 32 :=
  (List.range 32).foldl (fun m i => if mask.extractLsb' (8 * i) 8 == 0xFF then m ||| (1 <<< i) else m) 0
/-- Poison after bytes are written: it travels with the new word and leaves a word written in full (R142). -/
def mergePoison (mask : BitVec 256) (new old : BitVec 32) : BitVec 32 :=
  if new = 0 ∧ old = 0 then 0 else (old &&& ~~~fullWords mask) ||| (new &&& someWords mask)
/-- Whether a word that `n` bytes from `o` on touch is poisoned. -/
def poisonedAt (p : BitVec 32) (o n : Nat) : Bool :=
  p != 0 && (List.range 32).any fun i => p.getLsbD i && decide (8 * i < o + n) && decide (o < 8 * i + 8)

/-- The byte mask of the sectors of a valid field. -/
def sectorMask (v : BitVec 4) : BitVec 256 :=
  let one := fun (i : Nat) => if v.getLsbD i then BitVec.ofNat 256 ((2 ^ 64 - 1) * 2 ^ (64 * i)) else 0
  one 0 ||| one 1 ||| one 2 ||| one 3

/-! ## The page table (R75 to R77) -/

/-- A leaf that a walk found: its level, the stack address of its entry, the entry and the frame's first byte. -/
structure Leaf where
  level : Nat
  entry : Nat
  word : Nat
  frame : Nat
  kind : Nat      -- 2 LOCAL, 3 HOST, 4 PEER (R76)
  slot : Nat
deriving DecidableEq, Repr

inductive Walk where
  | leaf (l : Leaf)
  | absent (level : Nat)
  | peerAbsent (level : Nat)
  | bad (cause : Nat)
deriving DecidableEq, Repr

/-- An entry of a home's table; the table of home 8 lies on the I/O die (R74, R75). -/
def State.entry (s : State) (h a : Nat) : Nat :=
  if h < 8 then leNat (readBytes s.mem (stackAt h a) 8) else leNat (readBytes s.ext (ioTableAt a) 8)

def State.setEntry (s : State) (h a e : Nat) : State :=
  if h < 8 then { s with mem := writeBytes s.mem (stackAt h a) (leBytes 8 e) }
  else { s with ext := writeBytes s.ext (ioTableAt a) (leBytes 8 e) }

def State.peerSlot (s : State) (h n : Nat) : W64 := if h < 8 then (s.home h).peertab.get 0 n else s.io.peertab.get 0 n
/-- The endpoint of the host or device that a slot of a home's peer table names, by its entry in the collective peer table (R78, R79,
R451). -/
def State.endpointOf (s : State) (h n : Nat) : Nat := (s.io.peers.get (0, 0) ((s.peerSlot h n).toNat % 2 ^ 12)).1.toNat % 2 ^ 48
def State.ptroot (s : State) (h : Nat) : Nat := if h < 8 then (s.home h).ptroot else s.io.ptroot

/-- Index of an offset at a level, span of an entry at a level, bytes of the table at a level (R75, R80). -/
def ptIndex (level o : Nat) : Nat :=
  if level = 1 then o / 2 ^ 39 % 512 else if level = 2 then o / 2 ^ 30 % 512
  else if level = 3 then o / 2 ^ 21 % 512 else o / 2 ^ 16 % 32
def ptSpan (level : Nat) : Nat :=
  if level = 1 then 2 ^ 39 else if level = 2 then 2 ^ 30 else if level = 3 then 2 ^ 21 else 2 ^ 16
def ptBytes (level : Nat) : Nat := if level = 4 then 256 else 4096

def pteType (e : Nat) : Nat := e / 2 ^ 61
def pteWp (e : Nat) : Bool := e.testBit 58
def pteSlot (e : Nat) : Nat := e / 2 ^ 52 % 64
def pteFrame (e : Nat) : Nat := e % 2 ^ 52 / 2 ^ 16 * 2 ^ 16
def pteTable (e : Nat) : Nat := e % 2 ^ 37 / 2 ^ 12 * 2 ^ 12

/-- Malformed entries (R76); home 8 admits only HOST leaves (R74). -/
def State.malformed (s : State) (h level e : Nat) : Bool :=
  let ty := pteType e
  if ty = 0 then false
  else if ty = 1 then level = 4 || e % 2 ^ 12 != 0 || e / 2 ^ 37 % 2 ^ 15 != 0 || pteSlot e != 0
  else if ty ≤ 4 then
    level < 3 || e % 2 ^ 16 != 0 || (level = 3 && e / 2 ^ 16 % 32 != 0) || (h = 8 && ty != 3) ||
    (ty = 2 && (pteSlot e != 0 || pteFrame e + ptSpan level > (s.home h).cap)) ||
    (ty != 2 && !(s.peerSlot h (pteSlot e)).getLsbD 63) ||
    (ty = 4 && pteFrame e / 2 ^ 48 ≥ 8)
  else true

/-- Walk from a table at a level (R75, R77). -/
def State.walkAt (s : State) (h o : Nat) : Nat → Nat → Nat → Walk
  | 0, _, _ => .bad 1
  | n + 1, level, table =>
    let a := table + 8 * ptIndex level o
    let e := s.entry h a
    if s.malformed h level e then .bad 1
    else if pteType e = 0 then .absent level
    else if pteType e = 1 then s.walkAt h o n (level + 1) (pteTable e)
    else if pteType e = 4 && s.peerAbsent.contains (s.endpointOf h (pteSlot e), (pteFrame e + o % ptSpan level) / 65536) then .peerAbsent level
    else .leaf { level := level, entry := a, word := e, frame := pteFrame e, kind := pteType e, slot := pteSlot e }

/-- The walk of an intermediate address (R77): a poisoned page ends it, and a failed home is poisoned whole (R440). -/
def State.walk (s : State) (ia : Nat) : Walk :=
  let h := homeOf ia
  let o := offsetOf ia
  if h < 8 && ((s.home h).failed || (s.home h).poisoned.contains (o / 65536)) then .bad 2
  else s.walkAt h o 4 1 (s.ptroot h)

/-- ACC, and DRT for a write, set in the entry as it stands (R76, R77). -/
def State.touch (s : State) (ia : Nat) (l : Leaf) (write : Bool) : State :=
  s.setEntry (homeOf ia) l.entry (s.entry (homeOf ia) l.entry ||| 2 ^ 60 ||| (if write then 2 ^ 59 else 0))

/-- Bytes of the frame behind a leaf (R78). -/
def State.frameBytes (s : State) (ia : Nat) (l : Leaf) (n : Nat) : List Byte :=
  let a := l.frame + ia % ptSpan l.level
  if l.kind = 2 then readBytes s.mem (stackAt (homeOf ia) a) n else readBytes s.ext (slotAt (s.endpointOf (homeOf ia) l.slot) a) n

def State.setFrame (s : State) (ia : Nat) (l : Leaf) (bs : List Byte) : State :=
  let a := l.frame + ia % ptSpan l.level
  if l.kind = 2 then { s with mem := writeBytes s.mem (stackAt (homeOf ia) a) bs }
  else { s with ext := writeBytes s.ext (slotAt (s.endpointOf (homeOf ia) l.slot) a) bs }

/-! ## Home slices (R136) -/

def State.slice (s : State) (line : Nat) : HomeLine := (s.home (homeOf (line * 256))).lines.get {} line
def State.setSlice (s : State) (line : Nat) (x : HomeLine) : State :=
  s.updHome (homeOf (line * 256)) fun h => { h with lines := h.lines.put line x }

/-- Set of a home slice line (R136). -/
def sliceSet (line : Nat) : Nat := (line % 2 ^ 14) ^^^ (line / 2 ^ 14 % 2 ^ 14)

/-- The poisoned words of a list that lie in a line from word `w` on, and the list with these words of the line poisoned and no
other (R142). -/
def lineFlaws (l : List Nat) (w : Nat) : BitVec 32 :=
  (l.filter fun k => decide (w ≤ k) && decide (k < w + 32)).foldl (fun m k => m ||| (1 <<< (k - w))) 0
def withFlaws (l : List Nat) (w : Nat) (p : BitVec 32) : List Nat :=
  ((List.range 32).filter fun i => p.getLsbD i).map (w + ·) ++ l.filter fun k => !(decide (w ≤ k) && decide (k < w + 32))

/-- Poison of a line in its frame: in the home's stack, or in the host's or peer's memory (R141, R142). -/
def State.framePoison (s : State) (ia : Nat) (l : Leaf) : BitVec 32 :=
  let a := l.frame + ia % ptSpan l.level
  if l.kind = 2 then lineFlaws (s.home (homeOf ia)).poison (a / 8)
  else lineFlaws s.extPoison (slotAt (s.endpointOf (homeOf ia) l.slot) a / 8)

def State.setFramePoison (s : State) (ia : Nat) (l : Leaf) (p : BitVec 32) : State :=
  let a := l.frame + ia % ptSpan l.level
  if l.kind = 2 then
    if p = 0 ∧ (s.home (homeOf ia)).poison = [] then s else s.updHome (homeOf ia) fun h => { h with poison := withFlaws h.poison (a / 8) p }
  else if p = 0 ∧ s.extPoison = [] then s
  else { s with extPoison := withFlaws s.extPoison (slotAt (s.endpointOf (homeOf ia) l.slot) a / 8) p }

/-- Bytes within one line written to its frame; a word written in full loses its poison (R142). -/
def State.writeFrame (s : State) (ia : Nat) (l : Leaf) (bs : List Byte) : State :=
  let line := lineOf ia * 256
  (s.setFrame ia l bs).setFramePoison line l (mergePoison (lineOfBytes (ia % 256) bs).1 0 (s.framePoison line l))

/-- The walk by which a home's own bytes go on to their frame: no report of a peer stands in their way (log 7). -/
def State.flushWalk (s : State) (ia : Nat) : Walk := ({ s with peerAbsent := [] } : State).walk ia

/-- Write the dirty bytes of a slice line to its frame. -/
def State.flushSlice (s : State) (line : Nat) : State :=
  let x := s.slice line
  if x.dirty = 0 then s else
  match s.flushWalk (line * 256) with
  | .leaf l =>
    let old := BitVec.ofNat 2048 (leNat (s.frameBytes (line * 256) l 256))
    let p := mergePoison x.dirty x.poison (s.framePoison (line * 256) l)
    ((s.setFrame (line * 256) l (leBytes 256 (mergeLine x.dirty x.data old).toNat)).setFramePoison (line * 256) l p).setSlice line
      { x with dirty := 0 }
  | _ => s

/-- The line's data as the home serves it: the slice, or the frame where the slice misses (R136, R188). -/
def State.homeData (s : State) (line : Nat) (l : Leaf) : BitVec 2048 :=
  let x := s.slice line
  if x.valid then x.data else BitVec.ofNat 2048 (leNat (s.frameBytes (line * 256) l 256))
def State.homePoison (s : State) (line : Nat) (l : Leaf) : BitVec 32 :=
  let x := s.slice line
  if x.valid then x.poison else s.framePoison (line * 256) l

/-- Serial arithmetic of release epochs (R181). -/
def epochLe (a b : W32) : Bool := (b - a).toNat < 2 ^ 31

/-- The record names an epoch that no pull has fetched yet (R182). -/
def RelRec.open_ (q : RelRec) : Bool := q.pulled.all fun p => !epochLe q.epoch p

/-- The copy of a line leaves its slice, written to its frame first (R136). The lease and the dies that the home has noted for the
line stay, and of its records those whose pull is still under way (R184). Bytes of a poisoned page are lost with it (R77). -/
def State.evictSlice (s : State) (line : Nat) : State :=
  let s1 := s.flushSlice line
  let x := s1.slice line
  s1.setSlice line { lease := x.lease, dies := x.dies, recs := x.recs.filter fun (_, q) => q.open_ }

/-- The lines of a line's slice set, where the 16 ways of the set are taken by others (R136). -/
def State.fullSlice (s : State) (line : Nat) : Sp HomeLine :=
  let peers := (s.home (homeOf (line * 256))).lines.filter fun (k, x) => x.valid && k != line && sliceSet k == sliceSet line
  if peers.length < 16 then [] else peers

/-- A line that may leave at once: one with no open record, which is not in hand (R184). -/
def readyVictim (busy : List Nat) (l : Sp HomeLine) : Option (Nat × HomeLine) :=
  List.find? (fun (p : Nat × HomeLine) => !busy.contains p.1 && !(p.2.recs.any fun r => r.2.open_)) l

/-- Bring a line into its slice, once `room` has made a way free; the pulls that make it may have brought the line in themselves. -/
def State.fillWith (room : State → Nat → State) (s : State) (line : Nat) (l : Leaf) : State :=
  if (s.slice line).valid then s else
    let s1 := room s line
    if (s1.slice line).valid then s1 else
      s1.setSlice line { s1.slice line with valid := true, data := s1.homeData line l, poison := s1.homePoison line l, dirty := 0 }

/-- A write merged at the home: slice, dirty bytes, DRT; its completion time (R177). -/
def State.mergeWith (room : State → Nat → State) (s : State) (line : Nat) (l : Leaf) (mask : BitVec 256) (data : BitVec 2048)
    (p : BitVec 32 := 0) : State × Nat :=
  let s1 := (s.touch (line * 256) l true).fillWith room line l
  let x := s1.slice line
  (s1.setSlice line { x with data := mergeLine mask data x.data, dirty := x.dirty ||| mask, poison := mergePoison mask p x.poison },
   max s.time x.lease)

/-! ## Fault records at their stages (R99 to R101) -/

def originKey (o : Origin) : Nat := o.kind.toNat * 128 + o.die.toNat * 16 + o.unit.toNat
def State.rec? (s : State) (o : Origin) (id : Nat) : Option FaultRec := s.stages.find? ((originKey o) * 65536 + id)
def State.setRec (s : State) (o : Origin) (id : Nat) (r : FaultRec) : State :=
  { s with stages := s.stages.put ((originKey o) * 65536 + id) r }
def State.stageRecs (s : State) (o : Origin) : List (Nat × FaultRec) :=
  (s.stages.filter fun (k, _) => k / 65536 == (originKey o)).map fun (k, r) => (k % 65536, r)
/-- The lowest identifier from 1 on that is not open at an origin (the choice of the identifier is the model's). -/
def State.freeRec (s : State) (o : Origin) : Nat :=
  let used := (s.stageRecs o).map (·.1)
  (((List.range (used.length + 1)).map (· + 1)).find? fun i => !used.contains i).getD 1

/-- Report a waiter at a stage: join the open record of its context and granule, or open one where the stage has room
(64 records; a home keeps its own, R99). The answer says whether the stage took it. -/
def State.report (s : State) (o : Origin) (r : FaultRec) (w : Waiter) : State × Bool :=
  match (s.stageRecs o).find? fun (_, q) => q.ctx == r.ctx && q.page == r.page with
  | some (id, q) =>
    (s.setRec o id { q with waiters := if q.waiters.contains w then q.waiters else q.waiters ++ [w],
                            access := if q.posted.isNone then q.access ||| r.access else q.access }, true)
  | none =>
    if o.kind != 3 && (s.stageRecs o).length ≥ 64 then (s, false)
    else (s.setRec o (s.freeRec o) { r with waiters := [w], opened := s.time }, true)

def homeOrigin (h : Nat) : Origin := { kind := 3, die := 0, unit := BitVec.ofNat 4 h }
def clusterOrigin (core : Nat) : Origin :=
  { kind := 0, die := BitVec.ofNat 3 (dieOf core), unit := BitVec.ofNat 4 (clusterInDie core) }

/-! ## Pages under an operation (R80 to R83) -/

/-- The span of the entry at a level that covers an offset: its base and its length. -/
def spanOf (o level : Nat) : Nat × Nat := (o / ptSpan level * ptSpan level, ptSpan level)

/-- The operation's span covers an intermediate address. -/
def MemOp.covers (m : MemOp) (ia : Nat) : Bool :=
  homeOf ia == m.home && offsetOf ia / ptSpan m.level == m.off / ptSpan m.level

/-- A memory-side operation runs on the page of an intermediate address. -/
def State.pageBusy (s : State) (ia : Nat) : Bool := s.memOps.any fun m => m.ends.isSome && m.covers ia

/-- A held write-back of a line (R77). -/
def HeldAccess.holds (line : Nat) : HeldAccess → Bool
  | .writeBack _ k .. => k == line
  | _ => false
/-- The home holds a write-back of a line: what reaches the line after it waits behind it (R140, R184). -/
def State.lineHeld (s : State) (line : Nat) : Bool := s.held.any fun p => p.2.holds line

/-- The page of an address stands behind a slot that Ultra Ethernet does not reach now (R77). -/
def State.pageDead (s : State) (ia : Nat) : Bool :=
  !s.deadSlots.isEmpty && match s.walk ia with
    | .leaf l => l.kind != 2 && s.deadSlots.any fun (h, n, t) => h == homeOf ia && n == l.slot && decide (s.time < t)
    | _ => false

/-- Accesses that reach the home now are held: an operation runs on their page (R82, R83), a write-back of their line waits before
them, or the slot of their page is out of reach (R77). -/
def State.pageHeld (s : State) (ia : Nat) : Bool := s.pageBusy ia || s.lineHeld (lineOf ia) || s.pageDead ia

/-! ## Write-backs that reach a home (R77, R91, R132) -/

/-- The home holds a write-back that left a die before an identifier was given (R132). -/
def State.landed (s : State) (die mark : Nat) : Bool :=
  s.held.all fun (id, a) => decide (mark ≤ id) || match a with | .writeBack d .. => d != die | _ => true

/-- The latest completion time of those that have been merged, as far as it has not passed (R177). -/
def State.mergedTill (s : State) (die mark : Nat) : Nat :=
  s.held.foldl (fun m (id, a) => match a with | .merged d t => if id < mark ∧ d = die then max m t else m | _ => m) 0

/-- The write-backs that left a die before an identifier was given have been merged or lost, and their completion times have passed
(R132, R177). -/
def State.through (s : State) (die mark : Nat) : Bool := s.landed die mark && decide (s.mergedTill die mark < s.time)

/-- Keep an access under an identifier; merged write-backs whose time has passed are forgotten. -/
def State.keep (s : State) (id : Nat) (a : HeldAccess) : State :=
  let live := s.held.filter fun p => match p.2 with | .merged _ t => decide (s.time ≤ t) | _ => true
  { s with held := Sp.put live id a }

/-- Hold an access at its home under an identifier, and report its page (R91, R99). -/
def State.holdAtHome (s : State) (id ia ctx level : Nat) (wp peer : Bool) (access : BitVec 5) (a : HeldAccess) : State :=
  ((s.keep id a).report (homeOrigin (homeOf ia))
    { ctx := ctx, page := granuleOf ia, level := level, wp := wp, peer := peer, access := access } (.held id)).1

/-- A write-back of a die at its home: merged, held under an identifier on the fault path or before a slot that is out of reach, or
lost with its page poisoned (R77, R107). One that is merged is noted until its completion time has passed, however it left its die
(R177). The answer is the completion time of what is not held. -/
def State.reachWith (room : State → Nat → State) (s : State) (id die line : Nat) (mask : BitVec 256) (data : BitVec 2048) (p : BitVec 32)
    (ctx since : Nat) (owner : Option Owed) : State × Nat :=
  let held : HeldAccess := .writeBack die line mask data p ctx since owner
  let hold := fun (lv : Nat) (wp peer : Bool) => (s.holdAtHome id (line * 256) ctx lv wp peer 2 held, s.time)
  match s.walk (line * 256) with
  | .leaf l =>
    if pteWp l.word then hold l.level true false
    else if s.pageDead (line * 256) then (s.keep id held, s.time)
    else
      let (s1, t) := s.mergeWith room line l mask data p
      (s1.keep id (.merged die t), t)
  | .absent lv => hold lv false false
  | .peerAbsent lv => hold lv false true
  | .bad _ =>
    (s.updHome (homeOf (line * 256)) fun h =>
      { h with poisoned := (offsetOf (line * 256) / 65536) :: h.poisoned }, s.time)

/-- A write-back leaves its die: behind one of the same line that its home holds, it is held too (R140). The context and the owner
are those of a CWB or of an engine operation; a line that leaves by itself belongs to none (log 75). -/
def State.writeBackWith (room : State → Nat → State) (s : State) (die line : Nat) (mask : BitVec 256) (data : BitVec 2048) (p : BitVec 32)
    (ctx : Nat) (owner : Option Owed) : State × Nat :=
  if mask = 0 then (s, s.time) else
  let s1 : State := { s with next := s.next + 1 }
  if s.lineHeld line then (s1.keep s.next (.writeBack die line mask data p ctx s.time owner), s.time)
  else s1.reachWith room s.next die line mask data p ctx s.time owner

/-! ## Die L2 (R129 to R133) -/

/-- A die L2 line; one that is not there keeps the horizon that it left with (R177). -/
def State.l2 (s : State) (die line : Nat) : L2Line :=
  ((s.die die).lines.find? line).getD { horizon := (s.die die).past.get 0 line }
def State.setL2 (s : State) (die line : Nat) (x : L2Line) : State :=
  s.updDie die fun d => { d with lines := d.lines.put line x }

/-- Set index of a die L2 line (R129). -/
def l2Set (line : Nat) : Nat :=
  (line % 2 ^ 14) ^^^ (line / 2 ^ 14 % 2 ^ 14) ^^^ (line / 2 ^ 28 % 2 ^ 14) ^^^ (line / 2 ^ 42 % 4)

/-- Sectors whose clean bytes may be served now (R131). -/
def State.l2Valid (s : State) (die line : Nat) : BitVec 4 :=
  let x := s.l2 die line
  if s.time < x.lease then x.valid else 0

/-- Send a line's dirty bytes to their home and clear them (R132): by eviction, pull or CWB. -/
def State.cleanWith (room : State → Nat → State) (s : State) (die line : Nat) (ctx : Nat := 0) (owner : Option Owed := none) : State × Nat :=
  let x := s.l2 die line
  if x.dirty = 0 then (s, s.time) else
  (s.setL2 die line { x with dirty := 0 }).writeBackWith room die line x.dirty x.data x.poison ctx owner

/-- The home pull (R183): every line of the die with dirty bytes of an epoch up to `e` goes to its home. The answer is
the latest completion time of what is not held there. -/
def State.pullLinesWith (room : State → Nat → State) (s : State) (die : Nat) (e : Option W32) : List Nat → State × Nat
  | [] => (s, 0)
  | k :: r =>
    let x := s.l2 die k
    if x.dirty != 0 && (e.all fun c => epochLe x.epoch c) then
      let (s1, t) := s.cleanWith room die k
      let (s2, u) := s1.pullLinesWith room die e r
      (s2, max t u)
    else s.pullLinesWith room die e r

/-- A die that failed fatally answers at once with no bytes (R185). -/
def State.pullWith (room : State → Nat → State) (s : State) (die : Nat) (e : Option W32) : State × Nat :=
  if (s.die die).failed then (s, 0) else s.pullLinesWith room die e (s.die die).lines.keys

/-- A record whose pull under way has been merged everywhere is pulled, and settled by the latest of the completion times: those of
the pull, and those of bytes that left the die before it by another way (R177, R183). -/
def RelRec.now (q : RelRec) (s : State) (die : Nat) : RelRec :=
  match q.under with
  | some (e, mark) =>
    if s.landed die mark then { q with pulled := some e, settled := max q.settled (s.mergedTill die mark), under := none } else q
  | none => q

/-- A pull for a record has been sent: it is done where no home holds a write-back of it, else under way (R132, R183). -/
def RelRec.sent (q : RelRec) (s : State) (die : Nat) (e : W32) (t : Nat) : RelRec :=
  { q with settled := max q.settled t, under := some (e, s.next) : RelRec }.now s die

/-- The record asks for a pull that is not under way (R183, R184). -/
def RelRec.asks (q : RelRec) : Bool := q.open_ && q.under.all fun u => !epochLe q.epoch u.1

/-- Pull for each record of a line that asks for it (R183); `l` names the dies. -/
def State.settleWith (room : State → Nat → State) (s : State) (line : Nat) : List Nat → State
  | [] => s
  | d :: r =>
    match (s.slice line).recs.find? d with
    | none => s.settleWith room line r
    | some q0 =>
      let q := q0.now s d
      if q.asks then
        let (s1, t) := s.pullWith room d (some q.epoch)
        let x := s1.slice line
        (s1.setSlice line { x with recs := x.recs.put d (q.sent s1 d q.epoch t) }).settleWith room line r
      else (s.setSlice line { s.slice line with recs := (s.slice line).recs.put d q }).settleWith room line r

def allDies : List Nat := [0, 1, 2, 3, 4, 5, 6, 7]

/-- A line of a set some record of which asks for a pull, and which is not in hand. -/
def State.askingLine (s : State) (busy : List Nat) (l : Sp HomeLine) : Option (Nat × HomeLine) :=
  List.find? (fun (p : Nat × HomeLine) => !busy.contains p.1 && p.2.recs.any fun r => (r.2.now s r.1).asks) l

/-- Room for a line in its slice set of 16 ways (R136): a line with no open record leaves; where all have one, the pulls for one of
them come first and the set is looked at again (R184). A merge of those pulls makes room in the same way, the lines pulled for being
in hand. Where every pull has been sent and a home holds bytes of each, the first line leaves and keeps its records until these are
merged. Which line leaves is the model's choice (log 7). -/
def State.roomWith : Nat → List Nat → State → Nat → State
  | n, busy, s, line =>
    match readyVictim busy (s.fullSlice line), s.fullSlice line with
    | some (k, _), _ => s.evictSlice k
    | none, [] => s
    | none, (k, _) :: _ => match n, s.askingLine busy (s.fullSlice line) with
      | m + 1, some (j, _) => State.roomWith m busy (s.settleWith (State.roomWith m (j :: busy)) j allDies) line
      | _, _ => s.evictSlice k

/-- Lines with a record: each is pulled for at most once while room is made. -/
def State.recorded (s : State) : Nat := s.homes.foldl (fun n (_, h) => n + (h.lines.filter fun p => !p.2.recs.isEmpty).length) 0
def State.roomSlice (s : State) (line : Nat) : State := s.roomWith s.recorded [] line

/-- Bring a line into its slice. -/
def State.fillSlice (s : State) (line : Nat) (l : Leaf) : State := s.fillWith State.roomSlice line l
/-- A write merged at the home, with its completion time. -/
def State.homeMerge (s : State) (line : Nat) (l : Leaf) (mask : BitVec 256) (data : BitVec 2048) (p : BitVec 32 := 0) : State × Nat :=
  s.mergeWith State.roomSlice line l mask data p
/-- A write-back that leaves a die by itself, or for an owner. -/
def State.writeBack (s : State) (die line : Nat) (mask : BitVec 256) (data : BitVec 2048) (p : BitVec 32 := 0) (ctx : Nat := 0)
    (owner : Option Owed := none) : State × Nat :=
  s.writeBackWith State.roomSlice die line mask data p ctx owner
def State.cleanL2 (s : State) (die line : Nat) (ctx : Nat := 0) (owner : Option Owed := none) : State × Nat :=
  s.cleanWith State.roomSlice die line ctx owner
def State.pull (s : State) (die : Nat) (e : Option W32) : State × Nat := s.pullWith State.roomSlice die e
def State.settle (s : State) (line : Nat) (l : List Nat) : State := s.settleWith State.roomSlice line l

/-- Room for a line in its set: with 24 lines there, one that is not locked leaves, its dirty bytes written back (R132,
R133), and its die-lease horizon stays noted while an L1 may hold a sector of it (R177). Which one is the model's choice (log 7). -/
def State.roomL2 (s : State) (die line : Nat) : State :=
  let peers := (s.die die).lines.filter fun (k, _) => l2Set k == l2Set line && k != line
  if peers.length < 24 then s else
  match peers.find? fun (_, x) => x.lock.isNone with
  | none => s
  | some (k, _) => (s.cleanL2 die k).1.updDie die fun d =>
      { d with lines := d.lines.erase k, past := Sp.put (d.past.filter fun p => decide (s.time < p.2)) k (s.l2 die k).horizon }

/-- A home grants a lease on a line to a die (R90, R120, R131): the sectors named, and those still valid, are filled
under the dirty mask; a leaf that permits writes gives the write permit. -/
def State.grant (s : State) (die line : Nat) (l : Leaf) (want : BitVec 4) : State :=
  let s1 := (s.touch (line * 256) l false).roomL2 die line
  let h := homeOf (line * 256)
  let till := s.time + (s1.home h).lease
  let s2 := s1.fillSlice line l
  let y := s2.slice line
  let permit := !pteWp l.word
  let s3 := s2.setSlice line
    { y with lease := max y.lease till,
             dies := if permit then y.dies ||| (1 <<< die) else y.dies }
  let x := s3.l2 die line
  let v := s3.l2Valid die line ||| want
  let fill := sectorMask v &&& ~~~x.dirty
  (s3.setL2 die line
    { x with valid := v, data := mergeLine fill y.data x.data, lease := till, permit := permit,
             poison := mergePoison fill y.poison x.poison }).updDie die fun d => { d with past := d.past.erase line }

/-- A write accepted by the die L2 under a write permit (R131, R181): bytes of an older epoch leave first. The answer is
the completion time (R177). -/
def State.l2Write (s : State) (die line : Nat) (mask : BitVec 256) (data : BitVec 2048) : State × Nat :=
  let count := (s.die die).release
  let old := s.l2 die line
  let s1 := if old.dirty != 0 && old.epoch != count then (s.cleanL2 die line).1 else s
  let x := s1.l2 die line
  let s2 := s1.setL2 die line
    { x with data := mergeLine mask data x.data, dirty := x.dirty ||| mask, epoch := count,
             poison := mergePoison mask 0 x.poison, since := if x.dirty = 0 then s.time else x.since }
  (s2, max s.time x.horizon)

/-- The line's bytes may be read here now: each lies in a valid sector under its lease. Dirty bytes of a sector whose lease has
run out are read once the sector has been fetched again (R131). -/
def State.l2Has (s : State) (die : Nat) (line : Nat) (mask : BitVec 256) : Bool :=
  mask &&& ~~~sectorMask (s.l2Valid die line) == 0

/-- Pull one line's dirty bytes from every die recorded for it (R138). -/
def State.pullLine (s : State) (line : Nat) : List Nat → State × Nat
  | [] => (s, s.time)
  | d :: r =>
    let (s1, t) := if (s.die d).failed then (s, s.time) else s.cleanL2 d line
    let (s2, u) := s1.pullLine line r
    (s2, max t u)

/-- Bring a line's latest bytes to its home before an access is performed there (R138, R183). -/
def State.gather (s : State) (line : Nat) : State × Nat :=
  s.pullLine line (allDies.filter fun d => (s.slice line).dies.getLsbD d)

/-! ## Release records (R181 to R184) -/

/-- A package-scope release by a die at a line: the record carries the die's count, which then rises by one. -/
def State.recordRelease (s : State) (die line : Nat) : State :=
  let e := (s.die die).release
  let x := s.slice line
  let q := x.recs.get {} die
  let q' : RelRec := { q with epoch := e, raised := s.time, pulled := if (x.recs.find? die).isNone then none else q.pulled }
  (s.setSlice line { x with recs := x.recs.put die q' }).updDie die fun d => { d with release := e + 1 }

/-- Time past which every record of the line has settled (R183). -/
def State.settledAt (s : State) (line : Nat) : Nat := (s.slice line).recs.foldl (fun m (_, q) => max m q.settled) 0
/-- Every pull for a record of the line has been merged, and the times are past (R183). -/
def State.settledNow (s : State) (line : Nat) : Bool :=
  (s.slice line).recs.all fun (d, q) => (q.now s d).under.isNone && decide ((q.now s d).settled < s.time)

/-- A SYSTEM-scope release's step 3 (R186): lines of HOST and PEER frames go to their frames. -/
def State.flushForeign (s : State) : List (Nat × HomeLine) → State
  | [] => s
  | (k, x) :: r =>
    let s1 := if x.dirty = 0 then s else
      match s.flushWalk (k * 256) with
      | .leaf l => if l.kind = 2 then s else s.flushSlice k
      | _ => s
    s1.flushForeign r

def allHomes : List Nat := [0, 1, 2, 3, 4, 5, 6, 7]

/-- The write-through of a release fence (R156, R186): every dirty byte of the die, to its home and, for SYSTEM, on to
HOST and PEER frames. The answer is the latest completion time. -/
def State.drain (s : State) (die : Nat) (system : Bool) : State × Nat :=
  let (s1, t) := s.pull die none
  let s2 := if system then allHomes.foldl (fun (u : State) h => u.flushForeign (u.home h).lines) s1 else s1
  (s2, t)

/-! ## L1 (R119 to R121) -/

def sectorOf (ia : Nat) : Nat := ia / 64
def Core.cacheBanks (c : Core) : Nat := 32 - c.k * c.us - c.k * 4 * c.ut
/-- The CACHE banks stand between the SCRATCH and the TENSOR banks (R114). -/
def Core.isCache (c : Core) (bank : Nat) : Bool := decide (c.k * c.us ≤ bank) && decide (bank < c.k * c.us + c.cacheBanks)
/-- The sector where it is valid and unexpired now (R120). -/
def State.l1 (s : State) (core ia : Nat) : Option L1Sector :=
  (s.core core).l1.find? fun x => x.sector == sectorOf ia && s.time < x.expiry

/-- Lines of a set of L1, with the latest use and the latest expiry of each (R119). -/
def l1Lines (l : List L1Sector) (set : Nat) : Sp (Nat × Nat) :=
  l.foldl (fun m x =>
    let k := x.sector / 4
    if k % 40 == set then
      let o := Sp.get (0, 0) m k
      Sp.put m k (max o.1 x.used, max o.2 x.expiry)
    else m) []

/-- The line that leaves a full set: one whose leases have all expired, else the least recently used (R119). -/
def l1Victim (time : Nat) (lines : Sp (Nat × Nat)) : Option Nat :=
  match List.find? (fun (_, _, e) => decide (e ≤ time)) lines with
  | some (k, _) => some k
  | none =>
    (lines.foldl (fun (o : Option (Nat × Nat)) (k, u, _) =>
      match o with | none => some (k, u) | some (j, v) => if u < v then some (k, u) else some (j, v)) none).map (·.1)

/-- The bank that takes a line: the one that has it, else the lowest with no line in the set, which is the model's choice among them
(log 14), else that of the line that leaves (R119). -/
def Core.way (c : Core) (time line : Nat) : Nat :=
  let set := c.l1.filter fun y => y.sector / 4 % 40 == line % 40
  let bank := fun (k : Nat) => ((set.find? fun y => y.sector / 4 == k).map (·.bank)).getD 0
  if set.any fun y => y.sector / 4 == line then bank line else
  match (List.range 32).find? fun b => c.isCache b && !(set.any fun y => y.bank == b) with
  | some b => b
  | none => bank ((l1Victim time (l1Lines c.l1 (line % 40))).getD line)

/-- Fill a sector from the die L2, under the shorter of LEASE_LEN and the line's package lease; the die-lease horizon
rises (R120). -/
def State.l1Fill (s : State) (core ia leaseLen : Nat) : State :=
  let d := dieOf core
  let x := s.l2 d (lineOf ia)
  let till := min (s.time + leaseLen) x.lease
  let data : BitVec 512 := x.data.extractLsb' (512 * (sectorOf ia % 4)) 512
  let poison : BitVec 8 := x.poison.extractLsb' (8 * (sectorOf ia % 4)) 8
  let c := s.core core
  let way := c.way s.time (lineOf ia)
  let stays := fun (y : L1Sector) =>
    y.sector != sectorOf ia && !(y.bank == way && y.sector / 4 % 40 == lineOf ia % 40 && y.sector / 4 != lineOf ia)
  let new : L1Sector := { sector := sectorOf ia, bank := way, expiry := till, data := data, poison := poison, used := s.time }
  let s1 := s.setCore core { c with l1 := new :: c.l1.filter stays }
  s1.setL2 d (lineOf ia) { x with horizon := max x.horizon till }

/-- A sector under a store to its line: bytes, and the poison of words that are written in full (R121, R142). Its place in the order
of use stays (log 75). -/
def L1Sector.write (x : L1Sector) (mask : BitVec 256) (data : BitVec 2048) : L1Sector :=
  let i := x.sector % 4
  { x with data := (mergeLine mask data (x.data.setWidth 2048 <<< (512 * i))).extractLsb' (512 * i) 512,
           poison := (mergePoison mask 0 (x.poison.setWidth 32 <<< (8 * i))).extractLsb' (8 * i) 8 }

/-- Bytes of a mask lie in a sector of the line. -/
def inSector (mask : BitVec 256) (sector : Nat) : Bool := mask &&& sectorMask ((1 : BitVec 4) <<< (sector % 4)) != 0

/-- A store of the core to a line: it updates present, unexpired sectors, and a fill that is outstanding for a sector that it meets
installs nothing (R121). -/
def State.l1Write (s : State) (core line : Nat) (mask : BitVec 256) (data : BitVec 2048) : State :=
  let met := fun (k : Nat) => k / 4 == line && inSector mask k
  let lane := fun (x : LogLane) => if x.waiting && x.fill.isSome && met (sectorOf x.ia) then { x with fill := none } else x
  s.updCore core fun c =>
    { c with l1 := c.l1.map fun x => if met x.sector && s.time < x.expiry then x.write mask data else x,
             log := c.log.map fun (i, e) => (i, { e with lanes := e.lanes.map lane }) }

/-- The same for bytes within one line. -/
def State.l1Store (s : State) (core ia : Nat) (bs : List Byte) : State :=
  let (mask, data) := lineOfBytes (ia % 256) bs
  s.l1Write core (lineOf ia) mask data

/-- Drop the core's L1 copy of a line (R139, R154). -/
def State.l1Drop (s : State) (core line : Nat) : State :=
  s.updCore core fun c => { c with l1 := c.l1.filter fun x => x.sector / 4 != line }

/-! ## Reading without a trace: what a fetch, a host or a record sees -/

/-- Bytes within one line as the die L2 or else the home holds them; none where the page is not there. -/
def State.peek (s : State) (die ia n : Nat) : Option (List Byte) :=
  let line := lineOf ia
  let (mask, _) := lineOfBytes (ia % 256) (List.replicate n 0)
  if s.l2Has die line mask then some (lineBytes (s.l2 die line).data (ia % 256) n)
  else if s.pageHeld ia then none
  else match s.walk ia with
    | .leaf l => some (lineBytes (mergeLine (s.l2 die line).dirty (s.l2 die line).data (s.homeData line l)) (ia % 256) n)
    | _ => none

/-- Write bytes at their homes at SYSTEM scope, line by line (R384). -/
def State.hostWrite (s : State) (ia : Nat) : Nat → List Byte → State
  | 0, _ => s
  | fuel + 1, bs =>
    if bs.isEmpty then s else
    let n := 256 - ia % 256
    let (mask, data) := lineOfBytes (ia % 256) (bs.take n)
    ((s.gather (lineOf ia)).1.writeBack 8 (lineOf ia) mask data).1.hostWrite (ia + n) fuel (bs.drop n)

/-! ## Poison in the vaults (R141, R142) -/

/-- A vault word that a read consumes is poisoned (R142). -/
def State.vaultPoison (s : State) (cl o n : Nat) : Bool :=
  (s.die (cl / 16)).poison.any fun w => decide (w * 8 < cl % 16 * 2 ^ 25 + o + n) && decide (cl % 16 * 2 ^ 25 + o < w * 8 + 8)
/-- A full write of a poisoned word clears its poison (R142). -/
def State.clearVaultPoison (s : State) (cl o n : Nat) : State :=
  if (s.die (cl / 16)).poison.isEmpty then s else
    s.updDie (cl / 16) fun d => { d with poison := d.poison.filter fun w =>
      !(decide (cl % 16 * 2 ^ 25 + o ≤ w * 8) && decide (w * 8 + 8 ≤ cl % 16 * 2 ^ 25 + o + n)) }

/-! ## Windows (R60 to R63) -/

/-- Word `k` of window `n` of a context. -/
def Context.window (c : Context) (n : Nat) : List W64 := c.windows.getD n [0, 0, 0, 0]
def winWord (w : List W64) (k : Nat) : Nat := (w.getD k 0).toNat
def winHits (w : List W64) (va : Nat) : Bool := (winWord w 3).testBit 0 && winWord w 0 ≤ va && va < winWord w 1
/-- The lowest window that hits (R61). -/
def hitWindow (ws : List (List W64)) (va : Nat) : Option (List W64) := ws.find? fun w => winHits w va
/-- Translation (R62). -/
def translate (w : List W64) (va : Nat) : Nat :=
  let x := va - winWord w 0 + winWord w 2
  if (winWord w 3).testBit 8 then x / 2 ^ 11 % 8 * 2 ^ 48 + x / 2 ^ 14 % 2 ^ 37 * 2 ^ 11 + x % 2 ^ 11
  else winWord w 3 / 2 ^ 12 % 16 * 2 ^ 48 + x % 2 ^ 48

/-- Permissions (R63): bits of word 3. -/
def permR : Nat := 2
def permW : Nat := 4
def permA : Nat := 8
def permX : Nat := 16
def permH : Nat := 32

/-- The checks of R67 on one access: its failed check's number and WINDOW_VIOLATION's cause (0 for ALIGNMENT), or the
intermediate address. -/
def checkAccess (ws : List (List W64)) (va size perm : Nat) : Except (Nat × Nat) Nat :=
  if va ≥ 2 ^ 57 then .error (1, 1)
  else if va % size != 0 then .error (2, 0)
  else match hitWindow ws va with
    | none => .error (3, 2)
    | some w => if winWord w 3 &&& perm == perm then .ok (translate w va) else .error (4, 3)

/-- The word at a virtual address as an instruction fetch reads it (R72): the word, or what keeps it away. -/
inductive Fetched where
  | word (w : W32)
  | violation (cause : Nat)
  | absent (ia : Nat)
deriving DecidableEq, Repr

def State.fetchWord (s : State) (die : Nat) (ws : List (List W64)) (va : Nat) : Fetched :=
  match checkAccess ws va 4 permX with
  | .error (_, c) => .violation c
  | .ok ia =>
    match s.peek die ia 4 with
    | some bs => .word (BitVec.ofNat 32 (leNat bs))
    | none => .absent ia

/-- Up to five words of an instruction from `va` on; the first that cannot be had ends them (R37, R72). -/
def State.fetchWords (s : State) (die : Nat) (ws : List (List W64)) : Nat → Nat → List W32 × Option Fetched
  | 0, _ => ([], none)
  | n + 1, va =>
    match s.fetchWord die ws va with
    | .word w => let (r, e) := s.fetchWords die ws n (va + 4); (w :: r, e)
    | f => ([], some f)

end Sys2Proof.Machine
end

