-- ==== Sys2Proof/Machine/Traps.lean ====
section
/-! DEFINITION. Taking a trap (R384 to R388): the record, the diagnostic, what stops, and the messages. Ozant runs no
handler and has no return from a trap: a trap ends the teams of its scope (R235). -/
namespace Sys2Proof.Machine

/-- A trap as an instruction or an event raises it (R385). -/
structure Trap where
  code : Nat
  cause : Nat := 0
  data : Nat := 0
  addr : Nat := 0
  lane : Option Nat := none
  /-- The record's pc where it is not the group's current PC (R106, R107). -/
  pc : Option Nat := none
  /-- Extension kind and words (R386). -/
  ext : Nat := 0
  words : List W64 := []
  /-- Further teams that the trap ends at its own scope, and whether each raised it (R313, R339, R437). -/
  also : List Nat := []
  raised : Bool := true
deriving DecidableEq, Repr

/-! ## Codes (R385) -/

def tIllegalInstruction : Trap := { code := 0x01 }
def tIllegalOperand : Trap := { code := 0x02 }
def tFormatMismatch (tag : Nat) : Trap := { code := 0x03, data := tag }
def tRoleViolation : Trap := { code := 0x04 }
def tLatchInvalid : Trap := { code := 0x05 }
def tUniformViolation : Trap := { code := 0x06 }
def tMeetDeadlock (a : Nat) : Trap := { code := 0x07, addr := a }
def tAlignment (a : Nat) (lane : Option Nat) : Trap := { code := 0x08, addr := a, lane := lane }
def tWindow (cause a : Nat) (lane : Option Nat) : Trap := { code := 0x09, cause := cause, addr := a, lane := lane }
def tRangeLock (a : Nat) (lane : Option Nat) : Trap := { code := 0x0A, addr := a, lane := lane }
def tAccessFault (cause : Nat) : Trap := { code := 0x0B, cause := cause }
def tMusterMismatch : Trap := { code := 0x0C }
def tPairTimeout : Trap := { code := 0x0D }
def tRegroupMismatch : Trap := { code := 0x0E }
def tRegroupOverflow : Trap := { code := 0x0F }
def tLoopBody : Trap := { code := 0x10 }
def tBarrierTimeout : Trap := { code := 0x11 }
def tBarrierBroken (cause : Nat) : Trap := { code := 0x12, cause := cause }
def tCurrentMidnight (w : Nat) : Trap := { code := 0x13, data := w }
def tUncorrectable : Trap := { code := 0x14 }
def tPairedMismatch : Trap := { code := 0x15 }
def tPairedForbidden : Trap := { code := 0x16 }
def tSoftware (a : Nat) : Trap := { code := 0x18, data := a }
def tPrivilege : Trap := { code := 0x1B }

/-- Scope of a code: 0 TEAM, 1 LAUNCH, 2 CONTEXT (R385, R386). -/
def trapScope (code : Nat) : Nat := if code = 0x11 then 2 else if code = 0x13 then 1 else 0

/-! ## Layouts -/

/-- A 64-bit word of fields given by value and low bit. -/
def packWord (fs : List (Nat × Nat)) : W64 := BitVec.ofNat 64 (fs.foldl (fun m (v, lo) => m + v * 2 ^ lo) 0)

/-- A global TLD or TST, which the model keeps as sixteen parts of one line each (R334, log 76). -/
def LogEntry.isTile (e : LogEntry) : Bool := match e.kind with | .tld | .tst => true | _ => false
/-- The lane slots of an entry as its copies show them: a tile access is the one lane of slot 0, with the address of its first byte,
and it waits while some part does (R334). -/
def LogEntry.shown (e : LogEntry) : List LogLane :=
  if e.isTile then (match e.lanes with | [] => [] | x :: _ => [{ x with lane := 0, value := 0, compare := 0, waiting := e.lanes.any (·.waiting) }])
  else e.lanes
/-- The lane and the address that a trap names for a lane of an entry (R106, R334). -/
def LogEntry.named (e : LogEntry) (x : LogLane) : Nat × Nat := if e.isTile then (0, (e.lanes.headD x).ia) else (x.lane, x.ia)

/-- A copy of an operand log entry: header and 64 lane slots (R94). -/
def entryWords (e : LogEntry) (slot : Nat) : List W64 :=
  let lanes := e.shown
  let bits := fun (p : LogLane → Bool) => lanes.foldl (fun m l => if p l then m ||| 2 ^ l.lane else m) 0
  let st := match e.mode with | .inflight => 1 | .faulted => 2 | .chained => 3 | .replaying => 4
  let width := if e.bytes = 1 then 0 else if e.bytes = 2 then 1 else if e.bytes = 4 then 2 else if e.bytes = 8 then 3 else 4
  let lane := fun (i : Nat) => match lanes.find? (fun l => l.lane == i) with
    | some l => [packWord [(l.waiting.toNat, 63), ((!l.waiting).toNat, 62), (l.gsel, 56), (width, 52), (l.ia, 0)], l.value, l.compare]
    | none => [0, 0, 0]
  [packWord [(st, 61), (e.replays, 57), (e.pc, 0)], packWord [(e.xword.toNat, 32), (e.iword.toNat, 0)],
   BitVec.ofNat 64 (bits (·.waiting)), BitVec.ofNat 64 (bits fun _ => true),
   packWord ([(e.ctx, 48), (e.grps.length - 1, 28), (slot, 0)] ++ e.grps.zipIdx.map fun (g, i) => (g, 4 + 6 * i)), BitVec.ofNat 64 e.issued, 0, 0] ++ (List.range 64).flatMap lane

/-- State codes of the diagnostic (R387). -/
def GroupMode.code : GroupMode → Nat
  | .free => 0 | .ready => 1 | .interlocked => 2 | .stalled => 3 | .parked => 4 | .barrier => 5 | .meeting => 6
  | .formed => 7 | .done => 8 | .saving => 9 | .stopped => 10

/-- One entry of the diagnostic (R387). -/
def diagEntry (slot : Nat) (g : Group) (left : Nat) : List W64 :=
  let exited := (g.threads.filter fun t => !t.unexited).length
  [packWord [(slot, 58), (g.mode.code, 54), (left, 47), (exited, 40)],
   BitVec.ofNat 64 ((if g.mode = .done then g.exitPc else g.pc) % 2 ^ 57)]

/-- The diagnostic of a barrier wait: entries for the slots that hold a thread that has not arrived (R387). -/
def diagBarrier (gbar : Bool) (no : Nat) (b : Barrier) (expected first : Nat) (arrived : Nat → Bool) (gs : Sp Group) : List W64 :=
  let es := gs.flatMap fun (slot, g) =>
    let out := g.threads.filter fun t => !arrived t.tid
    if out.isEmpty then [] else diagEntry slot g (out.filter Thread.unexited).length
  [packWord [(no, 56), (b.gen % 256, 48), (b.count, 32), (expected, 16), (gbar.toNat, 8), (es.length / 2, 0)], BitVec.ofNat 64 first] ++ es

/-- The diagnostic of an STGA (2) or muster (3) wait: one entry, for the waiting group (R387). -/
def diagWait (kind no gen arrived expected first slot : Nat) (g : Group) : List W64 :=
  [packWord [(no, 56), (gen % 256, 48), (arrived, 32), (expected, 16), (kind, 8), (1, 0)], BitVec.ofNat 64 first]
    ++ diagEntry slot g (g.threads.filter Thread.unexited).length

/-- The header of a trap record (R386). -/
def recordHead (s : State) (t : Team) (slot : Nat) (g : Group) (tr : Trap) (scope : Nat) (origin : Bool) (pc : Nat) : List W64 :=
  let th := match tr.lane with | some l => g.at l | none => g.lead
  let lane := tr.lane.getD ((th.map (·.lane)).getD 0)
  let tid := (th.map (·.tid)).getD 0
  [packWord [(tr.code, 56), (tr.cause, 52), (scope, 50), (origin.toNat, 49), (tr.ext, 44), ((tr.words.length + 1) / 2, 32), (t.ctx, 0)],
   BitVec.ofNat 64 t.index, BitVec.ofNat 64 (pc % 2 ^ 57), BitVec.ofNat 64 tr.addr,
   packWord [(slot, 58), (lane, 52), (tid, 41), (t.slot, 37), (dieOf t.core, 34), (clusterInDie t.core, 30), (coreInCluster t.core, 26)],
   BitVec.ofNat 64 s.time, packWord [(t.launch, 32)], BitVec.ofNat 64 tr.data]

/-! ## What a stopped team leaves behind -/

/-- Drop the waiters of a kind from every record; the records stay open (R106). -/
def State.dropWaiters (s : State) (p : Waiter → Bool) : State :=
  { s with stages := s.stages.map fun (k, r) => (k, { r with waiters := r.waiters.filter fun w => !p w }) }

/-- Lower by one the presence counts of lines, given as core x 2048 + line of the array (R123, R124). -/
def State.lowerLines (s : State) : List Nat → State
  | [] => s
  | k :: r => (s.updCore (k / 2048) fun c => { c with presence := c.presence.set 0 (k % 2048) (c.presence.get 0 (k % 2048) - 1) }).lowerLines r

/-- The operations that wait at an engine have its next access from now on (R77). -/
def State.turnEngine (s : State) (o : EngOp) : State :=
  { s with ops := s.ops.map fun (k, q) =>
      (k, if q.cls = o.cls ∧ q.idx = o.idx ∧ (q.cls = true ∨ q.die = o.die) then { q with reached := s.time } else q) }

/-- End an engine operation whatever its outcome: its locks go with it and its presence counts fall (R124, R160); a
posted slot is free again and a bound place is left (R162, R167). -/
def State.dropOp (s : State) (id : Nat) : State :=
  match s.ops.find? id with
  | none => s
  | some o =>
    let s1 := (s.lowerLines o.lines).updCtx o.ctx fun c =>
      { c with recv := c.recv.filter fun (_, r) => r != some id,
               trig := c.trig.map fun (k, t) => (k, { t with bound := t.bound.filter (· != id) }) }
    let s2 := (({ s1.dropWaiters (fun w => w == .engine id) with ops := s1.ops.erase id } : State).turnEngine o).wakeAll (·.wait.onEngine)
    o.skew.foldl (fun (u : State) (g, n) => u.arrived g n) s2

/-- End an operation with a status: its token keeps it (R159, R160). -/
def State.endOp (s : State) (id : Nat) (status : W32) : State :=
  match s.ops.find? id with
  | none => s
  | some o =>
    let s1 := s.dropOp id
    match o.token with
    | none => s1
    | some e =>
      let mark := fun (t : Team) => { t with tokens := t.tokens.adjust e fun k =>
        if k.op == id then { k with ended := some (status, s.time), done := o.compl } else k }
      ({ (s1.updTeam o.team mark) with saved := s1.saved.adjust o.team fun v => { v with team := mark v.team } } : State).wakeTeam o.team
        fun _ g => decide (g.wait = .token e)

def State.dropOps (s : State) (p : EngOp → Bool) : State :=
  (s.ops.filter fun (_, o) => p o).foldl (fun u (id, _) => u.dropOp id) s

/-- Granules that lanes of the core's log still wait on at a stage keep their place in the filter (R99). -/
def refilter (c : Core) : Core :=
  let named := c.log.flatMap fun (_, e) => (e.lanes.filter fun l => l.waiting && l.stage == .reported).map fun l => granuleOf l.ia
  { c with filter := c.filter.filter fun g => named.contains g }

/-- The oldest group of a core that waits for a log entry is woken (R93). -/
def State.wakeLog (s : State) (core : Nat) : State :=
  let ws := s.teams.flatMap fun (id, t) => if t.core = core then
    (t.groups.filter fun (_, g) => decide (g.wait = .logEntry) && decide (g.mode = .stalled)).map fun (k, g) => (g.since, id, k) else []
  match ws.foldl (fun (o : Option (Nat × Nat × Nat)) w => match o with
      | none => some w
      | some v => if w.1 < v.1 then some w else some v) none with
  | none => s
  | some (_, id, k) => s.updGroup { team := id, grp := k } fun g => { g with mode := .ready, readySince := s.time }

/-- Groups of a core that a free entry has woken and that have not issued since (R93). -/
def State.wokenLog (s : State) (core : Nat) : Nat :=
  s.teams.foldl (fun n (_, t) => if t.core = core then
    n + (t.groups.filter fun (_, g) => decide (g.wait = .logEntry) && (decide (g.mode = .ready) || decide (g.mode = .formed))).length else n) 0

/-- The free entries of a core's log go to its oldest waiters, but for those of groups that have been woken and may still take one
(R93). -/
def State.wakeLogs (s : State) (core : Nat) : State :=
  (List.range (64 - ((s.core core).log.length + s.wokenLog core))).foldl (fun (u : State) _ => u.wakeLog core) s

/-- A group that waited for a log entry goes on, or waits for something else: an entry that it does not take is the next waiter's (R93). -/
def State.passLog (s : State) (core : Nat) (was : Wait) : State := if was = .logEntry then s.wakeLogs core else s

/-- What a team has in flight ends without effect (R106, R432): its log entries, its tile operations and their places among the
waiters. -/
def State.dropAccesses (s : State) (id core : Nat) : State :=
  let s1 := (s.dropTiles core id).updCore core fun c => refilter { c with log := c.log.filter fun (_, e) => e.team != id }
  s1.dropWaiters fun w => match w with
    | .lanes c _ uid _ => c == core && !((s1.core core).log.any fun (_, e) => e.uid == uid)
    | .fetch g => g.team == id
    | _ => false

/-- Stores of a team's drained intervals that wait for their pages end with it (R106). -/
def State.dropStores (s : State) (id : Nat) : State :=
  let mine := fun (a : HeldAccess) => match a with | .store _ t .. | .pad t .. => t == id | _ => false
  let gone := (s.held.filter fun p => mine p.2).map (·.1)
  if gone.isEmpty then s else
  ({ s with held := s.held.filter fun p => !mine p.2 } : State).dropWaiters fun w => match w with | .held k => gone.contains k | _ => false

/-- Stop every group of a team; its log entries, tile operations and engine operations end (R106, R172, R235, R384). -/
def State.stopTeam (s : State) (id : Nat) : State :=
  match s.teams.find? id with
  | none => s
  | some t =>
    let t' := { t with mode := .stopped,
                       groups := t.groups.map fun (k, g) => (k, { g with mode := .stopped, wait := .none }) }
    let s1 := s.setTeam id t'
    (((s1.dropAccesses id t.core).dropStores id).dropOps fun o => o.team == id).wakeLogs t.core

/-- Append a report item for a team (R441); a pair reports once. -/
def State.reportItem (s : State) (t : Team) (status code : Nat) : State :=
  if t.twin.any (fun x => !x.2) then s else
  s.updLaunch t.launch fun l =>
    { l with items := l.items ++ [({ team := t.index, status := status, code := code, rollbacks := min 255 t.rollbacks,
                                     mismatches := min 255 t.mismatches, time := s.time } : Item)] }

/-- Write a record into the context's record area, or hold it on the I/O die; send its message (R384, R388). -/
def State.writeRecord (s : State) (ctx : Nat) (ws : List W64) : State :=
  let c := s.ctx ctx
  match (List.range 256).find? fun i => !c.used.contains i with
  | some i =>
    let s1 := s.hostWrite (c.area + 2048 * i) 16 (wordBytes ws)
    (s1.updCtx ctx fun c => { c with used := i :: c.used }).notify 0x9001 ctx (BitVec.ofNat 64 i :: ws)
  | none =>
    -- a held record has no slot yet: the message's slot byte is a free value (log 3)
    let s1 := { s with fresh := s.fresh + 1 }
    let no := (Config.freeWord s.fresh).toNat % 256
    (s1.updCtx ctx fun c => { c with heldRecs := c.heldRecs ++ [ws] }).notify 0x9001 ctx (BitVec.ofNat 64 no :: ws)

/-- The group that a trap of no single group names (R386). -/
def lowestGroup (t : Team) : Nat × Group :=
  match List.find? (fun (_, g) => g.threads.any Thread.unexited) t.groups with
  | some x => x
  | none => t.groups.headD (0, {})

/-- One team takes a trap: its groups stop, its first record is written, its report item appended (R384, R388). -/
def State.trapTeam (s : State) (id slot : Nat) (g : Group) (tr : Trap) (scope : Nat) (origin : Bool) : State :=
  match s.teams.find? id with
  | none => s
  | some t =>
    if t.mode = .stopped then s
    -- a team that has not started writes no record
    else if t.mode = .placed then (s.stopTeam id).reportItem t 1 tr.code
    else
    let pc := (if origin then tr.pc else none).getD g.pc
    let tr' := if origin then tr else { tr with addr := 0, lane := none, ext := 0, words := [] }
    let head := recordHead s t slot g tr' scope origin pc
    ((s.stopTeam id).writeRecord t.ctx (head ++ tr'.words)).reportItem t 1 tr.code

/-- Every team of a scope that some other team's trap ends (R384, R388 origin 0). -/
def State.trapOthers (s : State) (tr : Trap) (scope : Nat) (origin : Bool) : List Nat → State
  | [] => s
  | id :: r =>
    match s.teams.find? id with
    | none => s.trapOthers tr scope origin r
    | some t => let (slot, g) := lowestGroup t; (s.trapTeam id slot g tr scope origin).trapOthers tr scope origin r

/-- A saved team takes a trap: it is not restored, its record is written, its report item appended. -/
def State.trapKept (s : State) (id : Nat) (v : Saved) (slot : Nat) (g : Group) (tr : Trap) (scope : Nat) (origin : Bool) : State :=
  let head := recordHead s v.team slot g tr scope origin g.pc
  let s1 := ({ s with saved := s.saved.erase id } : State).dropOps fun o => o.team == id
  ((s1.updLaunch v.team.launch fun l => { l with requeued := l.requeued.filter (· != id) }).writeRecord v.team.ctx (head ++ tr.words)).reportItem
    v.team 1 tr.code

/-- Saved teams of a scope end as well. -/
def State.trapSaved (s : State) (tr : Trap) (scope : Nat) : List (Nat × Saved) → State
  | [] => s
  | (id, v) :: r =>
    let (slot, g) := lowestGroup v.team
    (s.trapKept id v slot g { tr with addr := 0, lane := none, ext := 0, words := [] } scope false).trapSaved tr scope r

/-- A launch whose remaining teams never start: each is listed with a status and a code (R384, R441). -/
def State.endLaunch (s : State) (slot status code : Nat) : State :=
  s.updLaunch slot fun l =>
    { l with items := l.items ++ (List.range (l.hi - l.next)).map fun i =>
               ({ team := l.next + i, status := status, code := code, time := s.time } : Item),
             next := l.hi, requeued := [] }

def State.endLaunches (s : State) (status code : Nat) : List Nat → State
  | [] => s
  | l :: r => (s.endLaunch l status code).endLaunches status code r

/-- The lowest group of a team that waits at a barrier of its gang (R373). -/
def gbarWaiter (t : Team) : Option (Nat × Group × Nat) :=
  t.groups.foldl (fun o (k, g) =>
    match o, g.wait with
    | none, .gbar b _ => some (k, g, b)
    | none, .gbarNext b _ => some (k, g, b)
    | o, _ => o) none

/-- A team's wait at a barrier of its broken gang: the group's slot, the group and its trap (R373, R387). -/
def State.broken (s : State) (gid cause id : Nat) (t : Team) : Option (Nat × Group × Trap) :=
  match gbarWaiter t, s.gangs.find? gid with
  | some (slot, g, b), some gg =>
    let bar : Barrier := gg.bars.get {} b
    let ws := diagBarrier true b bar gg.expected bar.first (fun tid => bar.arrived.contains (id * 2048 + tid)) t.groups
    -- after a die failure no single group has raised it (R386)
    let (slot', g') := if cause = 2 then lowestGroup t else (slot, g)
    if t.mode = .stopped then none else some (slot', g', { tBarrierBroken cause with ext := 2, words := ws })
  | _, _ => none

/-- A gang breaks: every wait at its barriers takes BARRIER_BROKEN, those of saved teams too (R232, R373). -/
def State.breakWaits (s : State) (gid cause : Nat) : List Nat → State
  | [] => s
  | id :: r =>
    let s1 : State := match s.teams.find? id, s.saved.find? id with
      | some t, _ => match s.broken gid cause id t with
        | some (slot, g, tr) => s.trapTeam id slot g tr 0 true
        | none => s
      | none, some v => match s.broken gid cause id v.team with
        | some (slot, g, tr) => s.trapKept id v slot g tr 0 true
        | none => s
      | none, none => s
    s1.breakWaits gid cause r

def State.breakGang (s : State) (gid cause : Nat) : State :=
  match s.gangs.find? gid with
  | none => s
  | some gg =>
    if gg.broken.isSome then s else
    ({ s with gangs := s.gangs.put gid { gg with broken := some cause } }).breakWaits gid cause gg.members

/-- Break the gangs of the teams that have stopped. -/
def State.breakGangs (s : State) : List Nat → State
  | [] => s
  | id :: r =>
    match (s.teams.find? id).bind fun t => if t.mode = .stopped then t.gang else none with
    | some (gid, _) => (s.breakGang gid 1).breakGangs r
    | none => s.breakGangs r

/-- Gangs of teams that have been saved break. -/
def State.breakSaved (s : State) : List (Nat × Saved) → State
  | [] => s
  | (_, v) :: r => (match v.team.gang with | some (gid, _) => s.breakGang gid 1 | none => s).breakSaved r

/-- The team and the group of a trap; of a team that has not started, which has none, the group is empty. -/
def State.trapGroup (s : State) (g : GrpRef) : Option (Team × Group) :=
  (s.teams.find? g.team).bind fun t => if t.mode = .placed then some (t, {}) else (t.groups.find? g.grp).map fun x => (t, x)

/-- TAKING A TRAP (R384, R385): the raising team, then every team of the scope, started or not, and its twin, wherever it is (R438);
gangs they were members of break. -/
def State.raiseTrap (s : State) (g : GrpRef) (tr : Trap) : State :=
  match s.trapGroup g with
  | none => s
  | some (t, grp) =>
    if t.mode = .stopped then s else
    let scope := trapScope tr.code
    -- a formed group records the home group of the lane (R241)
    let lane := tr.lane.getD ((grp.lead.map (·.lane)).getD 0)
    let slot := match grp.homes.find? lane with | some (k, _) => k | none => g.grp
    let s1 := s.trapTeam g.team slot grp tr scope true
    let mine := fun (x : Team) => if scope = 1 then x.launch == t.launch else if scope = 2 then x.ctx == t.ctx else false
    let others := ((s1.teams.filter fun (_, x) => mine x).map (·.1)).filter fun id => id != g.team && !tr.also.contains id
    let twin := match t.twin with | some (u, _) => [u] | none => []
    let s2 := ((s1.trapOthers tr scope false others).trapOthers tr scope tr.raised (tr.also.filter (· != g.team))).trapOthers tr scope false twin
    let kept := s2.saved.filter fun (k, v) => mine v.team || twin.contains k
    let s3 := s2.trapSaved tr scope kept
    let ls := if scope = 0 then [] else
      (s3.launches.filter fun (k, l) => if scope = 1 then k == t.launch else l.ctx == t.ctx).map (·.1)
    ((s3.endLaunches 1 tr.code ls).breakGangs (g.team :: others ++ tr.also)).breakSaved kept

end Sys2Proof.Machine
end

