-- ==== Sys2Proof/Machine/Operands.lean ====
section
/-! DEFINITION. Operand forms: sources and pairs (R16, R17, R35), guards (R22), the latches and the scoreboard as an
instruction reads them (R20, R36, R95, R96), format tags and their classes (R245 to R248, R272), results (R273). -/
namespace Sys2Proof.Machine
open Sys2Proof

/-- The sources that an instruction reads, latches among them (R35); fields that it ignores are left out (R23). -/
def sources : Instr → List Src
  | .mov o | .movU o | .rcp o | .rsq o | .exp2 o | .log2 o | .popc o | .popcU o | .clz o | .clzU o | .iabs o
  | .iabsU o | .ineg o | .fabs o | .fneg o | .fint o | .not o | .notU o | .brev o | .sin o | .cos o | .tanh o
  | .sqrt o | .fclass o | .logistic o | .amax o | .cblk o | .lreduce o | .peers o | .regroup o | .ycvt o | .yneg o
  | .yrec o | .ysqr o | .yhull o | .ypack o | .yunpk o | .ymid o | .ytest o | .ymap o | .jmpi o | .burn o | .trap o
  | .launch o | .gwait o | .wdog o | .fcnt o | .cbld o | .yring o | .opcl o | .tagr o | .engShape o | .engCntrd o
  | .engCancel o | .engWait o | .engQuery o => [o.a]
  | .iadd o | .iaddU o | .isub o | .isubU o | .imul o | .imulU o | .imulh o | .imulhU o | .imulhu o | .imulhuU o
  | .imin o | .iminU o | .imax o | .imaxU o | .iminu o | .iminuU o | .imaxu o | .imaxuU o | .and o | .andU o | .or o
  | .orU o | .xor o | .xorU o | .shl o | .shlU o | .shr o | .shrU o | .sar o | .sarU o | .icmp o | .icmpU o | .sel o
  | .selU o | .fadd o | .fsub o | .fmul o | .fmin o | .fmax o | .fcmp o | .lea o | .leaU o | .iadd64 o | .iadd64U o
  | .isub64 o | .isub64U o | .bfx o | .bfxU o | .qnt o | .dqn o | .padd o | .pmul o | .yadd o | .ysub o | .ymul o
  | .ydiv o | .yuni o | .yint o | .ycmp o | .tld o | .tst o | .shunt o | .tagw o | .engCopy o | .engPlane o
  | .engGather o | .engScatter o | .engFill o | .engUnplane o | .engSend o | .engRecv o | .engArm o | .engCntadd o
  | .engReduce o => [o.a, o.b]
  | .icmpi o | .iaddi _ o | .imuli _ o | .andi _ o | .ori _ o | .fmuli o | .faddi o => [o.o.a]
  | .ld o | .ldU o | .lds o | .ldv o | .pres o | .pref o | .lockl o | .unlockl o | .cinv o | .cwb o => if o.imm then [o.a] else [o.a, o.b]
  | .st o | .stU o | .sts o | .stv o => (if o.imm then [o.a] else [o.a, o.b]) ++ (if o.h.long then [o.val] else [])
  | .lxch o => if o.mode = 6 then [o.a] else [o.a, o.b]
  | .atom o | .atomU o | .atoms o | .red o => [o.a, o.b] ++ (if o.kind = 9 then [o.c] else [])
  | .fma o | .imac o | .imacU o | .bfi o | .bfiU o | .pfma o | .bdot o | .yfma o => [o.a, o.b, o.c]
  | .cvt o => if o.var.getLsbD 1 then [o.a, o.c] else [o.a]
  | .tcvt o | .loop o | .stgw o | .stga o | .csrw o | .mset o => [o.b]
  | .nop .. | .nopU .. | .poll .. | .bra .. | .braNodiv .. | .meet .. | .exit .. | .exitU .. | .movi .. | .moviU ..
  | .msign .. | .mma .. | .tzero .. | .tamax .. | .mwait .. | .bru .. | .jmp .. | .call .. | .ret .. | .loopi ..
  | .brk .. | .yield .. | .barSync .. | .barArrive .. | .barWait .. | .gbar .. | .fence .. | .part .. | .csrr ..
  | .clk .. | .curr .. | .ctime .. | .mstat .. | .unassignedExtendedOpcode .. | .mateAgreement .. | .mmaComplete ..
  | .loopBack .. | .gbarComplete .. | .engineOperationEnd .. | .engineWriteProgress .. | .chunkLanding ..
  | .noRecvTimeout .. | .peerUnreachable .. | .loadDataReturn .. | .pageWalk .. | .homeSlotUnreachable ..
  | .faultResponse .. | .fetchFault .. | .mergeWindowClose .. | .faultQueueRetry .. | .firmwareFaultService ..
  | .resume .. | .faultServiceTimeout .. | .releaseAtHome .. | .acquireAtHome .. | .pull .. | .homeEpochAgePull ..
  | .dirtyByteDeadline .. | .scrub .. | .windowAck .. | .dispatchRequest .. | .teamStart .. | .teamRetire ..
  | .gridRetire .. | .graphNodeFire .. | .preemptionRequest .. | .forcedStop .. | .teamSaveEnd .. | .teamRestore ..
  | .issueLimitSwitch .. | .groupBoost .. | .barrierTimeout .. | .pairTimeout .. | .estimatorWindowEnd ..
  | .classChangeEnd .. | .powerIntervalEnd .. | .hotSpotMigration .. | .hotSpotStepUp .. | .arrivalReport ..
  | .budgetMessage .. | .pairedSignature .. | .counterIrq .. | .errorIrq .. | .dieFailure ..
  | .memorySideDieFailure .. | .ioDieFailure .. | .coreFailure .. | .dawn .. | .dawnPtpWaitExpiry .. | .ptpSync ..
  | .ptpHoldover .. | .keepalive .. | .linkLoss .. | .connectionRequest .. | .unknownMessage .. | .status ..
  | .attest .. | .semClaim .. | .semRelease .. | .contextCreate .. | .contextEnd .. | .window .. | .faultRoute ..
  | .recordFree .. | .plierrovLaunch .. | .threshold .. | .graphLoad .. | .graphPush .. | .rmaRead .. | .rmaWrite ..
  | .rmaAtomic .. | .ptSet .. | .migrate .. | .reclaim .. | .faultResume .. | .limits .. | .partition ..
  | .clusterMap .. | .errorStatus .. | .msConfigPtroot .. | .msConfigLease .. | .msConfigPeertab ..
  | .msConfigPoolb .. | .msConfigPooll .. | .thermal .. | .peerTable .. | .storeComplete ..
  | .tileOperationComplete .. | .completionTimePassed .. | .portRetirement .. | .peerAccessArrival .. => []

/-- Whether an instruction reads a latch (R239). -/
def readsLatch (i : Instr) : Bool := (sources i).any fun c => match c with | .latch _ => true | _ => false

/-! ## The instruction under way -/

/-- Why an instruction does not complete: a trap, or a wait that leaves it to be issued again (R240). -/
inductive Stop where
  | trap (t : Trap)
  | wait (m : GroupMode) (w : Wait)
  /-- The group waits at its instruction, of which one effect has been made and is not made again. -/
  | hold (s : State)
deriving DecidableEq, Repr

/-- What an issuing instruction sees: the state, its group and team, its form, its set, and the address of the next
instruction (R37). -/
structure Issue where
  s : State
  g : GrpRef
  team : Team
  grp : Group
  h : Hdr
  u : Bool
  next : Nat
  /-- The state before the issue. -/
  pre : State
  /-- The instruction, and its words for the log (R92). -/
  instr : Instr
  words : W32 × W32

def Issue.context (x : Issue) : Context := x.s.ctx x.team.ctx
def Issue.die (x : Issue) : Nat := dieOf x.team.core
def Issue.unit (x : Issue) : Core := x.s.core x.team.core
def Issue.gangOf (x : Issue) : Option Gang := x.team.gang.bind fun p => x.s.gangs.find? p.1

/-! ## Guards -/

def guardHolds (g : Guard) (p : BitVec 8) : Bool := p.getLsbD g.idx.toNat != g.neg
/-- The guard selects this thread (R22). -/
def Issue.selects (x : Issue) (t : Thread) : Bool := x.h.guard.all fun g => guardHolds g t.p
/-- The U-set guard selects the group. -/
def Issue.selected (x : Issue) : Bool := x.h.guard.all fun g => guardHolds g x.grp.q
/-- ACTIVE threads that the guard selects, by lane. -/
def Issue.lanes (x : Issue) : List Thread := x.grp.active.filter x.selects

/-! ## Sources -/

/-- A source code that raises ILLEGAL_OPERAND when it names `k` consecutive registers (R16, R35). -/
def srcIllegal (u : Bool) (k : Kernel) : Src × Nat → Bool
  | (.reg n, c) => decide (n.toNat + c > (if u then k.s else k.v)) || n.toNat % c != 0
  | (.bcast n, c) => u || decide (n.toNat + c > k.s) || n.toNat % c != 0
  | (.reserved _, _) => true
  | (_, c) => c != 1

/-- A destination of `c` consecutive registers out of range or misaligned (R16, R35). -/
def dstIllegal (u : Bool) (k : Kernel) (d : Nat × Nat) : Bool :=
  decide (d.1 + d.2 > (if u then k.s else k.v)) || d.1 % d.2 != 0

/-- Word `j` of a source in a thread (R17, R35). -/
def Issue.read (x : Issue) (t : Thread) (c : Src) (j : Nat) : W32 :=
  match c with
  | .reg n => if x.u then x.grp.sreg (n.toNat + j) else t.reg (n.toNat + j)
  | .latch n => if x.u then (latchAt x.grp.y n.toNat).lane 0 else (latchAt x.grp.x n.toNat).lane t.lane
  | .zero => 0
  | .home => BitVec.ofNat 32 (if x.u then x.g.grp else t.lane)
  | .index => BitVec.ofNat 32 (if x.u then x.team.index else t.tid)
  | .ones => 0xFFFFFFFF
  | .bcast n => match x.grp.homes.find? t.lane with
    | some (_, s) => s.get 0 (n.toNat + j)
    | none => x.grp.sreg (n.toNat + j)
  | .reserved _ => 0

/-- The 64-bit value of a pair (R35). -/
def Issue.read64 (x : Issue) (t : Thread) (c : Src) : W64 := x.read t c 1 ++ x.read t c 0

/-- One word, or a pair, as a 64-bit value. -/
def Issue.value (x : Issue) (t : Thread) (c : Src) (k : Nat) : W64 :=
  if k = 2 then x.read64 t c else (x.read t c 0).setWidth 64

/-- The thread whose values a U-set instruction reads stands for the group. -/
def groupThread : Thread := {}

/-! ## The waits for operands (R20, R36, R95, R96) -/

def latchSources (l : List Src) : List Nat := l.filterMap fun c => match c with | .latch n => some n.toNat | _ => none

def Issue.latches (x : Issue) : List Latch := if x.u then x.grp.y else x.grp.x

/-- A latch that is read while its valid bit is clear (R239). -/
def Issue.latchInvalid (x : Issue) (l : List Src) : Bool := (latchSources l).any fun n => !(latchAt x.latches n).valid

/-- The access that a latch read waits for (R96). -/
def Issue.latchPending (x : Issue) (l : List Src) : Option Nat :=
  (latchSources l).findSome? fun n => (latchAt x.latches n).pend.map (·.1)

/-- The registers of a set that wait for an access. -/
def Group.pend (g : Group) (u : Bool) : Sp (List Nat) := if u then g.pendS else g.pendV

/-- The access that a register read by the instruction waits for (R95). -/
def Issue.regPending (x : Issue) (srcs : List (Src × Nat)) : Option Nat :=
  let span := fun (p : Sp (List Nat)) (n c : Nat) => (List.range c).findSome? fun j => (p.get [] (n + j)).head?
  srcs.findSome? fun (c, k) => match c with
    | .reg n => span (x.grp.pend x.u) n.toNat k
    | .bcast n => span x.grp.pendS n.toNat k
    | _ => none

/-- A later write of registers that wait for accesses overtakes theirs in the threads that it writes (R95; log 11). -/
def Group.overtake (g : Group) (u : Bool) (h : Hdr) (dsts : List (Nat × Nat)) : Group :=
  let sel := fun (p : BitVec 8) => h.guard.all fun q => guardHolds q p
  let who := if u then (if sel g.q then [0] else []) else 2048 :: (g.active.filter fun t => sel t.p).map (·.tid)
  let regs := dsts.flatMap fun (n, c) => (List.range c).map (n + ·)
  { g with superseded := (regs.flatMap fun n => ((g.pend u).get [] n).flatMap fun uid => who.map fun i => (uid, n, i)) ++ g.superseded }

/-- The issue of an instruction that writes more registers than its fields say. -/
def Issue.claims (x : Issue) (dsts : List (Nat × Nat)) : Issue := { x with s := x.s.updGroup x.g fun g => g.overtake x.u x.h dsts }

/-! ## What an instruction asks for before it changes anything (R55) -/

/-- An operand whose value raises ILLEGAL_INSTRUCTION or ILLEGAL_OPERAND, whatever the guard selects (R55). -/
structure Judged where
  src : Src × Nat
  illegal : Issue → Bool := fun _ => false
  operand : Issue → Bool := fun _ => false

/-- The checks and operands of one instruction, in the order of R55. -/
structure Plan where
  u : Bool
  h : Hdr
  illegal : Issue → Bool := fun _ => false
  srcs : List (Src × Nat) := []
  dsts : List (Nat × Nat) := []
  operand : Issue → Bool := fun _ => false
  role : Role → Bool := fun _ => true
  judged : List Judged := []

/-- A mask word's high-waters beyond the declared counts (R48). -/
def maskIllegal (k : Kernel) (h : Hdr) : Bool :=
  h.sp.any fun m => decide (m.vec.toNat > k.v) || decide (m.uni.toNat > k.s)

/-- The wait for the first operand that is not there (R36, R95, R96). -/
def Issue.pending (x : Issue) (l : List (Src × Nat)) : Option Stop :=
  match x.latchPending (l.map (·.1)) with
  | some uid => some (.wait .interlocked (.latch uid))
  | none => (x.regPending l).map fun uid => .wait .stalled (.reg uid)

/-- The judged operands that can be read: the code names an operand, and no invalid latch. -/
def Plan.readable (p : Plan) (x : Issue) : List Judged :=
  p.judged.filter fun j => !srcIllegal p.u x.team.k j.src && !x.latchInvalid [j.src.1]

/-- The precise checks of decode, role and latches, and the waits for operands (R48, R55, R95, R96, R230). A value that decides an
ILLEGAL_INSTRUCTION or ILLEGAL_OPERAND is waited for first. -/
def Plan.check (p : Plan) (x : Issue) : Option Stop :=
  if p.illegal x then some (.trap tIllegalInstruction)
  else match x.pending ((p.readable x).map (·.src)) with
  | some w => some w
  | none =>
    if (p.readable x).any (·.illegal x) then some (.trap tIllegalInstruction)
    else if maskIllegal x.team.k p.h || p.srcs.any (srcIllegal p.u x.team.k) || p.dsts.any (dstIllegal p.u x.team.k) || p.operand x ||
        (p.readable x).any (·.operand x) then some (.trap tIllegalOperand)
    else if !p.role x.grp.role then some (.trap tRoleViolation)
    else if x.latchInvalid (p.srcs.map (·.1)) then some (.trap tLatchInvalid)
    else x.pending p.srcs

/-- Set a group waiting where it stands: the instruction issues again when the wait ends. A stall is a switch point
unless the instruction reads a latch (R239, R240); the rotation is the caller's. -/
def Group.await (g : Group) (now : Nat) (m : GroupMode) (w : Wait) : Group :=
  { g with mode := m, wait := w, since := if g.wait = w then g.since else now, boosted := false }

/-! ## Tags -/

/-- Packings that R248 allows for a code, as the largest aux value. -/
def maxPack (c : Nat) : Nat :=
  if c ≤ 0x03 then 0 else if c ≤ 0x05 then 1 else if c ≤ 0x0A then 2 else if c = 0x0B then 3 else if c = 0x0C then 2
  else if c ≤ 0x0F then 0 else if c ≤ 0x12 then 3 else if c ≤ 0x16 then 2 else if c ≤ 0x19 then 1
  else if 0x20 ≤ c ∧ c ≤ 0x23 then 3 else if c = 0x24 ∨ c = 0x25 then 2 else if c = 0x26 then 1 else if c = 0x27 then 3 else 0

def isCodebook (c : Nat) : Bool := 0x0D ≤ c && c ≤ 0x0F
def isRingCode (c : Nat) : Bool := 0x2A ≤ c && c ≤ 0x2E
def isSm (c : Nat) : Bool := 0x10 ≤ c && c ≤ 0x19
def isNat_ (c : Nat) : Bool := 0x20 ≤ c && c ≤ 0x26
def isFormat (c : Nat) : Bool := c ≤ 0x19 || (0x20 ≤ c && c ≤ 0x2E)

/-- The tag values that may stand in a register (R245, R247, R248, R255). -/
def tagAllowed (t : Nat) : Bool :=
  let c := t / 16
  let a := t % 16
  isFormat c && (if isCodebook c then true else if isRingCode c then a ≤ 1 else a ≤ maxPack c)

/-- The tag of a source; special sources, broadcasts and U-set sources carry none (R18, R246). -/
def Issue.tagOf (x : Issue) (c : Src) : Option Tag :=
  if x.u then none else
  match c with
  | .reg n => some (x.grp.tag n.toNat)
  | .latch n => some (latchAt x.grp.x n.toNat).tag
  | _ => none

/-- Whether a codebook or ring slot that a tag names holds what the format needs (R247). -/
def Core.tagLoaded (c : Core) (t : Tag) : Bool :=
  let k := tagCode t
  if isCodebook k then (c.codebooks.get none (tagAux t)).isSome
  else if isRingCode k then
    (c.rings.get none (tagAux t % 2)).any fun r =>
      r.n == (if k = 0x2A then 4 else if k = 0x2B ∨ k = 0x2D then 8 else 16)
  else true

/-- The first failing tag of one operand of `k` registers: against its class, in a pair of unequal tags, or with a codebook or ring slot
that does not hold what it names (R247, log 20). -/
def Issue.classFail (x : Issue) (ok : Tag → Bool) : Src × Nat → Option Nat
  | (c, k) =>
    match x.tagOf c with
    | none => none
    | some t =>
      if !ok t then some t.toNat else
      let other := match c with
        | .reg n => (List.range k).findSome? fun j =>
            let u := x.grp.tag (n.toNat + j)
            if u != t then some u.toNat else none
        | _ => none
      other.orElse fun _ => if x.unit.tagLoaded t then none else some t.toNat

/-- Tag classes of R272. -/
def clsAny (_ : Tag) : Bool := true
def clsInt (t : Tag) : Bool := tagCode t == 0x28 || tagCode t == 0
def clsInt64 (t : Tag) : Bool := tagCode t == 0x29 || tagCode t == 0
def clsFlt (c : Nat) (t : Tag) : Bool := tagCode t == c || tagCode t == 0

/-- FORMAT_MISMATCH of the first operand that fails its class. -/
def Issue.classes (x : Issue) (l : List ((Tag → Bool) × Src × Nat)) : Except Stop Unit :=
  match l.findSome? fun (ok, c) => x.classFail ok c with
  | some t => .error (.trap (tFormatMismatch t))
  | none => .ok ()

/-- Operands that an entry ties to one format: equal codes and aux among those that carry a tag (R247). -/
def Issue.tied (x : Issue) (l : List Src) : Except Stop Unit :=
  match l.filterMap x.tagOf with
  | [] => .ok ()
  | t :: r => match r.find? fun u => u != t with
    | some u => .error (.trap (tFormatMismatch u.toNat))
    | none => .ok ()

/-! ## Results (R273) -/

/-- One lane's result: its words and the counter numbers it adds one to. -/
structure Res where
  words : List W32
  counts : List Nat := []
deriving DecidableEq, Repr

def res1 (w : W32) : Res := { words := [w] }
def res64 (w : W64) (counts : List Nat := []) : Res := { words := [w.setWidth 32, (w >>> 32).setWidth 32], counts := counts }

/-- What a lane function sees of one lane: up to three operands, each one word or a pair. -/
structure Lane where
  t : Thread
  a : W64 := 0
  b : W64 := 0
  c : W64 := 0

def Lane.a32 (l : Lane) : W32 := l.a.setWidth 32
def Lane.b32 (l : Lane) : W32 := l.b.setWidth 32
def Lane.c32 (l : Lane) : W32 := l.c.setWidth 32

/-- Word `j` of each lane's result, for latches and registers: unselected lanes keep their register (0 under W). -/
def writeWord (g : Group) (w : Bool) (d : Nat) (rs : List (Nat × Res)) (j : Nat) : Sp W32 :=
  g.threads.foldl (fun m t =>
    let old := if w then 0 else t.reg (d + j)
    let v := match rs.find? (fun p => p.1 == t.lane) with | some (_, r) => r.words.getD j 0 | none => old
    Sp.set 0 m t.lane v) []

/-- Write `k` words of every result from register `d` on, tag them, and push one latch entry each (R36, R273). -/
def Group.writeV (g : Group) (w : Bool) (d k : Nat) (tag : Tag) (rs : List (Nat × Res)) : Group :=
  let es := (List.range k).map fun j => ({ valid := true, tag := tag, vals := writeWord g w d rs j } : Latch)
  let put := fun (t : Thread) (ws : List W32) =>
    (List.range k).foldl (fun (t : Thread) j => t.setReg (d + j) (ws.getD j 0)) t
  let g1 : Group := if w then g else
    let tagged := (List.range k).foldl (fun (g : Group) j => g.setTag (d + j) tag) g
    { tagged with threads := g.threads.map fun t => match rs.find? (fun p => p.1 == t.lane) with
        | some (_, r) => put t r.words
        | none => t }
  { g1 with x := es.foldl pushLatch g.x }

/-- The U-set result (R273): written where the guard selects the group; otherwise the old value is pushed. With W = 1 there is no
destination whose value could be pushed, and 0 is (DESIGN CHOICE; log 101). -/
def Group.writeU (g : Group) (w sel : Bool) (d k : Nat) (r : List W32) : Group :=
  let old := (List.range k).map fun j => if w then 0 else g.sreg (d + j)
  let vs := if sel then r else old
  let g1 := if w || !sel then g else
    (List.range k).foldl (fun (g : Group) j => g.setSreg (d + j) (vs.getD j 0)) g
  let es := vs.map fun v => ({ valid := true, vals := Sp.set 0 [] 0 v } : Latch)
  { g1 with y := es.foldl pushLatch g.y }

/-- Set one predicate bit of the lanes listed (R282, R307). -/
def setBit (p : BitVec 8) (i : Nat) (b : Bool) : BitVec 8 := if b then p ||| ((1 : BitVec 8) <<< i) else p &&& ~~~((1 : BitVec 8) <<< i)
def Group.writeP (g : Group) (i : Nat) (rs : List (Nat × Bool)) : Group :=
  { g with threads := g.threads.map fun t => match rs.find? (fun p => p.1 == t.lane) with
      | some (_, b) => { t with p := setBit t.p i b }
      | none => t }

end Sys2Proof.Machine
end

