-- ==== Sys2Proof/Machine/Flow.lean ====
section
/-! DEFINITION. The flow of a group: current set, holding and release, rotation, loop levels, switch points (R236 to R240,
R301 to R303), the weight of an issue (R413), and the shared skeleton of every program instruction. -/
namespace Sys2Proof.Machine
open Sys2Proof

/-! ## The current set (R236 to R238) -/

def Group.unexited (g : Group) : List Thread := g.threads.filter Thread.unexited
def minPc : List Thread → Nat
  | [] => 0
  | [t] => t.pc
  | t :: r => min t.pc (minPc r)

/-- The next current PC among WAITING threads: the lowest above the old one, or else the lowest (R238). -/
def nextPc (old : Nat) (ws : List Thread) : Nat :=
  let up := ws.filter fun t => decide (old < t.pc)
  if up.isEmpty then minPc ws else minPc up

def Group.waiting (g : Group) : List Thread := g.threads.filter (·.mode == .waiting)

/-- Make the threads at one PC the current set; ACTIVE threads elsewhere wait. -/
def Group.setCurrent (g : Group) (pc : Nat) : Group :=
  { g with pc := pc, threads := g.threads.map fun t =>
      if (t.mode == .active || t.mode == .waiting) then { t with mode := if t.pc = pc then .active else .waiting } else t }

/-- Rotation (R238): latches are cleared; the next WAITING set becomes current. -/
def Group.rotate (g : Group) : Group :=
  let g1 := { g.clearLatches with run := 0 }
  if g.waiting.isEmpty then g1 else g1.setCurrent (nextPc g.pc g.waiting)

/-- Hold the threads that stand at their meeting address (R236, R298). -/
def Group.hold (g : Group) : Group :=
  { g with threads := g.threads.map fun t =>
      if (t.mode == .active || t.mode == .waiting) && t.meet == some t.pc then { t with mode := .held } else t }

/-- The thread stands at a REGROUP. -/
def ThreadMode.atRegroup : ThreadMode → Bool
  | .regroup .. => true
  | _ => false

/-- What settling a group ends in. -/
inductive Settled where
  | ok (g : Group)
  | deadlock (addr : Nat)
deriving DecidableEq, Repr

/-- The current set has parted: its threads stand at more than one PC. -/
def Group.apart (g : Group) : Bool := g.active.any fun t => t.pc != minPc g.active
/-- Where a branch has parted the current set, the threads at the lower PC are the current set (R238). -/
def Group.lowered (g : Group) : Group := if g.apart then g.setCurrent (minPc g.active) else g
/-- The address past which a forced rotation goes on: that of the current set that a branch has left, or else that of the instruction that
has issued (R238; log 99). -/
def Group.leftPc (g : Group) : Nat := if g.apart then minPc g.active else g.ipc
/-- Settling rotates the group: its current set has no ACTIVE thread left, and some thread waits (R238). -/
def Group.turns (g : Group) : Bool := g.lowered.hold.active.isEmpty && !g.lowered.hold.waiting.isEmpty

/-- Settle a group after its PCs changed: parting, holding, forced rotation, release, MEET_DEADLOCK, DONE, and MEETING, where some thread
stands at a REGROUP (R236 to R238, R240, R312; log 19). -/
def Group.settle (g0 : Group) : Settled :=
  let g := g0.lowered.hold
  if !g.active.isEmpty then .ok (g.setCurrent (minPc g.active))
  else if !g.waiting.isEmpty then .ok ({ g.clearLatches with run := 0 }.setCurrent (nextPc g0.leftPc g.waiting))
  else if g.unexited.isEmpty then .ok { g with mode := .done, wait := .none }
  else
    let a := minPc g.unexited
    if g.unexited.any fun t => t.mode.atRegroup then
      .ok { g.clearLatches with mode := .meeting, wait := .regroup, run := 0, pc := minPc (g.threads.filter fun t => t.mode.atRegroup) }
    else if g.unexited.any fun t => t.pc != a then .deadlock a
    else .ok { g with pc := a, threads := g.threads.map fun t =>
                 if t.mode == .held then { t with mode := .active, meet := none } else t }

/-! ## Loop levels (R47, R301 to R303) -/

/-- A taken branch ends every level whose body its target lies outside of (R47). -/
def endLevels (target : Nat) (l : List Level) : List Level :=
  l.dropWhile fun v => !(decide (v.start ≤ target) && decide (target < v.stop))

/-- Sequential flow from the instruction at `pc` on to `next` passes the last word of the innermost body (R301). -/
def passesEnd (l : List Level) (pc next : Nat) : Bool :=
  match l with
  | v :: _ => decide (pc < v.stop) && decide (v.stop ≤ next)
  | [] => false

/-- Sequential flow of a group to `next` passes the last word of its innermost body. -/
def Group.atLoopEnd (g : Group) (next : Nat) : Bool := passesEnd g.levels g.pc next

/-! ## Switch points (R239) -/

def TeamMode.isStopping : TeamMode → Bool
  | .stopping _ => true
  | _ => false

/-- Where flow goes on from the end of the levels that close there or run again (R301, R302). -/
def loopTarget (lc : Sp Nat) : List Level → Nat → Nat
  | [], pc => pc
  | v :: r, _ => if lc.get 0 v.ctr > 1 then v.start else if r.head?.any fun o => o.stop == v.stop then loopTarget lc r v.stop else v.stop
/-- The address of a group's next instruction, the loop-backs that are due made. -/
def Group.goesTo (g : Group) : Nat := if g.loopDue then loopTarget g.lc g.levels g.pc else g.pc

/-- Whether the next instruction of a group reads a latch (R20, R239); none while a word of it is not there. -/
def State.nextReadsLatch (s : State) (t : Team) (g : Group) : Option Bool :=
  let (ws, e) := s.fetchWords (dieOf t.core) (s.ctx t.ctx).windows 5 g.goesTo
  match decode ws, e with
  | .ok i, _ => some (readsLatch i)
  | .error .truncated, some (.absent _) => none
  | .error _, _ => some false

/-- The switch point of a group: rotation, and after S = 1 the stop of a team that is to stop (R239, R242). -/
def Group.switched (g : Group) (stopping : Bool) (sp : Option Mask) : Group :=
  let g1 := g.rotate
  if sp.isSome && stopping then { g1 with mode := .saving, stopMask := sp, stoppedAt := some true } else g1

/-- A switch point: taken only where the next instruction reads no latch. Where that instruction is not there yet, the point waits
for it (R20, R239). -/
def State.switchPoint (s : State) (r : GrpRef) (sp : Option Mask) : State :=
  match s.group? r with
  | none => s
  | some (t, g) =>
    if g.mode != .ready then s else
    let mask := sp.orElse fun _ => g.switchDue.getD none
    match s.nextReadsLatch t g with
    | none => s.setGroup r { g with switchDue := some mask }
    | some true => s.setGroup r { g with switchDue := none }
    | some false => s.setGroup r ({ g with switchDue := none }.switched t.mode.isStopping mask)

/-- The safe point of S = 1 where the group has rotated already: a team that is to stop stops there, unless the next instruction reads a
latch (R239, R242). -/
def State.safePoint (s : State) (r : GrpRef) (sp : Option Mask) : State :=
  match s.group? r with
  | none => s
  | some (t, g) =>
    if sp.isSome && t.mode.isStopping && g.mode == .ready && s.nextReadsLatch t g != some true then
      s.setGroup r { g with mode := .saving, stopMask := sp, stoppedAt := some true }
    else s

/-! ## Weights (R413) -/

def isF64 (fmt : BitVec 6) : Bool := fmt == 1

/-- The weight of an issue for a number of active lanes; the first matching row (R413). -/
def weight (i : Instr) (n : Nat) : Nat :=
  match i with
  | .engShape .. | .engCopy .. | .engPlane .. | .engGather .. | .engScatter .. | .engFill .. | .engUnplane ..
  | .engSend .. | .engRecv .. | .engArm .. | .engCntrd .. | .engCntadd .. | .engReduce .. | .engCancel ..
  | .engWait .. | .engQuery .. => 16
  | .rcp .. | .rsq .. | .exp2 .. | .log2 .. | .sin .. | .cos .. | .tanh .. | .sqrt .. | .logistic .. => 8 + 16 * n
  | .fma o => 8 + (if isF64 o.fmt then 24 else 12) * n
  | .pfma .. => 8 + 12 * n
  | .fadd o | .fsub o | .fmul o => 8 + (if isF64 o.fmt then 12 else 8) * n
  | .fmin .. | .fmax .. | .fcmp .. | .fmuli .. | .faddi .. | .cvt .. | .qnt .. | .dqn .. | .amax .. | .cblk ..
  | .padd .. | .pmul .. | .fabs .. | .fneg .. | .fint .. | .fclass .. => 8 + 8 * n
  | .ld .. | .st .. | .lds .. | .sts .. | .ldv .. | .stv .. | .atom .. | .atoms .. | .red .. | .pres .. => 8 + 2 * n
  | .ldU .. | .stU .. | .atomU .. => 8 + 2 * min n 1
  | .tld .. | .tst .. => 136
  | .mma .. | .tzero .. | .tcvt .. | .tamax .. | .msign .. | .mwait .. => 16
  | .ycvt .. | .yadd .. | .ysub .. | .ymul .. | .ydiv .. | .yneg .. | .yrec .. | .ysqr .. | .yuni .. | .yint ..
  | .ycmp .. | .yhull .. | .ypack .. | .yunpk .. | .ymid .. | .ytest .. | .ymap .. | .yfma .. | .lxch .. | .poll ..
  | .lreduce .. | .peers .. | .regroup .. => 8 + 4 * n
  | i => match i.raw? with
    | some r => if r.u then 4 else 4 + n
    | none => 0

/-! ## Retirement and settling -/

/-- Every ACTIVE thread retires one instruction (R263). -/
def Group.retire (g : Group) : Group := g.mapActive fun t => { t with retired := t.retired + 1 }

/-- After the PCs of a group changed: settle it, then take the switch point of S = 1, which a forced rotation has made already
(R237 to R239). -/
def State.settled (s : State) (r : GrpRef) (sp : Option Mask) : State :=
  match s.group? r with
  | none => s
  | some (_, g) =>
    match g.settle with
    | .deadlock a => s.raiseTrap r (tMeetDeadlock a)
    | .ok g1 =>
      let s1 := s.setGroup r g1
      if g.turns then s1.safePoint r sp else if sp.isSome then s1.switchPoint r sp else s1

end Sys2Proof.Machine
end

