-- ==== Sys2Proof/Machine/Checkpoint.lean ====
section
/-! DEFINITION. Copies of a team (R243, R430), the interval of a checkpointed team with its held stores (R431 to R434),
rollback (R432), the consumption of an uncorrectable word (R142), and the dissolution of formed groups (R241). -/
namespace Sys2Proof.Machine
open Sys2Proof

/-! ## Ranges of memory as data -/

/-- The listed bytes of a range, by offset. -/
def cellsOf (m : List Host.Cell) (lo n : Nat) : Sp Byte :=
  (m.filter fun (a, _) => decide (lo ≤ a) && decide (a < lo + n)).map fun (a, b) => (a - lo, b)
/-- The entries of a list whose keys rise from `lo` on: all of them in a list that is in order. -/
def risingPart : Nat → Sp Byte → Sp Byte
  | _, [] => []
  | lo, (o, b) :: r => if lo ≤ o then (o, b) :: risingPart (o + 1) r else risingPart lo r
/-- Replace a range by listed bytes; the cells stay in order. -/
def setCells (m : List Host.Cell) (lo n : Nat) (c : Sp Byte) : List Host.Cell :=
  (m.filter fun (a, _) => decide (a < lo)) ++ (((risingPart 0 c).filter fun (o, b) => decide (o < n) && b != 0).map fun (o, b) => (lo + o, b))
    ++ m.filter fun (a, _) => decide (lo + n ≤ a)

/-! ## Copies of a team -/

/-- Poisoned words of a range of a vault, by word of the range, and the range with these words poisoned and no other (R142). -/
def State.vaultFlaws (s : State) (cl o n : Nat) : List Nat :=
  let w := (cl % 16 * 2 ^ 25 + o) / 8
  ((s.die (cl / 16)).poison.filter fun k => decide (w ≤ k) && decide (k < w + n / 8)).map fun k => k - w
def State.putVaultFlaws (s : State) (cl o n : Nat) (l : List Nat) : State :=
  let w := (cl % 16 * 2 ^ 25 + o) / 8
  s.updDie (cl / 16) fun d => { d with poison := l.map (w + ·) ++ d.poison.filter fun k => !(decide (w ≤ k) && decide (k < w + n / 8)) }

/-- A copy of a resident team as a forced stop keeps it (R243, R430). -/
def State.snapshot (s : State) (t : Team) (entries : List LogEntry) : Saved :=
  let c := s.core t.core
  { team := t, entries := entries,
    scratch := cellsOf s.mem (arrayAt t.core (c.scratchBase t.slice)) c.scratchBytes,
    tensor := cellsOf s.mem (arrayAt t.core (c.tensorBase t.slice)) c.tensorBytes,
    vault := match t.vault with | some (o, n) => cellsOf s.mem (vaultAt (clusterOf t.core) o) n | none => [],
    vaultPoison := match t.vault with | some (o, n) => s.vaultFlaws (clusterOf t.core) o n | none => [],
    tiles := if t.k.plane then c.tiles else [], codebooks := if t.k.plane then c.codebooks else [],
    rings := if t.k.ring then c.rings else [] }

/-- Put a copy's bytes, matrix and ring state back where the team stands. -/
def State.putBack (s : State) (t : Team) (v : Saved) : State :=
  let c := s.core t.core
  let m1 := setCells s.mem (arrayAt t.core (c.scratchBase t.slice)) c.scratchBytes v.scratch
  let m2 := setCells m1 (arrayAt t.core (c.tensorBase t.slice)) c.tensorBytes v.tensor
  let m3 := match t.vault with | some (o, n) => setCells m2 (vaultAt (clusterOf t.core) o) n v.vault | none => m2
  let s1 : State := { s with mem := m3 }
  let s2 := match t.vault with | some (o, n) => s1.putVaultFlaws (clusterOf t.core) o n v.vaultPoison | none => s1
  s2.updCore t.core fun c =>
    { c with tiles := if t.k.plane then v.tiles else c.tiles, codebooks := if t.k.plane then v.codebooks else c.codebooks,
             rings := if t.k.ring then v.rings else c.rings }

/-! ## Held stores (R431, R434) -/

/-- Merge bytes that lie in one sector into a buffer. -/
def holdBytes (m : Sp (BitVec 64 × BitVec 512)) (a : Nat) (bs : List Byte) : Sp (BitVec 64 × BitVec 512) :=
  let (mk, d) := Sp.get (0, 0) m (a / 64)
  let o := a % 64
  let bits : BitVec 64 := BitVec.ofNat 64 ((2 ^ bs.length - 1) * 2 ^ o)
  let mask : BitVec 512 := BitVec.ofNat 512 ((2 ^ (8 * bs.length) - 1) * 2 ^ (8 * o))
  let new : BitVec 512 := BitVec.ofNat 512 (leNat bs * 2 ^ (8 * o))
  Sp.put m (a / 64) (mk ||| bits, (d &&& ~~~mask) ||| new)

/-- Bytes as a load of the team sees them: the buffer's over memory's (R431). -/
def overHeld (m : Sp (BitVec 64 × BitVec 512)) (a : Nat) (bs : List Byte) : List Byte :=
  bs.zipIdx.map fun (b, i) =>
    let (mk, d) := Sp.get (0, 0) m ((a + i) / 64)
    if mk.getLsbD ((a + i) % 64) then d.extractLsb' (8 * ((a + i) % 64)) 8 else b

/-- One held sector as the mask and data of its line. -/
def sectorLine (sec : Nat) (mk : BitVec 64) (d : BitVec 512) : BitVec 256 × BitVec 2048 :=
  (mk.setWidth 256 <<< (64 * (sec % 4)), d.setWidth 2048 <<< (512 * (sec % 4)))

/-- A drained store that its page keeps away waits under an identifier (R91): the stage of the cluster has a record for it, or its home
where that stage is full (log 84). -/
def State.storeFaults (s : State) (id core team line level : Nat) (wp peer : Bool) (a : HeldAccess) : State :=
  let r : FaultRec := { ctx := ((s.teams.find? team).map (·.ctx)).getD 0, page := granuleOf (line * 256), level := level, wp := wp, peer := peer,
                        access := 2, core := coreInCluster core }
  let s1 := s.keep id a
  let (s2, ok) := s1.report (clusterOrigin core) r (.held id)
  if ok then s2 else (s1.report (homeOrigin (homeOf (line * 256))) r (.held id)).1

/-- A drained store ends in ACCESS_FAULT: its team takes it, wherever it is (R106, R434). -/
def State.storeFails (s : State) (team : Nat) (grps : List Nat) (line cause : Nat) : State :=
  let tr : Trap := { tAccessFault cause with addr := line * 256 }
  match s.saved.find? team with
  | some v =>
    let slot := grps.headD (lowestGroup v.team).1
    s.trapKept team v slot (v.team.groups.get {} slot) tr 0 true
  | none => s.raiseTrap { team := team, grp := grps.headD 0 } tr

/-- A drained store performed at the die L2 of a core, which fetches a write permit where it has none (R131), and in the core's L1
(R121), or at the host aperture (R74). One that reaches no page takes the outcome of its walk (R77), and what holds the page holds it.
The answer is the completion time of one that has been performed. -/
def State.storeLine (s : State) (id core team : Nat) (grps : List Nat) (line : Nat) (mask : BitVec 256) (data : BitVec 2048)
    (buffer since : Nat) : State × Option Nat :=
  let die := dieOf core
  let ia := line * 256
  let x := s.l2 die line
  let a : HeldAccess := .store core team grps line mask data buffer since
  let done := fun (u : State) => let (u1, t) := u.l2Write die line mask data; (u1.l1Write core line mask data, some t)
  if homeOf ia < 8 ∧ x.permit = true ∧ s.time < x.lease then done s
  else if s.pageHeld ia then (s.keep id a, none)
  else match s.walk ia with
    | .leaf l =>
      if pteWp l.word then (s.storeFaults id core team line l.level true false a, none)
      else if homeOf ia < 8 then done ((s.touch ia l true).grant die line l 0)
      else
        let old := BitVec.ofNat 2048 (leNat (s.frameBytes ia l 256))
        let u := (s.touch ia l true).setFrame ia l (leBytes 256 (mergeLine mask data old).toNat)
        (u.setFramePoison ia l (mergePoison mask 0 (u.framePoison ia l)), some s.time)
    | .absent lv => (s.storeFaults id core team line lv false false a, none)
    | .peerAbsent lv => (s.storeFaults id core team line lv false true a, none)
    | .bad c => (s.storeFails team grps line c, none)

/-- Perform held sectors as RLX stores (R434) while the team stands: the answer is the latest completion time. -/
def State.drainHeld (s : State) (core team buffer : Nat) (grps : List Nat) : Sp (BitVec 64 × BitVec 512) → State × Nat
  | [] => (s, 0)
  | (sec, bits, d) :: r =>
    if (s.teams.find? team).all fun t => t.mode == .stopped then (s, 0) else
    let (mask, data) := sectorLine sec bits d
    let (s1, t) := ({ s with next := s.next + 1 } : State).storeLine s.next core team grps (sec / 4) mask data buffer s.time
    let (s2, u) := s1.drainHeld core team buffer grps r
    (s2, max (t.getD 0) u)

/-- Held vault sectors go to their vault; a word written in full loses its poison (R142). -/
def State.drainVault (s : State) (die : Nat) : Sp (BitVec 64 × BitVec 512) → State
  | [] => s
  | (sec, bits, d) :: r =>
    let a := sec * 64
    let cl := die * 16 + a / 2 ^ 25
    let at_ := vaultAt cl (a % 2 ^ 25)
    let m := (List.range 64).foldl (fun m i => if bits.getLsbD i then writeByte m (at_ + i) (d.extractLsb' (8 * i) 8) else m) s.mem
    let mend := fun (u : State) (i : Nat) => if bits.extractLsb' (8 * i) 8 == 0xFF then u.clearVaultPoison cl (a % 2 ^ 25 + 8 * i) 8 else u
    ((List.range 8).foldl mend { s with mem := m }).drainVault die r

/-- Release stores of a drained interval become releases at their scope (R147, R433). -/
def State.drainReleases (s : State) (die : Nat) : List (Nat × Nat) → State
  | [] => s
  | (ia, sc) :: r =>
    (if sc ≥ 4 then (s.drain die true).1
     else if sc = 3 then (s.cleanL2 die (lineOf ia)).1.recordRelease die (lineOf ia) else s).drainReleases die r

/-- A completion time reaches groups of a team, resident or saved (R146, R178). -/
def State.raiseAll (s : State) (team : Nat) (grps : List Nat) (t : Nat) : State :=
  let up := fun (x : Team) =>
    { x with groups := x.groups.map fun ((k, g) : Nat × Group) => (k, if grps.contains k then { g with horizon := max g.horizon t } else g) }
  { s.updTeam team up with saved := s.saved.adjust team fun v => { v with team := up v.team } }

/-- Drain the buffer of a team: the horizons of the groups that stored rise (R146, R434). -/
def State.drainTeam (s : State) (id : Nat) : State :=
  match s.intervals.find? id, s.teams.find? id with
  | some iv, some t =>
    let die := dieOf t.core
    let (s1, u) := s.drainHeld t.core id iv.buffer iv.storers iv.held
    let s2 := (s1.drainVault die iv.heldVault).drainReleases die iv.releases
    let s3 := s2.raiseAll id iv.storers (max u s.time)
    { s3 with intervals := s3.intervals.adjust id fun iv => { iv with held := [], heldVault := [], releases := [], storers := [] } }
  | _, _ => s

/-- The half of a team's shadow region in which the next copy, or the newer one, stands (R430). -/
def shadowHalf (upper : Bool) (p : Nat × Nat) : Nat × Nat := (p.1 + (if upper then p.2 / 2 else 0), p.2 / 2)

/-- A copy is written over one half of the shadow region, whose poison goes with what stood there (R142, R430). -/
def State.shadowWritten (s : State) (t : Team) (upper : Bool) : State :=
  match t.shadow with
  | some p => s.clearVaultPoison (clusterOf t.core) (shadowHalf upper p).1 (shadowHalf upper p).2
  | none => s

/-- Groups whose instruction of R433 has been performed and not yet been closed by a boundary. -/
def Interval.performed (iv : Interval) : List Nat := (match iv.own with | some (h, true) => [h] | _ => []) ++ iv.after

/-- The steps of R431 after the drain: counts are applied (R266), latches cleared, the copy written in the half of the older one, and
a new interval opens. -/
def State.openInterval (s : State) (id : Nat) : State :=
  match s.intervals.find? id with
  | none => s
  | some iv =>
    let s1 := s.updTeam id fun t => { t with groups := t.groups.map fun (k, g) => (k, g.clearLatches) }
    match s1.teams.find? id with
    | none => s
    | some t =>
      let s2 := if t.twin.any (fun x => !x.2) then s1 else s1.addCounts t.launch iv.counts
      let iv' : Interval := { copies := (s2.snapshot t [] :: iv.copies).take 2, own := iv.own.filter fun o => !o.2, upper := !iv.upper,
                              after := iv.performed.filter fun h => (t.groups.get {} h).mode == .barrier }
      { (s2.shadowWritten t (!iv.upper)) with intervals := s2.intervals.put id iv' }

/-- A boundary of a team that is only checkpointed (R431). -/
def State.boundary (s : State) (id : Nat) : State := (s.drainTeam id).openInterval id

/-- The buffer with bytes of a group's store merged in (R431). -/
def Interval.hold (iv : Interval) (grp : Nat) (vault : Bool) (a : Nat) (bs : List Byte) : Interval :=
  let who := if iv.storers.contains grp then iv.storers else iv.storers ++ [grp]
  if vault then { iv with heldVault := holdBytes iv.heldVault a bs, storers := who }
  else { iv with held := holdBytes iv.held a bs, storers := who }

/-- Hold a store of a group of a checkpointed team; with the buffer full, drain it at once, and the interval is no longer
recoverable (R434). `none`: a paired team's interval must end first. -/
def State.holdStore (s : State) (id grp : Nat) (vault : Bool) (a : Nat) (bs : List Byte) : Option State :=
  match s.intervals.find? id, s.teams.find? id with
  | some iv, some t =>
    if ((if vault then iv.heldVault else iv.held).find? (a / 64)).isSome || iv.held.length + iv.heldVault.length < 1024 then
      let new := iv.held.isEmpty && iv.heldVault.isEmpty
      some { s with intervals := s.intervals.put id { iv.hold grp vault a bs with buffer := if new then s.next else iv.buffer },
                    next := s.next + new.toNat }
    else if t.k.paired then none
    else
      let s1 := s.drainTeam id
      (s1.intervals.find? id).map fun iv =>
        { s1 with intervals := s1.intervals.put id { iv.hold grp vault a bs with recoverable := false, buffer := s1.next }, next := s1.next + 1 }
  | _, _ => some s

/-! ## Rollback (R432) -/

/-- A new corrected error of a die's count (R428): units 0 to 7 are compute dies, 8 to 15 memory-side dies, 16 the I/O
die; a threshold reached is one interrupt still to be sent. -/
def State.corrected (s : State) (unit : Nat) : State :=
  s.updIo fun io => { io with errors := io.errors.set 0 unit (min (2 ^ 48 - 1) (io.errors.get 0 unit + 1)) }

/-- The entries of an instruction of R433 that is in flight. -/
def State.ownEntries (s : State) (id : Nat) (t : Team) (iv : Interval) : List LogEntry :=
  match iv.own with
  | some (h, true) => ((s.core t.core).log.map (·.2)).filter fun e => e.team == id && e.grps.contains h
  | _ => []
/-- Some lane of an access has been performed. -/
def LogEntry.begun (e : LogEntry) : Bool :=
  e.lanes.any fun x => !x.waiting || match x.stage with | .home .. | .settling .. => true | _ => false

/-- Whether a rollback can mend a consumption in this interval: the newer copy is sound (R432), and no lane of an atomic that has an interval
of its own has been performed, which none may be twice (R433; log 35). -/
def State.canRollback (s : State) (id : Nat) (t : Team) (iv : Interval) : Bool :=
  iv.recoverable && decide (iv.rollbacks < 3) && !iv.copies.isEmpty && !((s.ownEntries id t iv).any (·.begun)) &&
    !(t.shadow.any fun p => s.vaultPoison (clusterOf t.core) (shadowHalf iv.upper p).1 (shadowHalf iv.upper p).2)

/-- A resident team with the state of a copy: where it stands, its tokens, its clock and what its report counts stay (R430, R432,
R441), and so does a group whose instruction of R433 has been performed since the copy (log 35). -/
def Team.restored (t v : Team) (stay : List Nat) (now : Nat) : Team :=
  { t with groups := v.groups.map fun ((k, g) : Nat × Group) => (k, if stay.contains k then t.groups.get g k else { g with readySince := now }),
           musters := v.musters, bars := v.bars, stage := v.stage, shapes := v.shapes, fpmode := v.fpmode, seed := v.seed,
           leaseLen := v.leaseLen, wdog := v.wdog, burn := v.burn, opreq := v.opreq, opreqLast := v.opreqLast,
           rollbacks := t.rollbacks + 1 }

/-- Roll a team back to the newer copy of its interval (R432): its buffer and its in-flight loads are dropped. -/
def State.rollback (s : State) (id : Nat) : State :=
  match s.teams.find? id, s.intervals.find? id with
  | some t, some iv =>
    match iv.copies with
    | [] => s
    | v :: _ =>
      let stay := if t.k.paired then [] else if (s.ownEntries id t iv).isEmpty then iv.performed else iv.after
      let t' := t.restored v.team stay s.time
      let s1 := (s.dropAccesses id t.core).setTeam id t'
      let s2 := ((s1.wakeLogs t.core).putBack t' v).corrected (dieOf t.core)
      let iv' : Interval := { copies := iv.copies, rollbacks := iv.rollbacks + 1, mismatched := iv.mismatched, upper := iv.upper,
                              own := iv.own.map fun o => (o.1, o.2 && stay.contains o.1), after := iv.after }
      { s2 with intervals := s2.intervals.put id iv' }
  | _, _ => s

/-- A poisoned or double-bit word is consumed (R142): a rollback where the interval allows it, UNCORRECTABLE otherwise. -/
def State.consume (s : State) (r : GrpRef) (tr : Trap) : State :=
  match s.teams.find? r.team, s.intervals.find? r.team with
  | some t, some iv =>
    if s.canRollback r.team t iv then
      let s1 := s.rollback r.team
      match t.twin with
      | some (u, _) => s1.rollback u
      | none => s1
    else s.raiseTrap r tr
  | _, _ => s.raiseTrap r tr

/-- A trap as an instruction or an event raises it: a consumption may roll the team back (R142). -/
def State.take (s : State) (r : GrpRef) (tr : Trap) : State := if tr.code = 0x14 then s.consume r tr else s.raiseTrap r tr

/-! ## Formed groups (R241) -/

/-- The members of a formed group. -/
def Team.members (t : Team) (g : Group) : List (Nat × Group) := g.formed.filterMap fun k => (t.groups.find? k).map fun m => (k, m)

/-- Dissolve a formed group: each member takes back its own threads at the formed group's PC, latches invalid. -/
def State.dissolve (s : State) (r : GrpRef) : State :=
  match s.group? r with
  | none => s
  | some (_, g) =>
    g.formed.foldl (fun (u : State) k => u.updGroup { team := r.team, grp := k } fun m =>
      let m1 := m.clearLatches
      { m1 with formed := [], mode := if m.mode = .formed then .ready else m.mode, readySince := if m.mode = .formed then s.time else m.readySince }) s

end Sys2Proof.Machine
end

