-- ==== Sys2Proof/Machine/Regroup.lean ====
section
/-! DEFINITION. The meeting of a REGROUP: its domain, its checks and its relocation (R109, R311 to R316). -/
namespace Sys2Proof.Machine
open Sys2Proof

/-- The domain of a team's REGROUP (R312): the team, or every resident running team of its launch on its core. -/
def State.domain (s : State) (id : Nat) : List (Nat × Team) :=
  match s.teams.find? id with
  | none => []
  | some t =>
    let all := s.teams.filter fun (k, u) =>
      k == id || (t.k.rcore && u.core == t.core && u.launch == t.launch && u.mode != .stopped)
    inOrder (fun a b => decide (a.2.slot ≤ b.2.slot)) all

/-- The groups of a domain, lowest team slot first. -/
def domainGroups (d : List (Nat × Team)) : List (GrpRef × Group) :=
  d.flatMap fun (id, t) => t.groups.map fun (k, g) => ({ team := id, grp := k }, g)

/-- A pending register write or a log entry of a group (R109). -/
def State.pendingWork (s : State) (r : GrpRef) (g : Group) : Bool :=
  !g.pendV.isEmpty || !g.pendS.isEmpty || !g.superseded.isEmpty ||
    ((s.teams.find? r.team).any fun t => (s.core t.core).log.any fun (_, e) => e.team == r.team && e.grps.contains r.grp)

/-- No unexited thread of the group can go on by itself (R312). -/
def Group.noProgress (g : Group) : Bool :=
  g.mode == .meeting || g.mode == .barrier || g.unexited.all fun t => t.mode == .held || t.mode.atRegroup

/-- Check 2 of R313: what every participating group must share. -/
def sameShape (k : Kernel) (a b : Group) : Bool :=
  decide (a.role = b.role) && a.s == b.s && a.q == b.q && a.lc == b.lc && a.levels == b.levels && a.ret == b.ret &&
    (List.range k.v).all fun r => a.tag r == b.tag r

/-- Key, address after and mask word of a thread at a REGROUP. -/
def ThreadMode.key : ThreadMode → Nat
  | .regroup k _ _ => k.toNat
  | _ => 0
def ThreadMode.after : ThreadMode → Nat
  | .regroup _ a _ => a
  | _ => 0
def ThreadMode.sp : ThreadMode → Option Mask
  | .regroup _ _ m => m
  | _ => none

/-- Registers `n` to `V - 1` become free values (R311, R243). -/
def Thread.scramble (t : Thread) (fresh n V : Nat) : Thread :=
  (List.range (V - n)).foldl (fun (t : Thread) j => t.setReg (n + j) (Config.freeWord (fresh + j))) t

def lowestLane (g : Group) (p : Thread → Bool) : Option Nat := (g.threads.filter p).foldl (fun o t =>
  match o with | none => some t.lane | some l => some (min l t.lane)) none

/-- The failure that the checks of R313 find: the group and trap of its record. -/
def regroupFault (k : Kernel) (meet : List (GrpRef × Group)) : Option (GrpRef × Trap) :=
  match meet with
  | [] => none
  | (_, ref) :: _ =>
    let held := fun (t : Thread) => t.mode.atRegroup
    let off := fun (t : Thread) => held t && t.pc != ref.pc
    let bad := fun (tr : Trap) (g : Group) (p : Thread → Bool) => { tr with lane := lowestLane g p }
    match meet.find? fun (_, g) => g.threads.any off with
    | some (r, g) => some (r, bad tRegroupMismatch g off)
    | none =>
      match meet.find? fun (_, g) => !sameShape k g ref with
      | some (r, g) => some (r, bad tRegroupMismatch g held)
      | none =>
        (meet.find? fun (_, g) => g.threads.any fun t => held t && decide (t.mode.key ≥ k.rkeys)).map fun (r, g) =>
          (r, bad tRegroupOverflow g fun t => held t && decide (t.mode.key ≥ k.rkeys))

/-- Cut a list into runs of `w`. -/
def runsOf {α : Type} (w : Nat) : Nat → List α → List (List α)
  | 0, _ => []
  | n + 1, l => if l.isEmpty then [] else l.take w :: runsOf w n (l.drop w)

/-- The held threads of a team in the order of R314: by key, old group and old lane. -/
def heldThreads (gs : Sp Group) : List Thread :=
  let all := gs.flatMap fun (k, g) => (g.threads.filter fun t => t.mode.atRegroup).map fun t => (k, t)
  (inOrder (fun (a b : Nat × Thread) => !lexLess [b.2.mode.key, b.1, b.2.lane] [a.2.mode.key, a.1, a.2.lane]) all).map (·.2)

/-- The lowest group slot not in use. -/
def freeSlot (gs : Sp Group) : Nat := ((List.range (gs.length + 1)).find? fun k => (gs.find? k).isNone).getD 0

/-- Outstanding-arrival flags of the participating groups together. -/
def mergeFlags (a b : Sp (Option Nat)) : Sp (Option Nat) :=
  b.foldl (fun m (k, v) => if (Sp.get none m k).isSome then m else Sp.set none m k v) a

/-- One new group: thread m of the run takes lane m, ACTIVE at the instruction after the REGROUP (R314, R315). -/
def runGroup (time : Nat) (base : Group) (horizon : Nat) (outB outG : Sp (Option Nat)) (fresh V : Nat) (run : List Thread) : Group :=
  let put := fun (p : Thread × Nat) =>
    let t := p.1
    let n := match t.mode.sp with | some m => m.vec.toNat | none => V
    { t.scramble (fresh + p.2 * V) n V with lane := p.2, pc := t.mode.after, mode := .active }
  { base with threads := run.zipIdx.map put, pc := (run.headD {}).mode.after, mode := .ready, wait := .none, horizon := horizon, outB := outB, outG := outG, g := [], x := [], y := [], run := 0, boosted := false,
              readySince := time, since := time, loopDue := false, spDue := none, stopMask := none, stoppedAt := none, formed := [], flaw := false }

/-- Place the runs of one team, each in the lowest free slot; the answer lists the new slots. -/
def placeRuns (mk : Nat → List Thread → Group) : Nat → Sp Group → List (List Thread) → Sp Group × List Nat
  | _, gs, [] => (gs, [])
  | i, gs, run :: r =>
    let k := freeSlot gs
    let (gs', ks) := placeRuns mk (i + 1) (gs.put k (mk i run)) r
    (gs', k :: ks)

/-- Sequential flow of a whole new group past the REGROUP at `from_` (R301), then settling and the safe point of S = 1 (R311). -/
def State.enter (s : State) (r : GrpRef) (from_ : Nat) (sp : Option Mask) : State :=
  match s.group? r with
  | none => s
  | some (_, g) =>
    if passesEnd g.levels from_ g.pc then s.setGroup r { g with loopDue := true, spDue := sp.map some } else s.settled r sp

/-- Groups of a team at launch: the slots above them are spare (R229). -/
def Kernel.launchGroups (k : Kernel) : Nat := (k.threads + k.width - 1) / k.width

/-- Relocate the participating threads of one team: its participating slots and its spare slots are free first (R314, R315). -/
def State.relocate (s : State) (horizon : Nat) (id : Nat) : State :=
  match s.teams.find? id with
  | none => s
  | some t =>
    let mine := t.groups.filter fun (_, g) => g.mode == .meeting
    match mine with
    | [] => s
    | (_, base) :: _ =>
      let held := heldThreads mine
      let sp := (held.headD {}).mode.sp
      let W := t.k.width
      let keys := (List.range t.k.rkeys).flatMap fun k => runsOf W held.length (held.filter fun u => u.mode.key == k)
      let outB := mine.foldl (fun m (_, g) => mergeFlags m g.outB) []
      let outG := mine.foldl (fun m (_, g) => mergeFlags m g.outG) []
      let left := t.groups.filter fun (k, g) => g.mode != .meeting && decide (k < t.k.launchGroups)
      let mk := fun (i : Nat) (run : List Thread) => runGroup s.time base horizon outB outG (s.fresh + i * W * t.k.v) t.k.v run
      let (gs, ks) := placeRuns mk 0 left keys
      let s1 := { s.setTeam id { t with groups := gs } with fresh := s.fresh + keys.length * W * t.k.v }
      ks.foldl (fun (u : State) k => u.enter { team := id, grp := k } base.pc sp) s1

/-- The progress of a REGROUP in a team's domain (R109, R312, R313): wait, end in a trap, or move every thread. -/
def State.meet (s : State) (id : Nat) : State :=
  let d := s.domain id
  let gs := domainGroups d
  let meeting := gs.filter fun (_, g) => g.mode == .meeting
  match meeting, d with
  | [], _ => s
  | _, [] => s
  | _ :: _, (_, t) :: _ =>
    -- a group that stopped while it waited is restored in MEETING before the checks begin (R312)
    if gs.any fun (_, g) => g.mode == .saving || (g.mode != .meeting && g.mode != .done && g.unexited.all fun u => u.mode.atRegroup) then s else
    let fail := fun (r : GrpRef) (tr : Trap) => s.raiseTrap r { tr with also := d.map (·.1), raised := false }
    if gs.all fun (_, g) => g.unexited.all fun u => u.mode.atRegroup then
      if meeting.any fun (r, g) => s.pendingWork r g then s else
      match regroupFault t.k meeting with
      | some (r, tr) => fail r tr
      | none =>
        -- a moved register that no code mends rolls a checkpointed team back and ends the domain of any other (R316)
        match meeting.find? fun (_, g) => g.flaw with
        | some (r, _) => s.consume r { tUncorrectable with also := d.map (·.1), raised := false }
        | none =>
        let horizon := meeting.foldl (fun m (_, g) => max m g.horizon) 0
        d.foldl (fun (u : State) (k, _) => u.relocate horizon k) s
    else if gs.all fun (_, g) => g.noProgress then
      match gs.find? fun (_, g) => g.unexited.any fun u => !u.mode.atRegroup with
      | some (r, g) => fail r { tRegroupMismatch with lane := lowestLane g fun u => u.unexited && !u.mode.atRegroup }
      | none => s
    else s

end Sys2Proof.Machine
end

