-- ==== Sys2Proof/Machine/Program.lean ====
section
/-! DEFINITION. The shared skeleton of every program instruction: its checks (R55), its flow, its waits (R239, R240). -/
namespace Sys2Proof.Machine
open Sys2Proof

/-- The issue of an instruction has taken place: the group runs on, is no longer boosted, and its weight is charged
(R239, R407, R413). -/
def Group.issued (g : Group) : Group :=
  { g.retire with run := g.run + 1, boosted := false, wait := .none, mode := .ready, drained := g.drained.filter (· != g.pc), agreed := if g.agreed = some g.pc then none else g.agreed }

/-- Sequential flow to `next` (R301, R303): at the end of the innermost body the loop-back is due, unless some unexited
thread stands outside the current set. -/
def Issue.seq (x : Issue) (s : State) : State :=
  match s.group? x.g with
  | none => s
  | some (_, g) =>
    let g1 := { (g.mapActive fun t => { t with pc := x.next }) with pc := x.next }
    if g.atLoopEnd x.next then
      if g1.converged then s.setGroup x.g { g1 with loopDue := true, spDue := x.h.sp.map some }
      else x.pre.take x.g tUniformViolation
    else (s.setGroup x.g g1).settled x.g x.h.sp

/-- The whole current set moves to a target (R296): levels that the target lies outside of end (R47). -/
def Issue.jump (x : Issue) (s : State) (target : Nat) : State :=
  match s.group? x.g with
  | none => s
  | some (_, g) =>
    let g1 := { (g.mapActive fun t => { t with pc := target }) with pc := target, levels := endLevels target g.levels }
    (s.setGroup x.g g1).settled x.g x.h.sp

/-- The instruction at the current PC has done what it does once. -/
def Group.once (g : Group) : Bool := g.drained.contains g.pc
def Group.markOnce (g : Group) : Group := { g with drained := g.pc :: g.drained }

/-- The wait of the instruction at which a group stands is over, whatever stands when it issues again (R332, R339, R374). -/
def Group.decided (g : Group) (now : Nat) : Group := { g.wake now with agreed := some g.ipc }

/-- A wait leaves the instruction to be issued again; a stall that is no interlock rotates the group (R238, R239). -/
def State.wait (s : State) (r : GrpRef) (i : Instr) (m : GroupMode) (w : Wait) : State :=
  let now := match s.teams.find? r.team with | some t => s.teamCycle t | none => 0
  s.updGroup r fun g =>
    let g1 := { g.await s.time m w with ipc := g.pc, mark := if g.wait = w then g.mark else now }
    if m == .interlocked || readsLatch i then g1 else { g1.rotate with mode := m, wait := w, since := g1.since }

/-- What a body answers: the state with its effect made (the flow included), or why it did not complete. -/
abbrev Body := Issue → Except Stop State

/-- The state in which a body runs: the latched issue is consumed, the core charged (R413), the group on its way. -/
def chargedState (i : Instr) (p : Plan) (s : State) (r : GrpRef) (t : Team) (g : Group) : State :=
  let n := if p.u then 1 else (g.active.filter fun y => p.h.guard.all fun q => guardHolds q y.p).length
  (({ s with cur := none } : State).charge t.core (weight i n)).setGroup r { (g.overtake p.u p.h p.dsts).issued with ipc := g.pc, readySince := s.time }

/-- The issue of an instruction by a group. -/
def issueOf (i : Instr) (p : Plan) (s : State) (r : GrpRef) (w : W32 × W32) (t : Team) (g : Group) : Issue :=
  { s := chargedState i p s r t g, g := r, team := t, grp := g, h := p.h, u := p.u, next := g.pc + 4 * i.words,
    pre := { s with cur := none }, instr := i, words := w }

/-- What a stop leaves: the trap taken, or the group waiting at its instruction, on the state before the issue but for an
effect that is made once. -/
def Issue.stop (x : Issue) : Stop → State
  | .trap tr => x.pre.take x.g tr
  | .wait m w => x.pre.wait x.g x.instr m w
  | .hold s => s

/-- The skeleton of a program instruction: the checks of R55 in order, then the body. -/
def program (i : Instr) (p : Plan) (body : Body) (s : State) : Out :=
  match s.cur with
  | none => .fault .noIssuer
  | some (r, w) =>
    match s.group? r with
    | none => .fault .noIssuer
    | some (t, g) =>
      let x := issueOf i p s r w t g
      match p.check x with
      | some e => .next (x.stop e)
      | none => match body x with
        | .ok s2 => .next s2
        | .error e => .next (x.stop e)

/-- Wait at this instruction on a state made from the one before the issue, which keeps an effect made once (R147). -/
def Issue.hold (x : Issue) (s : State) (w : Wait) (m : GroupMode := .stalled) : Stop := .hold (s.wait x.g x.instr m w)

/-- The issue with another address to go on at in sequence (R301, R302). -/
def Issue.goTo (x : Issue) (next : Nat) : Issue := { x with next := next }

/-- The issue without its S = 1. -/
def Issue.plain (x : Issue) : Issue := { x with h := { x.h with sp := none } }

/-- A U-set body whose effect is a change of its group, then sequential flow. -/
def Issue.onGroup (x : Issue) (f : Group → Group) : State := x.seq (x.s.updGroup x.g f)

end Sys2Proof.Machine
end

