-- ==== Sys2Proof/Machine/Flags.lean ====
section
/-! DEFINITION. Predicate and counter computations: compare conditions (R34, R282), saturation with its ISAT count (R253,
R275), and the fields an arithmetic instruction may set (R39, R54, R272). -/
namespace Sys2Proof.Machine
open Sys2Proof

/-- A condition of the compare class from "less" and "equal" (R34). -/
def condHolds (cond : BitVec 3) (lt eq : Bool) : Bool :=
  if cond = 0 then eq else if cond = 1 then !eq else if cond = 2 then lt else if cond = 3 then lt || eq
  else if cond = 4 then !lt && !eq else !lt

/-- Counter numbers by kind (R264). -/
def cNan (code : Nat) : Nat := counterNo 0 code
def cInf (code : Nat) : Nat := counterNo 1 code
def cOvf (code : Nat) : Nat := counterNo 2 code
def cUnf (code : Nat) : Nat := counterNo 3 code
def cIsat (code : Nat) : Nat := counterNo 4 code
def cWhole (code : Nat) : Nat := counterNo 5 code

/-- An exact signed value clamped to a range, and whether it was clamped. -/
def clampInt (lo hi v : Int) : Int × Bool := if v < lo then (lo, true) else if hi < v then (hi, true) else (v, false)

/-- A 32-bit result: wrapped, or clamped with its ISAT count (R275). -/
def intRes (sat : Bool) (v : Int) : Res :=
  if sat then
    let (c, hit) := clampInt (-2 ^ 31) (2 ^ 31 - 1) v
    { words := [BitVec.ofInt 32 c], counts := if hit then [cIsat 0x28] else [] }
  else res1 (BitVec.ofInt 32 v)

/-- A 64-bit result: wrapped, or clamped with its ISAT count (R278). -/
def int64Res (sat : Bool) (v : Int) : Res :=
  if sat then
    let (c, hit) := clampInt (-2 ^ 63) (2 ^ 63 - 1) v
    res64 (BitVec.ofInt 64 c) (if hit then [cIsat 0x29] else [])
  else res64 (BitVec.ofInt 64 v)

/-- Whether the fields of an arithmetic instruction hold what its entry does not assign (R39, R54, R272): formats other
than 0x00 and those listed, a rounding, a saturation or a variant where none is allowed. -/
def aluForm (o : Alu) (fmts : List Nat) (rnd sat : Bool) (var : BitVec 2 → Bool) : Bool :=
  !((0 :: fmts).contains o.fmt.toNat) || (!rnd && o.rnd != .rne) || (!sat && o.sat) || !var o.var

def noVar (v : BitVec 2) : Bool := v == 0

end Sys2Proof.Machine
end

