-- ==== Sys2Proof/Machine/Alu.lean ====
section
/-! DEFINITION. The skeletons of register-to-register instructions in both sets (R272, R273): one description of an
operation serves its V-set and its U-set form. -/
namespace Sys2Proof.Machine
open Sys2Proof

/-- One arithmetic operation: how many registers each operand and the result take (0: not read), the fields it may not
set, the class of each operand, ties, its result tag and its value for one lane. -/
structure Op where
  ka : Nat := 1
  kb : Nat := 1
  kc : Nat := 0
  kd : Nat := 1
  illegal : Issue → Bool := fun _ => false
  operand : Issue → Bool := fun _ => false
  ca : Tag → Bool := clsAny
  cb : Tag → Bool := clsAny
  cc : Tag → Bool := clsAny
  tie : Issue → Except Stop Unit := fun _ => .ok ()
  tag : Issue → Tag := fun _ => tagB32
  value : Issue → Lane → Res
  /-- The immediate word in place of b (R44). -/
  imm : Option W32 := none

def Op.srcs (q : Op) (o : Alu) : List (Src × Nat) :=
  (if q.ka = 0 then [] else [(o.a, q.ka)]) ++ (if q.kb = 0 || q.imm.isSome then [] else [(o.b, q.kb)])
    ++ (if q.kc = 0 then [] else [(o.c, q.kc)])

def Op.classes (q : Op) (o : Alu) : List ((Tag → Bool) × Src × Nat) :=
  (if q.ka = 0 then [] else [(q.ca, o.a, q.ka)]) ++ (if q.kb = 0 || q.imm.isSome then [] else [(q.cb, o.b, q.kb)])
    ++ (if q.kc = 0 then [] else [(q.cc, o.c, q.kc)])

def Op.plan (q : Op) (u : Bool) (o : Alu) : Plan :=
  { u := u, h := o.h, illegal := q.illegal, srcs := q.srcs o, dsts := if o.w then [] else [(o.d.toNat, q.kd)], operand := q.operand }

/-- The operands of one lane. -/
def Op.lane (q : Op) (x : Issue) (o : Alu) (t : Thread) : Lane :=
  { t := t, a := if q.ka = 0 then 0 else x.value t o.a q.ka,
    b := match q.imm with | some w => w.setWidth 64 | none => if q.kb = 0 then 0 else x.value t o.b q.kb,
    c := if q.kc = 0 then 0 else x.value t o.c q.kc }

/-- The results of the selected lanes (R273). -/
def Op.results (q : Op) (x : Issue) (o : Alu) : List (Nat × Res) := x.lanes.map fun t => (t.lane, q.value x (q.lane x o t))

/-- The effect of a V-set instruction that writes registers: its results written, tagged and pushed, and counted (R273). -/
def Issue.wroteV (x : Issue) (w : Bool) (d k : Nat) (tag : Tag) (rs : List (Nat × Res)) : State :=
  (x.s.updGroup x.g fun g => g.writeV w d k tag rs).count x.g.team (rs.flatMap (·.2.counts))

/-- The effect of a U-set instruction that writes registers: once for the group, no tags; an unselected one counts nothing
(R273). -/
def Issue.wroteU (x : Issue) (w : Bool) (d k : Nat) (r : Res) : State :=
  let s1 := x.s.updGroup x.g fun g => g.writeU w x.selected d k r.words
  if x.selected then s1.count x.g.team r.counts else s1

/-- The two words of a 64-bit result. -/
def pairOf (v : W64) : List W32 := [v.setWidth 32, (v >>> 32).setWidth 32]

/-- A U-set instruction's words in its destination (R273). -/
def wroteWords (o : Alu) (x : Issue) (k : Nat) (ws : List W32) : State := x.s.updGroup x.g fun g => g.writeU o.w x.selected o.d.toNat k ws

/-- The effect of a V-set compare: one predicate bit in each selected lane, no latch (R282). -/
def wroteP (o : Cmp) (x : Issue) (rs : List (Nat × Bool)) : State := x.s.updGroup x.g fun g => g.writeP o.p.toNat rs

/-- The effect of a U-set compare: a q predicate of the group (R52, R282). -/
def wroteQ (o : Cmp) (x : Issue) (b : Bool) : State :=
  x.s.updGroup x.g fun g => if x.selected then { g with q := setBit g.q o.p.toNat b } else g

/-- A V-set instruction of this kind (R273). -/
def vOp (i : Instr) (o : Alu) (q : Op) : State → Out :=
  program i (q.plan false o) fun x =>
    (x.classes (q.classes o)).bind fun _ => (q.tie x).map fun _ => x.seq (x.wroteV o.w o.d.toNat q.kd (q.tag x) (q.results x o))

/-- A U-set instruction of this kind (R273). -/
def uOp (i : Instr) (o : Alu) (q : Op) : State → Out :=
  program i (q.plan true o) fun x => .ok (x.seq (x.wroteU o.w o.d.toNat q.kd (q.value x (q.lane x o groupThread))))

end Sys2Proof.Machine
end

