-- ==== Sys2Proof/Machine/Format.lean ====
section
/-! DEFINITION. Number formats (R248 to R255) and the rounding helpers (R252, R253, R260 to R262): exact values are
rationals, infinities and NaN; every floating result passes through `roundTo`. -/
namespace Sys2Proof.Machine
open Sys2Proof

/-! ## Exact values -/

/-- An exact value: a rational num / den (den positive), a signed zero, an infinity, or NaN. -/
inductive Val where
  | num (n : Int) (d : Nat)
  | zero (neg : Bool)
  | inf (neg : Bool)
  | nan
deriving DecidableEq, Repr

/-- Normalise: a zero numerator is the zero of the sign given. -/
def Val.ofRat (n : Int) (d : Nat) (zneg : Bool) : Val := if n = 0 then .zero zneg else .num n d

def Val.neg? : Val → Bool
  | .num n _ => n < 0
  | .zero b => b
  | .inf b => b
  | .nan => false

/-- Exact scaling by a power of two. -/
def scale2 (n : Int) (d : Nat) (e : Int) : Int × Nat := if e ≥ 0 then (n * 2 ^ e.toNat, d) else (n, d * 2 ^ (-e).toNat)

/-! ## Floating formats (R250) -/

/-- The shape of a floating format. -/
structure Fmt where
  e : Nat
  m : Nat
  bias : Nat
  /-- 2: infinities and NaNs as IEEE; 1: E4M3, one NaN code; 0: neither. -/
  special : Nat
deriving DecidableEq, Repr

/-- The formats of R250 by code. -/
def fmtOf (code : Nat) : Fmt :=
  if code = 0x01 then ⟨11, 52, 1023, 2⟩ else if code = 0x02 then ⟨8, 23, 127, 2⟩ else if code = 0x03 then ⟨8, 10, 127, 2⟩
  else if code = 0x04 then ⟨8, 7, 127, 2⟩ else if code = 0x05 then ⟨5, 10, 15, 2⟩ else if code = 0x06 then ⟨5, 2, 15, 2⟩
  else if code = 0x07 then ⟨4, 3, 7, 1⟩ else if code = 0x08 then ⟨3, 4, 3, 0⟩ else if code = 0x09 then ⟨3, 2, 3, 0⟩
  else if code = 0x0A then ⟨2, 3, 1, 0⟩ else ⟨2, 1, 1, 0⟩

def Fmt.width (f : Fmt) : Nat := 1 + f.e + f.m
/-- Exponent of the least normal: 1 - bias. -/
def Fmt.emin (f : Fmt) : Int := 1 - f.bias

/-- Field values of a code. -/
def Fmt.fields (f : Fmt) (c : Nat) : Bool × Nat × Nat := (c.testBit (f.e + f.m), c / 2 ^ f.m % 2 ^ f.e, c % 2 ^ f.m)

/-- The value of a code (R250, R251). -/
def Fmt.value (f : Fmt) (c : Nat) : Val :=
  let (s, e, m) := f.fields c
  let sg : Int := if s then -1 else 1
  if f.special = 2 && e == 2 ^ f.e - 1 then (if m = 0 then .inf s else .nan)
  else if f.special = 1 && e == 2 ^ f.e - 1 && m == 2 ^ f.m - 1 then .nan
  else if e = 0 then
    if m = 0 then .zero s else let (n, d) := scale2 (sg * m) 1 (f.emin - f.m); .num n d
  else let (n, d) := scale2 (sg * (2 ^ f.m + m)) 1 ((e : Int) - f.bias - f.m); .num n d

/-- The largest finite code without its sign (R250). -/
def Fmt.maxCode (f : Fmt) : Nat :=
  if f.special = 2 then (2 ^ f.e - 1) * 2 ^ f.m - 1 else if f.special = 1 then 2 ^ (f.e + f.m) - 2 else 2 ^ (f.e + f.m) - 1

/-- Canonical NaN (R251). -/
def canonNan (code : Nat) : Nat :=
  if code = 0x01 then 0x7FF8000000000000 else if code = 0x02 then 0x7FC00000 else if code = 0x03 then 0x7FC00000 / 2 ^ 13
  else if code = 0x04 then 0x7FC0 else if code = 0x05 then 0x7E00 else if code = 0x06 then 0x7E else 0x7F

/-! ## Rounding modes (R260) -/

inductive Rm where
  | rne | rz | rd | ru | rs
deriving DecidableEq, Repr

/-- The mode that FPMODE names (R260). -/
def rmOfFpmode (m : BitVec 3) : Rm := if m = 0 then .rne else if m = 1 then .rz else if m = 2 then .rd else if m = 3 then .ru else .rs
def rmOf (r : Rnd) (fpmode : BitVec 3) : Rm :=
  match r with | .rne => .rne | .rz => .rz | .rs => .rs | .dyn => rmOfFpmode fpmode

/-- The random word of RS (R262). -/
def stochBits (seed : W64) (tid count e : Nat) : W32 :=
  let key : W64 := BitVec.ofNat 64 (tid % 2 ^ 11 * 2 ^ 53 + e % 2 ^ 8 * 2 ^ 45 + count % 2 ^ 45)
  let z := seed ^^^ key
  let z := (z ^^^ (z >>> 30)) * 0xBF58476D1CE4E5B9
  let z := (z ^^^ (z >>> 27)) * 0x94D049BB133111EB
  let z := z ^^^ (z >>> 31)
  (z >>> 32).setWidth 32

/-- Choose between the neighbours of |x|: `below` and `below + 1` in units, with the remainder rem / d of a unit; the
answer says whether the greater one is taken (R260, R262). -/
def takeUp (m : Rm) (neg : Bool) (below rem d : Nat) (word : W32) : Bool :=
  if rem = 0 then false else
  match m with
  | .rne => 2 * rem > d || (2 * rem = d && below % 2 = 1)
  | .rz => false
  | .rd => neg
  | .ru => !neg
  | .rs => word.toNat < 2 ^ 32 * rem / d

/-- floor(log2 (n / d)) of positive n, d. -/
def ilog2 (n d : Nat) : Int :=
  let k : Int := (n.log2 : Int) - (d.log2 : Int)
  let ge := if k ≥ 0 then d * 2 ^ k.toNat ≤ n else d ≤ n * 2 ^ (-k).toNat
  if ge then k else k - 1

/-- Magnitude code of |x| = n / d on the format's grid, the exponent unbounded above (R261), and whether it is inexact.
The code of 2^k x (1 + m / 2^M) is (k + bias) x 2^M + m, so a carry runs into the exponent by itself. -/
def Fmt.onGrid (f : Fmt) (m : Rm) (neg : Bool) (n d : Nat) (word : W32) : Nat × Bool :=
  let k := max (ilog2 n d) f.emin
  let (sn, sd) := scale2 n d (f.m - k)
  let q := sn.toNat / sd
  let r := sn.toNat % sd
  let q' := if takeUp m neg q r sd word then q + 1 else q
  (((k - f.emin).toNat) * 2 ^ f.m + q', r != 0)

/-- RoundToFormat (R261) for a floating format code: the bits and the counters. -/
def roundTo (code : Nat) (m : Rm) (sat : Bool) (word : W32) (x : Val) : Nat × List Nat :=
  let f := fmtOf code
  let sign := fun (neg : Bool) (c : Nat) => if neg then c + 2 ^ (f.e + f.m) else c
  let infCode := (2 ^ f.e - 1) * 2 ^ f.m
  match x with
  | .nan => (if f.special = 0 then 0 else canonNan code, [cNan code])
  | .inf b =>
    if f.special < 2 || sat then (sign b f.maxCode, [cOvf code]) else (sign b infCode, [cInf code])
  | .zero b => (sign b 0, [])
  | .num n d =>
    let neg := decide (n < 0)
    let (c, inexact) := f.onGrid m neg n.natAbs d word
    if c > f.maxCode then
      if sat || f.special = 0 then (sign neg f.maxCode, [cOvf code])
      else if m = .rz || (m = .rd && !neg) || (m = .ru && neg) then (sign neg f.maxCode, [cOvf code])
      else if f.special = 1 then (canonNan code, [cOvf code, cNan code])
      else (sign neg infCode, [cOvf code, cInf code])
    else
      let tiny := match f.value (2 ^ f.m) with | .num a b => decide (n.natAbs * b < a.toNat * d) | _ => false
      (sign neg c, if inexact && tiny then [cUnf code] else [])

/-! ## Scales (R252) and integers (R253) -/

/-- Value of an E8M0 code. -/
def e8m0Value (c : Nat) : Val := if c = 0xFF then .nan else let (n, d) := scale2 1 1 ((c : Int) - 127); .num n d

/-- A conversion into E8M0 (R252): the powers of two are the grid. -/
def roundE8m0 (m : Rm) (word : W32) (x : Val) : Nat × List Nat :=
  match x with
  | .inf false => (0xFE, [cOvf 0x0C])
  | .num n d =>
    if n < 0 then (0xFF, [cNan 0x0C]) else
    let k := ilog2 n.natAbs d
    let (sn, sd) := scale2 n d (-k)          -- in [1, 2)
    let rem := sn.toNat - sd
    let up := match m with
      | .rne => 2 * rem > sd || (2 * rem == sd && (k + 127) % 2 != 0)
      | m => takeUp m false 0 rem sd word
    let e := k + (if up then 1 else 0) + 127
    if e > 0xFE then (0xFE, [cOvf 0x0C])
    else if e < 0 then (0x00, [cUnf 0x0C])
    else (e.toNat, [])
  | _ => (0xFF, [cNan 0x0C])

/-- Range of an integer format (R253). -/
def intBits (code : Nat) : Nat :=
  if code = 0x17 then 10 else if code = 0x18 then 12 else if code = 0x19 then 16
  else if isSm code then code - 0x10 + 2
  else if code = 0x24 then 6 else if code = 0x25 then 8 else if code = 0x26 then 16 else code - 0x20 + 1
def intRange (code : Nat) : Int × Int :=
  if isSm code then (-(2 ^ (intBits code - 1) - 1), 2 ^ (intBits code - 1) - 1)
  else if isNat_ code then (0, 2 ^ intBits code - 1)
  else if code = 0x28 then (-2 ^ 31, 2 ^ 31 - 1) else (-2 ^ 63, 2 ^ 63 - 1)

/-- Code of an integer in its format. -/
def intCode (code : Nat) (v : Int) : Nat :=
  if isSm code then (if v < 0 then 2 ^ (intBits code - 1) else 0) + v.natAbs
  else if code = 0x28 then (BitVec.ofInt 32 v).toNat
  else if code = 0x29 then (BitVec.ofInt 64 v).toNat else v.natAbs

/-- An exact rational rounded to an integer by a mode. -/
def roundInt (m : Rm) (n : Int) (d : Nat) (word : W32) : Int :=
  let q := n.natAbs / d
  let q' := if takeUp m (n < 0) q (n.natAbs % d) d word then q + 1 else q
  if n < 0 then -(q' : Int) else q'

/-- A conversion into an integer format or S1 (R253). -/
def roundToInt (code : Nat) (m : Rm) (word : W32) (x : Val) : Nat × List Nat :=
  if code = 0x27 then
    match x with
    | .nan => (1, [cNan 0x27])
    | .num n _ => (if n < 0 then 0 else 1, [])
    | .zero _ => (1, [])
    | .inf b => (if b then 0 else 1, [])
  else
    let (lo, hi) := intRange code
    match x with
    | .nan => (0, [cIsat code])
    | .zero _ => (0, [])
    | .inf b => (intCode code (if b then lo else hi), [cIsat code])
    | .num n d =>
      let (v, hit) := clampInt lo hi (roundInt m n d word)
      (intCode code v, if hit then [cIsat code] else [])

/-! ## Elements of a register (R255) -/

/-- Container width of a code (R248). -/
def container (c : Nat) : Nat :=
  if c = 0x04 ∨ c = 0x05 ∨ (0x17 ≤ c ∧ c ≤ 0x19) ∨ c = 0x26 then 16
  else if (0x06 ≤ c ∧ c ≤ 0x0A) ∨ c = 0x0C ∨ (0x13 ≤ c ∧ c ≤ 0x16) ∨ c = 0x24 ∨ c = 0x25 then 8
  else if c = 0x0B ∨ isCodebook c ∨ (0x10 ≤ c ∧ c ≤ 0x12) ∨ (0x20 ≤ c ∧ c ≤ 0x23) ∨ c = 0x27 then 4
  else if c = 0x01 ∨ c = 0x29 then 64 else 32
/-- Width of a code's element. -/
def elemWidth (c : Nat) : Nat :=
  if isFloatCode c then (fmtOf c).width else if c = 0x0C then 8
  else if c = 0x0D then 4 else if c = 0x0E then 3 else if c = 0x0F then 2
  else if isSm c || isNat_ c then intBits c else if c = 0x27 then 1 else if c = 0x29 then 64 else 32

/-- Elements that a tag's register holds (R255). -/
def elemCount (t : Tag) : Nat := if isCodebook (tagCode t) then 8 else 2 ^ (tagAux t % 4)

/-- Bits of element `i` of a register under a code. -/
def elemBits (c : Nat) (w : Nat) (i : Nat) : Nat :=
  if c = 0x03 then w / 2 ^ 13 % 2 ^ 19 else w / 2 ^ (container c * i) % 2 ^ elemWidth c

/-- A register of elements; bits outside them are zero. -/
def packElems (c : Nat) (es : List Nat) : Nat :=
  if c = 0x03 then es.headD 0 * 2 ^ 13
  else (es.foldl (fun (m, i) e => (m + e * 2 ^ (container c * i), i + 1)) (0, 0)).1

/-- The value of an element's bits under a code (R250 to R253): signed integers and magnitudes as they stand. -/
def elemValue (c bits : Nat) : Val :=
  if isFloatCode c then (fmtOf c).value bits
  else if c = 0x0C then e8m0Value bits
  else if isSm c then
    let n := intBits c
    let mag : Int := bits % 2 ^ (n - 1)
    Val.ofRat (if bits.testBit (n - 1) then -mag else mag) 1 false
  else if isNat_ c then Val.ofRat bits 1 false
  else if c = 0x27 then .num (if bits = 1 then 1 else -1) 1
  else if c = 0x28 then Val.ofRat (BitVec.ofNat 32 bits).toInt 1 false
  else if c = 0x29 then Val.ofRat (BitVec.ofNat 64 bits).toInt 1 false
  else (fmtOf 0x02).value bits

/-- A value written in a code, saturation as asked (R286): bits and counters. -/
def convert (c : Nat) (m : Rm) (sat : Bool) (word : W32) (x : Val) : Nat × List Nat :=
  if isFloatCode c then roundTo c m sat word x
  else if c = 0x0C then roundE8m0 m word x
  else roundToInt c m word x

def f32Value (w : W32) : Val := (fmtOf 0x02).value w.toNat
def f64Value (w : W64) : Val := (fmtOf 0x01).value w.toNat

/-! ## Exact arithmetic (R283) -/

def Val.neg : Val → Val
  | .num n d => .num (-n) d
  | .zero b => .zero (!b)
  | .inf b => .inf (!b)
  | .nan => .nan

/-- An exact sum; an exact zero of unlike parts is +0, or -0 in RD (R283). -/
def Val.add (m : Rm) : Val → Val → Val
  | .nan, _ => .nan
  | _, .nan => .nan
  | .inf a, .inf b => if a = b then .inf a else .nan
  | .inf a, _ => .inf a
  | _, .inf b => .inf b
  | .zero a, .zero b => if a = b then .zero a else .zero (m == .rd)
  | .zero _, y => y
  | x, .zero _ => x
  | .num n d, .num p q => Val.ofRat (n * q + p * d) (d * q) (m == .rd)

def Val.mul : Val → Val → Val
  | .nan, _ => .nan
  | _, .nan => .nan
  | .inf _, .zero _ => .nan
  | .zero _, .inf _ => .nan
  | .inf a, y => .inf (a != y.neg?)
  | x, .inf b => .inf (x.neg? != b)
  | .zero a, y => .zero (a != y.neg?)
  | x, .zero b => .zero (x.neg? != b)
  | .num n d, .num p q => .num (n * p) (d * q)

/-- An exact quotient: x / 0 is an infinity, 0 / 0 and inf / inf are NaN (R286). -/
def Val.div : Val → Val → Val
  | .nan, _ => .nan
  | _, .nan => .nan
  | .inf _, .inf _ => .nan
  | .inf a, y => .inf (a != y.neg?)
  | x, .inf b => .zero (x.neg? != b)
  | .zero _, .zero _ => .nan
  | .zero a, y => .zero (a != y.neg?)
  | x, .zero b => .inf (x.neg? != b)
  | .num n d, .num p q => .num (if p < 0 then -(n * q) else n * q) (d * p.natAbs)

/-- IEEE order: none when either is NaN; -0 equals +0 (R282). -/
def Val.cmp : Val → Val → Option Ordering
  | .nan, _ => none
  | _, .nan => none
  | .inf a, .inf b => some (if a = b then .eq else if a then .lt else .gt)
  | .inf a, _ => some (if a then .lt else .gt)
  | _, .inf b => some (if b then .gt else .lt)
  | .zero _, .zero _ => some .eq
  | .zero _, .num n _ => some (if n < 0 then .gt else .lt)
  | .num n _, .zero _ => some (if n < 0 then .lt else .gt)
  | .num n d, .num p q => some (compare (n * q) (p * d))

end Sys2Proof.Machine
end

