-- ==== Sys2Proof/Machine/Real.lean ====
section
/-! DEFINITION. The exact functions of the special-function pipe and of the ring tables (R285, R347): enclosures of the
true value in integer arithmetic, wide enough apart from every rounding boundary that both ends round alike. -/
namespace Sys2Proof.Machine
open Sys2Proof

/-- Bounds of a non-negative real, in units of 2^-p. -/
abbrev Enc := Nat × Nat

/-- Sum of 2^p / (k 2^k), k from `k` on: ln 2 from below. -/
def ln2Sum (p : Nat) : Nat → Nat → Nat
  | 0, _ => 0
  | n + 1, k => 2 ^ p / (k * 2 ^ k) + ln2Sum p n (k + 1)
def ln2 (p : Nat) : Enc := let s := ln2Sum p (p + 1) 1; (s, s + p + 3)

/-- Exponential series from below: terms t, t x / k, ... -/
def expLo (p x : Nat) : Nat → Nat → Nat → Nat
  | 0, _, _ => 0
  | n + 1, k, t => t + expLo p x n (k + 1) (t * x / 2 ^ p / k)
/-- The same from above; what remains after the last term is below twice that term for x < 1. -/
def expHi (p x : Nat) : Nat → Nat → Nat → Nat
  | 0, _, t => 2 * t + 2
  | n + 1, k, t => t + expHi p x n (k + 1) (t * x / 2 ^ p / k + 1)

/-- e^x for x given exactly in units of 2^-p: x = k ln 2 + r. -/
def expEnc (p x : Nat) : Enc :=
  let (l, h) := ln2 p
  let k := x / h
  let rl := x - k * h
  let rh := x - k * l
  (expLo p rl 220 1 (2 ^ p) * 2 ^ k, expHi p (rh + 1) 220 1 (2 ^ p) * 2 ^ k)

/-- 2^f for a fraction f in units of 2^-p. -/
def exp2Enc (p f : Nat) : Enc :=
  let (l, h) := ln2 p
  (expLo p (f * l / 2 ^ p) 220 1 (2 ^ p), expHi p (f * h / 2 ^ p + 1) 220 1 (2 ^ p))

/-- atanh series of z, odd terms: from below, each term z^(2k+1) / (2k+1). -/
def atanhLo (p z2 : Nat) : Nat → Nat → Nat → Nat
  | 0, _, _ => 0
  | n + 1, k, t => t / k + atanhLo p z2 n (k + 2) (t * z2 / 2 ^ p)
def atanhHi (p z2 : Nat) : Nat → Nat → Nat → Nat
  | 0, _, t => 2 * t + 2
  | n + 1, k, t => t / k + 1 + atanhHi p z2 n (k + 2) (t * z2 / 2 ^ p + 1)

/-- log2 of m = n / d in [1, 2): 2 atanh((m - 1) / (m + 1)) / ln 2. -/
def log2Enc (p n d : Nat) : Enc :=
  let zl := (n - d) * 2 ^ p / (n + d)
  let zh := zl + 1
  let a := 2 * atanhLo p (zl * zl / 2 ^ p) 200 1 zl
  let b := 2 * atanhHi p (zh * zh / 2 ^ p + 1) 200 1 zh
  let (l, h) := ln2 p
  (a * 2 ^ p / h, b * 2 ^ p / l + 1)

/-- atan(1/q) by its alternating series, within the number of terms. -/
def atanInv (p q : Nat) : Nat → Nat → Nat → Int
  | 0, _, _ => 0
  | n + 1, k, t => (t / k : Nat) - atanInv p q n (k + 2) (t / (q * q))
/-- pi in units of 2^-p. -/
def piEnc (p : Nat) : Enc :=
  let n := p / 4 + 8
  let m := 16 * atanInv p 5 n 1 (2 ^ p / 5) - 4 * atanInv p 239 n 1 (2 ^ p / 239)
  (m.toNat - 20 * (n + 2), m.toNat + 20 * (n + 2))

/-- Alternating series with terms t, t x2 / (k (k+1)), ... -/
def altSeries (p x2 : Nat) : Nat → Nat → Nat → Int
  | 0, _, _ => 0
  | n + 1, k, t => (t : Int) - altSeries p x2 n (k + 2) (t * x2 / 2 ^ p / (k * (k + 1)))

/-- sin and cos on [0, pi/2], from bounds of the argument; each is monotone there. -/
def sinEnc (p lo hi : Nat) : Enc :=
  let f := fun (x : Nat) => altSeries p (x * x / 2 ^ p) 140 2 x
  ((f lo - 300).toNat, (f hi + 300).toNat)
def cosEnc (p lo hi : Nat) : Enc :=
  let f := fun (x : Nat) => altSeries p (x * x / 2 ^ p) 140 1 (2 ^ p)
  ((f hi - 300).toNat, (f lo + 300).toNat)

/-- Quadrant and remainder of x (units of 2^-p) over pi/2. -/
def reduce (p x : Nat) : Nat × Enc :=
  let (l, h) := piEnc p
  let j := 2 * x / h
  (j, (x - j * h / 2 - 1, x - j * l / 2 + 1))

/-! ## Functions of the pipe (R285) -/

/-- The functions, with the numbers that name them in `Config.tieBreak`. -/
inductive Sfu where
  | rcp | rsq | exp2 | log2 | sin | cos | tanh | sqrt | logistic
deriving DecidableEq, Repr
def Sfu.no : Sfu → Nat
  | .rcp => 0 | .rsq => 1 | .exp2 => 2 | .log2 => 3 | .sin => 4 | .cos => 5 | .tanh => 6 | .sqrt => 7 | .logistic => 8

/-- A value known exactly, or enclosed. -/
inductive Known where
  | exact (v : Val)
  | between (lo hi : Val)
deriving DecidableEq, Repr

def encVal (neg : Bool) (p : Nat) (e : Enc) (shift : Int) : Known :=
  let mk := fun (n : Nat) => let (a, b) := scale2 (if neg then -(n : Int) else n) (2 ^ p) shift; Val.ofRat a b neg
  .between (mk e.1) (mk e.2)

/-- floor of a root to `p` fraction bits, exact when it squares back. -/
def rootVal (n d p : Nat) : Known :=
  -- sqrt (n / d) = sqrt (n d) / d
  let r := Nat.sqrt (n * d * 4 ^ p)
  if r * r = n * d * 4 ^ p then .exact (.num r (d * 2 ^ p)) else .between (.num r (d * 2 ^ p)) (.num (r + 1) (d * 2 ^ p))

def Known.inv : Known → Known
  | .exact v => .exact (Val.div (.num 1 1) v)
  | .between a b => .between (Val.div (.num 1 1) b) (Val.div (.num 1 1) a)

/-- x / 2^-p as a natural number; the F32 grid divides it for the precisions used. -/
def fix (p n d : Nat) : Nat := n * 2 ^ p / d

/-- Bits of fraction that a function of n / d is computed with. -/
def precision (n d : Nat) : Nat := 320 + 4 * (-(ilog2 n d)).toNat

/-- f(x) for a finite nonzero x = n / d with its sign (R285). -/
def Sfu.finite (f : Sfu) (neg : Bool) (n d : Nat) : Known :=
  let p := precision n d
  match f with
  | .rcp => .exact (.num (if neg then -(d : Int) else d) n)
  | .sqrt => if neg then .exact .nan else rootVal n d 400
  | .rsq => if neg then .exact .nan else (rootVal n d 400).inv
  | .exp2 =>
    -- beyond these bounds every rounding of the result is the one at the bound
    if n ≥ 400 * d then .exact (if neg then .num 1 (2 ^ 400) else .num (2 ^ 400) 1) else
    let q := n / d
    let r := fix p (n % d) d
    if n % d = 0 then .exact (if neg then .num 1 (2 ^ q) else .num (2 ^ q) 1)
    else if neg then encVal false p (exp2Enc p (2 ^ p - r)) (-(q : Int) - 1) else encVal false p (exp2Enc p r) q
  | .log2 =>
    if neg then .exact .nan else
    let k := ilog2 n d
    let (mn, md) := scale2 n d (-k)
    if mn.toNat = md then .exact (Val.ofRat k 1 false) else
    let (a, b) := log2Enc 512 mn.toNat md
    let v := fun (x : Nat) => Val.ofRat (k * 2 ^ 512 + x) (2 ^ 512) false
    .between (v a) (v b)
  | .sin =>
    let w := p + 160
    let (j, (a, b)) := reduce w (fix w n d)
    if j = 0 then encVal neg w (sinEnc w (fix w n d) (fix w n d)) 0
    else encVal (neg != (j % 4 ≥ 2)) w (if j % 2 = 0 then sinEnc w a b else cosEnc w a b) 0
  | .cos =>
    let w := p + 160
    let (j, (a, b)) := reduce w (fix w n d)
    encVal (j % 4 == 1 || j % 4 == 2) w (if j % 2 = 0 then cosEnc w a b else sinEnc w a b) 0
  | .tanh =>
    if n ≥ 100 * d then .exact (.num (if neg then -(2 ^ 200 - 1) else 2 ^ 200 - 1) (2 ^ 200)) else
    let (l, h) := expEnc p (fix p (2 * n) d)
    let q := fun (e : Nat) (up : Bool) => (e - 2 ^ p) * 2 ^ p / (e + 2 ^ p) + (if up then 1 else 0)
    encVal neg p (q l false, q h true) 0
  | .logistic =>
    if n ≥ 400 * d then .exact (if neg then .num 1 (2 ^ 400) else .num (2 ^ 200 - 1) (2 ^ 200)) else
    let w := p + 640
    let (l, h) := expEnc w (fix w n d)
    if neg then encVal false w (2 ^ (2 * w) / (h + 2 ^ w), 2 ^ (2 * w) / (l + 2 ^ w) + 1) 0
    else encVal false w (l * 2 ^ w / (l + 2 ^ w), h * 2 ^ w / (h + 2 ^ w) + 1) 0

/-- f(a) with the special inputs of R285. -/
def Sfu.apply (f : Sfu) (a : Val) : Known :=
  match f, a with
  | _, .nan => .exact .nan
  | .rcp, .zero b => .exact (.inf b)
  | .rcp, .inf b => .exact (.zero b)
  | .rsq, .zero b => .exact (.inf b)
  | .rsq, .inf b => .exact (if b then .nan else .zero false)
  | .exp2, .zero _ => .exact (.num 1 1)
  | .exp2, .inf b => .exact (if b then .zero false else .inf false)
  | .log2, .zero _ => .exact (.inf true)
  | .log2, .inf b => .exact (if b then .nan else .inf false)
  | .sin, .zero b => .exact (.zero b)
  | .cos, .zero _ => .exact (.num 1 1)
  | .sin, .inf _ => .exact .nan
  | .cos, .inf _ => .exact .nan
  | .tanh, .zero b => .exact (.zero b)
  | .tanh, .inf b => .exact (.num (if b then -1 else 1) 1)
  | .sqrt, .zero b => .exact (.zero b)
  | .sqrt, .inf b => .exact (if b then .nan else .inf false)
  | .logistic, .zero _ => .exact (.num 1 2)
  | .logistic, .inf b => .exact (if b then .zero false else .num 1 1)
  | f, .num n d => f.finite (n < 0) n.natAbs d

/-- Round a known value; ends that round apart leave the choice to a free value (log 10). -/
def roundKnown (no : Nat) (arg : W32) (code : Nat) (m : Rm) (sat : Bool) (word : W32) : Known → Nat × List Nat
  | .exact v => roundTo code m sat word v
  | .between a b =>
    let x := roundTo code m sat word a
    let y := roundTo code m sat word b
    if x = y then x else if Config.tieBreak no arg then y else x

end Sys2Proof.Machine
end

