-- ==== Sys2Proof/Machine/Float.lean ====
section
/-! DEFINITION. Floating-point instructions, the special-function pipe, conversions with scales, codebook lookup and packed
arithmetic (R282 to R292). -/
namespace Sys2Proof.Machine
open Sys2Proof

/-! ## Descriptions -/

/-- The operation format of a fmt field: F32 by default (R272). -/
def fcode (fmt : BitVec 6) : Nat := if fmt = 0 then 0x02 else fmt.toNat
def fwidth (fmt : BitVec 6) : Nat := if fmt = 0x01 then 2 else 1

/-- The rounding mode in force (R260). -/
def Issue.rm (x : Issue) (r : Rnd) : Rm := rmOf r x.team.fpmode
/-- The random word of element `e` of a thread (R262). -/
def Issue.word (x : Issue) (t : Thread) (e : Nat) : W32 := stochBits x.team.seed t.tid t.retired e

/-- A value's code as one word or a pair. -/
def codeRes (k : Nat) (c : Nat × List Nat) : Res :=
  if k = 2 then res64 (BitVec.ofNat 64 c.1) c.2 else { words := [BitVec.ofNat 32 c.1], counts := c.2 }

/-- The value of an operand at F32 or F64. -/
def fvalue (code : Nat) (w : W64) : Val := (fmtOf code).value w.toNat

/-- FADD, FSUB, FMUL and FMA (R283): one exact operation, one rounding. -/
def fltOp (o : Alu) (three : Bool) (f : Rm → Val → Val → Val → Val) : Op :=
  let c := fcode o.fmt
  let k := fwidth o.fmt
  { ka := k, kb := k, kc := if three then k else 0, kd := k, illegal := fun _ => aluForm o [0x01, 0x02] true true noVar,
    ca := clsFlt c, cb := clsFlt c, cc := clsFlt c, tag := fun _ => mkTag c 0,
    value := fun x l =>
      let m := x.rm o.rnd
      codeRes k (roundTo c m o.sat (x.word l.t 0) (f m (fvalue c l.a) (fvalue c l.b) (fvalue c l.c))) }

/-- A result that is one of the inputs, or the canonical NaN: infinities and NaNs written count (R264, R284). -/
def asIs (code : Nat) (w : W64) : Nat × List Nat :=
  match fvalue code w with
  | .nan => (canonNan code, [cNan code])
  | .inf _ => (w.toNat, [cInf code])
  | _ => (w.toNat, [])

/-- Total order of non-NaN values with -0 below +0 (R284). -/
def fless (a b : Val) : Bool :=
  match Val.cmp a b with
  | some .lt => true
  | some .eq => a.neg? && !b.neg?
  | _ => false

/-- FMIN and FMAX of two codes (R284). -/
def fminmax (code : Nat) (mx : Bool) (a b : W64) : Nat × List Nat :=
  match fvalue code a, fvalue code b with
  | .nan, _ => asIs code b
  | _, .nan => asIs code a
  | u, v => asIs code (if (fless u v) != mx then a else b)

def minmaxOp (o : Alu) (mx : Bool) : Op :=
  let c := fcode o.fmt
  let k := fwidth o.fmt
  { ka := k, kb := k, kd := k, illegal := fun _ => aluForm o [0x01, 0x02] false false noVar, ca := clsFlt c, cb := clsFlt c,
    tag := fun _ => mkTag c 0, value := fun _ l => codeRes k (fminmax c mx l.a l.b) }

/-- FABS and FNEG on the sign bit (R284). -/
def signOp (o : Alu) (f : W64 → W64 → W64) : Op :=
  let c := fcode o.fmt
  let k := fwidth o.fmt
  { ka := k, kb := 0, kd := k, illegal := fun _ => aluForm o [0x01, 0x02] false false noVar, ca := clsFlt c,
    tag := fun _ => mkTag c 0,
    value := fun _ l => codeRes k (asIs c (f l.a (if k = 2 then 0x8000000000000000 else 0x80000000))) }

/-- FINT (R284). -/
def fintOp (o : Alu) : Op :=
  let c := fcode o.fmt
  let k := fwidth o.fmt
  { ka := k, kb := 0, kd := k,
    illegal := fun x => aluForm o [0x01, 0x02] true false noVar || x.rm o.rnd == .rs, ca := clsFlt c, tag := fun _ => mkTag c 0,
    value := fun x l => codeRes k (match fvalue c l.a with
      | .num n d => roundTo c .rne false 0 (Val.ofRat (roundInt (x.rm o.rnd) n d 0) 1 (n < 0))
      | _ => asIs c l.a) }

/-- The class bit of a code (R284). -/
def classBit (code bits : Nat) : Nat :=
  let f := fmtOf code
  let (s, e, _) := f.fields bits
  match f.value bits with
  | .nan => 8
  | .inf b => if b then 0 else 7
  | .zero b => if b then 3 else 4
  | .num _ _ => if e = 0 then (if s then 2 else 5) else (if s then 1 else 6)

/-- FCLASS (R284). -/
def fclassOp (o : Alu) : Op :=
  let c := fcode o.fmt
  { ka := fwidth o.fmt, kb := 0,
    illegal := fun _ => aluForm o [1, 2, 3, 4, 5, 6, 7, 8, 9, 10, 11] false false noVar,
    ca := fun t => t == mkTag c 0 || tagCode t == 0,
    value := fun _ l => res1 (BitVec.ofNat 32 (2 ^ classBit c (if c = 1 then l.a.toNat else elemBits c l.a32.toNat 0))) }

/-- A function of the special-function pipe (R285). -/
def sfuOp (o : Alu) (f : Sfu) : Op :=
  { kb := 0, illegal := fun _ => aluForm o [0x02] true true noVar, ca := clsFlt 0x02, tag := fun _ => mkTag 0x02 0,
    value := fun x l =>
      codeRes 1 (roundKnown f.no l.a32 0x02 (x.rm o.rnd) o.sat (x.word l.t 0) (f.apply (f32Value l.a32))) }

/-- FCMP (R282): the condition, and `.UN` for NaN. -/
def fcmpBit (o : Cmp) (a b : W64) : Bool :=
  match Val.cmp (fvalue (fcode o.fmt) a) (fvalue (fcode o.fmt) b) with
  | none => o.u
  | some r => condHolds o.cond (r == .lt) (r == .eq)

/-- What FCMP asks for (R55). -/
def fcmpPlan (o : Cmp) : Plan :=
  let k := fwidth o.fmt
  { u := false, h := o.h, illegal := fun _ => !([0, 1, 2].contains o.fmt.toNat), srcs := [(o.a, k), (o.b, k)] }

/-- The operand classes of FCMP, and its outcome in each selected lane. -/
def fcmpClasses (o : Cmp) : List ((Tag → Bool) × Src × Nat) :=
  [(clsFlt (fcode o.fmt), o.a, fwidth o.fmt), (clsFlt (fcode o.fmt), o.b, fwidth o.fmt)]
def fcmpResults (o : Cmp) (x : Issue) : List (Nat × Bool) :=
  x.lanes.map fun t => (t.lane, fcmpBit o (x.value t o.a (fwidth o.fmt)) (x.value t o.b (fwidth o.fmt)))

/-- FCMP (R282). -/
def execFcmp (o : Cmp) : State → Out :=
  program (.fcmp o) (fcmpPlan o) fun x => (x.classes (fcmpClasses o)).map fun _ => x.seq (wroteP o x (fcmpResults o x))

/-! ## Conversions (R286 to R288) -/

/-- Formats that CVT takes and gives (R286). -/
def cvtFormat (c : Nat) : Bool :=
  isFloatCode c || c == 0x0C || isSm c || isNat_ c || c == 0x27 || c == 0x28 || c == 0x29
/-- Formats that QNT gives and DQN takes (R287). -/
def qntFormat (c : Nat) : Bool := (4 ≤ c && c ≤ 0x0C) || isSm c || isNat_ c || c == 0x27
/-- A conversion source tag of R286: ×1, B32 read as F32. -/
def cvtSource (t : Tag) : Bool := tagCode t == 0 || (cvtFormat (tagCode t) && tagAux t == 0)
def cvtCode : Option Tag → Nat
  | none => 0x02
  | some t => if tagCode t = 0 then 0x02 else tagCode t

/-- The scale of a word (R286): F32, or E8M0 in bits 7:0. -/
def sigma (se8 : Bool) (w : W32) : Val := if se8 then e8m0Value (w.toNat % 256) else f32Value w
/-- The class of a scale operand. -/
def clsScale (se8 : Bool) (t : Tag) : Bool := tagCode t == 0 || t == mkTag (if se8 then 0x0C else 0x02) 0

/-- The value of one source register or pair under a conversion source's tag. -/
def sourceValue (c : Nat) (w : W64) : Val :=
  if c = 0x01 ∨ c = 0x29 then elemValue c w.toNat else elemValue c (elemBits c (w.toNat % 2 ^ 32) 0)

/-- Registers of CVT's result and of its source (R286). -/
def cvtDst (o : Alu) : Nat := if o.fmt.toNat = 0x01 ∨ o.fmt.toNat = 0x29 then 2 else 1
def cvtSrc (x : Issue) (o : Alu) : Nat := let c := cvtCode (x.tagOf o.a); if c = 0x01 ∨ c = 0x29 then 2 else 1

/-- What CVT asks for (R55); its source's tag says whether that is a pair. -/
def cvtPlan (o : Alu) : Plan :=
  let srcs := (o.a, 1) :: if o.var.getLsbD 1 then [(o.c, 1)] else []
  { u := false, h := o.h, illegal := fun _ => !cvtFormat o.fmt.toNat, srcs := srcs, dsts := if o.w then [] else [(o.d.toNat, cvtDst o)],
    judged := [{ src := (o.a, 1), operand := fun x => srcIllegal false x.team.k (o.a, cvtSrc x o) }] }

/-- A source of as many registers as its tag asks for: none of them pending (R95). -/
def widthCheck (x : Issue) (a : Src) (k : Nat) : Except Stop Unit :=
  match x.regPending [(a, k)] with
  | some uid => .error (.wait .stalled (.reg uid))
  | none => .ok ()

/-- The classes of CVT's source and of its scale. -/
def cvtClasses (x : Issue) (o : Alu) : List ((Tag → Bool) × Src × Nat) :=
  (cvtSource, o.a, cvtSrc x o) :: if o.var.getLsbD 1 then [(clsScale (o.var.getLsbD 0), o.c, 1)] else []

def cvtResults (x : Issue) (o : Alu) : List (Nat × Res) :=
  let dst := o.fmt.toNat
  x.lanes.map fun t =>
    let v := sourceValue (cvtCode (x.tagOf o.a)) (x.value t o.a (cvtSrc x o))
    let v := if o.var.getLsbD 1 then Val.div v (sigma (o.var.getLsbD 0) (x.read t o.c 0)) else v
    let (bits, cnt) := convert dst (x.rm o.rnd) o.sat (x.word t 0) v
    (t.lane, codeRes (cvtDst o) (if dst = 0x03 then bits * 2 ^ 13 else bits, cnt))

/-- CVT (R286). -/
def execCvt (o : Alu) : State → Out :=
  program (.cvt o) (cvtPlan o) fun x =>
    (widthCheck x o.a (cvtSrc x o)).bind fun _ =>
      (x.classes (cvtClasses x o)).map fun _ =>
        x.seq (x.wroteV o.w o.d.toNat (cvtDst o) (mkTag o.fmt.toNat 0) (cvtResults x o))

/-- What QNT asks for (R55). -/
def qntPlan (o : Alu) : Plan :=
  let dst := o.fmt.toNat
  let P := 2 ^ maxPack dst
  let isReg := match o.a with | .reg _ => true | _ => false
  { u := false, h := o.h, illegal := fun _ => !qntFormat dst || o.var.getLsbD 1, srcs := [(o.a, P), (o.b, 1)],
      dsts := if o.w then [] else [(o.d.toNat, 1)], operand := fun _ => !isReg }

/-- The registers that QNT takes its elements from: the first, and how many. -/
def qntBase (o : Alu) : Nat := match o.a with | .reg n => n.toNat | _ => 0
def qntCount (o : Alu) : Nat := 2 ^ maxPack o.fmt.toNat

/-- Each source register of QNT carries a conversion source's tag, F64 and I64 apart (R287). -/
def qntTags (x : Issue) (o : Alu) : Except Stop Unit :=
  let ok := fun (t : Tag) => cvtSource t && tagCode t != 0x01 && tagCode t != 0x29
  match (List.range (qntCount o)).find? fun j => !ok (x.grp.tag (qntBase o + j)) with
  | some j => .error (.trap (tFormatMismatch (x.grp.tag (qntBase o + j)).toNat))
  | none => .ok ()

def qntResults (x : Issue) (o : Alu) : List (Nat × Res) :=
  let dst := o.fmt.toNat
  let n := qntBase o
  x.lanes.map fun t =>
    let sg := sigma (o.var.getLsbD 0) (x.read t o.b 0)
    let es := (List.range (qntCount o)).map fun j =>
      let v := sourceValue (cvtCode (some (x.grp.tag (n + j)))) ((t.reg (n + j)).setWidth 64)
      convert dst (x.rm o.rnd) o.sat (x.word t j) (Val.div v sg)
    (t.lane, ({ words := [BitVec.ofNat 32 (packElems dst (es.map (·.1)))], counts := es.flatMap (·.2) } : Res))

/-- QNT (R287): P elements of P registers into one. -/
def execQnt (o : Alu) : State → Out :=
  program (.qnt o) (qntPlan o) fun x =>
    (qntTags x o).bind fun _ => (x.classes [(clsScale (o.var.getLsbD 0), o.b, 1)]).map fun _ =>
      x.seq (x.wroteV o.w o.d.toNat 1 (mkTag o.fmt.toNat (maxPack o.fmt.toNat)) (qntResults x o))

/-- The registers of DQN's result: one for each element of the source, as its tag says (R288). -/
def dqnDst (o : Alu) (ta : Tag) : List (Nat × Nat) := if o.w then [] else [(o.d.toNat, elemCount ta)]

/-- What DQN asks for (R55). -/
def dqnPlan (o : Alu) : Plan :=
  { u := false, h := o.h, illegal := fun _ => aluForm o [0x02] true true (fun v => !v.getLsbD 1), srcs := [(o.a, 1), (o.b, 1)],
      dsts := if o.w then [] else [(o.d.toNat, 1)],
      judged := [{ src := (o.a, 1), operand := fun x => (x.tagOf o.a).any fun ta => qntFormat (tagCode ta) && (dqnDst o ta).any (dstIllegal false x.team.k) }] }

/-- The tag that an instruction of untagged sources refuses: a source of the V-set that carries one. -/
def tagged (x : Issue) (a : Src) : Except Stop Tag := match x.tagOf a with | none => .error (.trap (tFormatMismatch 0)) | some t => .ok t

/-- The classes of DQN's source and of its scale. -/
def dqnClasses (o : Alu) : List ((Tag → Bool) × Src × Nat) := [(fun t => qntFormat (tagCode t), o.a, 1), (clsScale (o.var.getLsbD 0), o.b, 1)]

def dqnResults (x : Issue) (o : Alu) (ta : Tag) : List (Nat × Res) :=
  x.lanes.map fun t =>
    let sg := sigma (o.var.getLsbD 0) (x.read t o.b 0)
    let es := (List.range (elemCount ta)).map fun j =>
      roundTo 0x02 (x.rm o.rnd) o.sat (x.word t j) (Val.mul (elemValue (tagCode ta) (elemBits (tagCode ta) (x.read t o.a 0).toNat j)) sg)
    (t.lane, ({ words := es.map fun e => BitVec.ofNat 32 e.1, counts := es.flatMap (·.2) } : Res))

/-- DQN (R288): the elements of one register into P F32 registers. -/
def execDqn (o : Alu) : State → Out :=
  program (.dqn o) (dqnPlan o) fun x =>
    (tagged x o.a).bind fun ta => (x.classes (dqnClasses o)).map fun _ =>
      x.seq ((x.claims (dqnDst o ta)).wroteV o.w o.d.toNat (elemCount ta) (mkTag 0x02 0) (dqnResults x o ta))

/-! ## AMAX, CBLK and packed arithmetic (R289, R291, R292) -/

/-- The greater magnitude; NaN wins. -/
def Val.maxAbs (a b : Val) : Val :=
  let abs := fun (v : Val) => if v.neg? then v.neg else v
  match a, b with
  | .nan, _ => .nan
  | _, .nan => .nan
  | a, b => if Val.cmp (abs a) (abs b) == some .lt then abs b else abs a

def amaxFormat (c : Nat) : Bool := isFloatCode c || isSm c || isNat_ c || c == 0x27 || c == 0x28

/-- Registers of AMAX's source (R289). -/
def amaxSrc (ta : Tag) : Nat := if tagCode ta = 0x01 then 2 else 1

/-- What AMAX asks for (R55). -/
def amaxPlan (o : Alu) : Plan :=
  { u := false, h := o.h, illegal := fun _ => aluForm o [] false false (fun _ => true), srcs := [(o.a, 1)],
      dsts := if o.w then [] else [(o.d.toNat, 1)],
      judged := [{ src := (o.a, 1), operand := fun x => (x.tagOf o.a).any fun ta => srcIllegal false x.team.k (o.a, amaxSrc ta) }] }

/-- AMAX's results: the greatest magnitude over the lane's block, which var gives (R289). -/
def amaxResults (x : Issue) (o : Alu) (ta : Tag) : List (Nat × Res) :=
  let c := tagCode ta
  let own := fun (t : Thread) =>
    if amaxSrc ta = 2 then elemValue c (x.read64 t o.a).toNat
    else (List.range (elemCount ta)).foldl (fun m j => Val.maxAbs m (elemValue c (elemBits c (x.read t o.a 0).toNat j))) (.zero false)
  let vals := x.lanes.map fun t => (t.lane, own t)
  let blk := if o.var = 0 then 1 else if o.var = 1 then 8 else if o.var = 2 then 16 else x.team.k.width
  x.lanes.map fun t =>
    let m := vals.foldl (fun m (l, v) => if l / blk = t.lane / blk then Val.maxAbs m v else m) (.zero false)
    (t.lane, codeRes 1 (roundTo 0x02 .ru false 0 m))

/-- AMAX (R289). -/
def execAmax (o : Alu) : State → Out :=
  program (.amax o) (amaxPlan o) fun x =>
    (tagged x o.a).bind fun ta => (widthCheck x o.a (amaxSrc ta)).bind fun _ =>
      (x.classes [(fun t => amaxFormat (tagCode t), o.a, amaxSrc ta)]).map fun _ =>
        x.seq (x.wroteV o.w o.d.toNat 1 (mkTag 0x02 0) (amaxResults x o ta))

/-- Entry `i` of a codebook (R254). -/
def cbEntry (tab : BitVec 256) (i : Nat) : Nat := (tab.extractLsb' (16 * i) 16).toNat

/-- What CBLK asks for (R55). -/
def cblkPlan (o : Alu) : Plan :=
  { u := false, h := o.h, illegal := fun x => !x.team.k.plane || aluForm o [] false false (fun _ => true), srcs := [(o.a, 1)],
      dsts := if o.w then [] else [(o.d.toNat, 1)] }

/-- The codebook that a tag names, loaded (R254, R291). -/
def codebookOf (x : Issue) (ta : Tag) : Except Stop (BitVec 256) :=
  match (if isCodebook (tagCode ta) then x.unit.codebooks.get none (tagAux ta) else none) with
  | none => .error (.trap (tFormatMismatch ta.toNat))
  | some tab => .ok tab

/-- CBLK's results: codes 2j and 2j + 1 of the source, j in var, through the codebook (R291). -/
def cblkResults (x : Issue) (o : Alu) (ta : Tag) (tab : BitVec 256) : List (Nat × Res) :=
  x.lanes.map fun t =>
    let one := fun (j : Nat) => cbEntry tab (elemBits (tagCode ta) (x.read t o.a 0).toNat j)
    let e0 := one (2 * o.var.toNat)
    let e1 := one (2 * o.var.toNat + 1)
    (t.lane, ({ words := [BitVec.ofNat 32 (e0 + e1 * 2 ^ 16)],
                counts := (asIs 0x04 (BitVec.ofNat 64 e0)).2 ++ (asIs 0x04 (BitVec.ofNat 64 e1)).2 } : Res))

/-- CBLK (R291). -/
def execCblk (o : Alu) : State → Out :=
  program (.cblk o) (cblkPlan o) fun x =>
    (tagged x o.a).bind fun ta => (codebookOf x ta).map fun tab =>
      x.seq (x.wroteV o.w o.d.toNat 1 (mkTag 0x04 1) (cblkResults x o ta tab))

/-- PADD, PMUL and PFMA on both halves (R292). -/
def packedOp (o : Alu) (three : Bool) (f : Rm → Val → Val → Val → Val) : Op :=
  let c := o.fmt.toNat
  let ok := fun (t : Tag) => t == mkTag c 1 || tagCode t == 0
  { kc := if three then 1 else 0,
    illegal := fun _ => aluForm o [0x04, 0x05] true true noVar || c == 0, ca := ok, cb := ok, cc := ok,
    tie := fun x => x.tied ([o.a, o.b] ++ if three then [o.c] else []), tag := fun _ => mkTag c 1,
    value := fun x l =>
      let m := x.rm o.rnd
      let v := fun (w : W32) (j : Nat) => elemValue c (elemBits c w.toNat j)
      let one := fun (j : Nat) => roundTo c m o.sat (x.word l.t j) (f m (v l.a32 j) (v l.b32 j) (v l.c32 j))
      { words := [BitVec.ofNat 32 (packElems c [(one 0).1, (one 1).1])], counts := (one 0).2 ++ (one 1).2 } }

/-! ## The instructions -/

/-- FADD (R283). -/
def execFadd (o : Alu) : State → Out := vOp (.fadd o) o (fltOp o false fun m a b _ => Val.add m a b)
/-- FSUB (R283). -/
def execFsub (o : Alu) : State → Out := vOp (.fsub o) o (fltOp o false fun m a b _ => Val.add m a b.neg)
/-- FMUL (R283). -/
def execFmul (o : Alu) : State → Out := vOp (.fmul o) o (fltOp o false fun _ a b _ => Val.mul a b)
/-- FMA (R283). -/
def execFma (o : Alu) : State → Out := vOp (.fma o) o (fltOp o true fun m a b c => Val.add m (Val.mul a b) c)
/-- FMIN (R284). -/
def execFmin (o : Alu) : State → Out := vOp (.fmin o) o (minmaxOp o false)
/-- FMAX (R284). -/
def execFmax (o : Alu) : State → Out := vOp (.fmax o) o (minmaxOp o true)
/-- FABS (R284). -/
def execFabs (o : Alu) : State → Out := vOp (.fabs o) o (signOp o fun a s => a &&& ~~~s)
/-- FNEG (R284). -/
def execFneg (o : Alu) : State → Out := vOp (.fneg o) o (signOp o fun a s => a ^^^ s)
/-- FINT (R284). -/
def execFint (o : Alu) : State → Out := vOp (.fint o) o (fintOp o)
/-- FCLASS (R284). -/
def execFclass (o : Alu) : State → Out := vOp (.fclass o) o (fclassOp o)
/-- RCP (R285). -/
def execRcp (o : Alu) : State → Out := vOp (.rcp o) o (sfuOp o .rcp)
/-- RSQ (R285). -/
def execRsq (o : Alu) : State → Out := vOp (.rsq o) o (sfuOp o .rsq)
/-- EXP2 (R285). -/
def execExp2 (o : Alu) : State → Out := vOp (.exp2 o) o (sfuOp o .exp2)
/-- LOG2 (R285). -/
def execLog2 (o : Alu) : State → Out := vOp (.log2 o) o (sfuOp o .log2)
/-- SIN (R285). -/
def execSin (o : Alu) : State → Out := vOp (.sin o) o (sfuOp o .sin)
/-- COS (R285). -/
def execCos (o : Alu) : State → Out := vOp (.cos o) o (sfuOp o .cos)
/-- TANH (R285). -/
def execTanh (o : Alu) : State → Out := vOp (.tanh o) o (sfuOp o .tanh)
/-- SQRT (R285). -/
def execSqrt (o : Alu) : State → Out := vOp (.sqrt o) o (sfuOp o .sqrt)
/-- LOGISTIC (R285). -/
def execLogistic (o : Alu) : State → Out := vOp (.logistic o) o (sfuOp o .logistic)
/-- PADD (R292). -/
def execPadd (o : Alu) : State → Out := vOp (.padd o) o (packedOp o false fun m a b _ => Val.add m a b)
/-- PMUL (R292). -/
def execPmul (o : Alu) : State → Out := vOp (.pmul o) o (packedOp o false fun _ a b _ => Val.mul a b)
/-- PFMA (R292). -/
def execPfma (o : Alu) : State → Out := vOp (.pfma o) o (packedOp o true fun m a b c => Val.add m (Val.mul a b) c)
/-- The operation of FMULI and FADDI: the immediate is F32 (R44, R280). -/
def fltImmOp (o : Imm) (f : Rm → Val → Val → Val → Val) : Op :=
  { fltOp o.o false f with imm := some o.imm, illegal := fun _ => aluForm o.o [0x02] true true noVar }

/-- FMULI (R280). -/
def execFmuli (o : Imm) : State → Out := vOp (.fmuli o) o.o (fltImmOp o fun _ a b _ => Val.mul a b)
/-- FADDI (R280). -/
def execFaddi (o : Imm) : State → Out := vOp (.faddi o) o.o (fltImmOp o fun m a b _ => Val.add m a b)

end Sys2Proof.Machine
end

