-- ==== Sys2Proof/Machine/Access.lean ====
section
/-! DEFINITION. What memory instructions share at issue: addresses (R58, R84, R87, R144), checks (R67), range locks and
presence (R124, R148), the waits of the ordering modifiers (R97, R147, R191), log entries (R92 to R97), atomic updates (R150). -/
namespace Sys2Proof.Machine
open Sys2Proof

/-! ## Scopes and gates -/

/-- The scope in force: GANG is DIE for a gang on one die or no gang, else PACKAGE (R147, R174). -/
def Issue.scope (x : Issue) (sc : BitVec 3) : Nat := if sc = 1 then (if x.gangOf.all (·.oneDie) then 2 else 3) else sc.toNat

/-- The group's slot, or the home groups of a formed group. -/
def Issue.mine (x : Issue) : List Nat := if x.grp.homes.isEmpty then [x.g.grp] else x.grp.homes.map fun (_, h, _) => h

/-- The group's own log entries (R97), those of the home groups of a formed group included. -/
def Issue.entries (x : Issue) : List LogEntry :=
  (x.unit.log.map (·.2)).filter fun e => e.team == x.g.team && e.grps.any fun g => x.mine.contains g

/-- An ACQ access in flight holds every later memory instruction of its group (R97, R147). -/
def Issue.gate (x : Issue) : Except Stop Unit :=
  match x.entries.find? fun e => decide (e.order = .acq) with
  | some e => .error (.wait .stalled (.acquire e.uid))
  | none => .ok ()

/-- A store of a group that is still to be performed: one of a drained interval that waits for its page (R434), or one on its way to another
die's scratchpad. -/
def HeldAccess.storeOf (a : HeldAccess) (team : Nat) (p : Nat → Bool) : Bool :=
  match a with
  | .store _ t gs .. => t == team && gs.any p
  | .pad t g .. => t == team && p g
  | _ => false

/-- Every earlier entry has completed, and so has every drained store (R97 item 3, R191). -/
def Issue.settledEntries (x : Issue) : Except Stop Unit :=
  if x.entries.isEmpty && !(x.pre.held.any fun p => p.2.storeOf x.g.team x.mine.contains) then .ok () else .error (.wait .stalled .entries)

/-- A home holds a CWB of the group, whose completion time the group's horizon still lacks (R146, R154). -/
def State.owes (s : State) (r : GrpRef) : Bool :=
  s.held.any fun p => match p.2 with
    | .writeBack _ _ _ _ _ _ _ (some (.group o)) => o == r
    | _ => false

/-- The waits of a release before it performs (R147): entries, and beyond TEAM the completion horizon (R178), once every CWB of
the group has its time. -/
def Issue.releaseGate (x : Issue) (scope : Nat) : Except Stop Unit :=
  x.settledEntries.bind fun _ =>
    if scope < 2 then .ok ()
    else if x.pre.owes x.g then .error (.wait .stalled (.through x.die x.pre.next x.grp.horizon))
    else if x.pre.time ≤ x.grp.horizon then .error (.wait .stalled (.time x.grp.horizon)) else .ok ()

/-- The write-through of a release that needs one (R156, R186), made once: it waits until no home holds a byte of it (R132) and its
completion times have passed. -/
def Issue.writeThrough (x : Issue) (system : Bool) : Except Stop Unit :=
  if x.grp.once then .ok () else
    let (s1, t) := x.pre.drain x.die system
    .error (x.hold (s1.updGroup x.g Group.markOnce) (.through x.die s1.next (max t x.pre.time)))

def Group.raise (g : Group) (t : Nat) : Group := { g with horizon := max g.horizon t }

/-! ## Addresses -/

/-- Lanes of a memory instruction: the guarded ACTIVE lanes, or lane slot 0 for the U-set (R144). -/
def Issue.slots (x : Issue) : List Thread :=
  if x.u then (if x.selected then [{ tid := (x.grp.lead.map (·.tid)).getD 0 }] else []) else x.lanes

/-- The offset: a signed register, or the b code times the width (R25, R41). -/
def Issue.offset (x : Issue) (t : Thread) (imm : Bool) (b : Src) (bytes : Nat) : Int :=
  if imm then b.code.toNat * bytes else (x.read t b 0).toInt

/-- A virtual address (R58) and a local one (R145). -/
def Issue.globalAddr (x : Issue) (t : Thread) (a : Src) (off : Int) : Nat := (((x.read64 t a).toNat + off) % 2 ^ 64).toNat
def Issue.localAddr (x : Issue) (t : Thread) (a : Src) (off : Int) : Nat := (((x.read t a 0).toNat + off) % 2 ^ 32).toNat

/-- Checks over lanes: the lowest-numbered failed check, and its lowest lane (R67). -/
def firstFail {α : Type} (u : Bool) (l : List (Nat × Except (Nat × Trap) α)) : Except Stop (List (Nat × α)) :=
  let bad := l.filterMap fun (i, r) => match r with | .error (n, t) => some (n, i, t) | .ok _ => none
  match bad.foldl (fun (o : Option (Nat × Nat × Trap)) b => match o with
      | none => some b
      | some c => if b.1 < c.1 then some b else some c) none with
  | some (_, i, t) => .error (.trap { t with lane := if u then none else some i })
  | none => .ok (l.filterMap fun (i, r) => match r with | .ok a => some (i, a) | .error _ => none)

/-- The checks of one global access (R67): its intermediate address. -/
def checkGlobal (ws : List (List W64)) (va size perm : Nat) : Except (Nat × Trap) Nat :=
  match checkAccess ws va size perm with
  | .ok ia => .ok ia
  | .error (n, 0) => .error (n, tAlignment va none)
  | .error (n, c) => .error (n, tWindow c va none)

/-! ## Scratchpad and vault places -/

/-- Where a scratchpad access lands: core, slice, offset in the slice (R84). -/
structure Pad where
  core : Nat
  slice : Nat
  off : Nat
deriving DecidableEq, Repr

/-- The team that a remote form names (R84). -/
def rankTeam (s : State) (t : Team) (rank : Nat) : Option Team :=
  (t.gang.bind fun p => s.gangs.find? p.1).bind fun gg =>
    (gg.members[rank]?).bind fun id => (s.teams.find? id).bind fun u => if u.mode = .stopped then none else some u

/-- Scratchpad bounds (R84). -/
def padOf (s : State) (t : Team) (a n : Nat) : Except (Nat × Trap) Pad :=
  let bound := fun (u : Team) (o : Nat) =>
    if o + n ≤ (s.core u.core).scratchBytes then .ok { core := u.core, slice := u.slice, off := o }
    else .error (3, tWindow 5 a none)
  if a < 2 ^ 31 then bound t a
  else if a / 2 ^ 28 % 8 != 0 then .error (3, tWindow 5 a none)
  else match rankTeam s t (a / 2 ^ 24 % 16) with
    | some u => bound u (a % 2 ^ 24)
    | none => .error (3, tWindow 6 a none)

/-- Array byte of a scratchpad place (R114, R118). -/
def Pad.byte (p : Pad) (s : State) : Nat := (s.core p.core).scratchBase p.slice + p.off
def Pad.at (p : Pad) (s : State) : Nat := arrayAt p.core (p.byte s)

/-- Presence count of the line that holds an array byte (R123). -/
def State.presenceAt (s : State) (core b : Nat) : Nat := (s.core core).presence.get 0 (b / 256)
/-- Every line of a range is present. -/
def State.present (s : State) (core b n : Nat) : Bool :=
  (List.range ((b + n - 1) / 256 + 1 - b / 256)).all fun i => s.presenceAt core (b + 256 * i) == 0

/-- Allocations of a context in the vault of a cluster (R87). -/
def State.vaults (s : State) (ctx cl : Nat) : List (Nat × Nat) :=
  s.teams.filterMap fun (_, t) => if t.ctx = ctx && clusterOf t.core = cl && t.mode != .stopped then t.vault else none

/-- Every byte of a range lies in some allocation; `n` bounds the allocations stepped over. -/
def covered (al : List (Nat × Nat)) : Nat → Nat → Nat → Bool
  | 0, lo, hi => decide (hi ≤ lo)
  | n + 1, lo, hi =>
    if hi ≤ lo then true else
    match al.find? fun (o, l) => decide (o ≤ lo) && decide (lo < o + l) with
    | some (o, l) => covered al n (o + l) hi
    | none => false

/-- Vault checks (R86, R87): the cluster and the offset in its vault. -/
def vaultOf (s : State) (t : Team) (a n : Nat) : Except (Nat × Trap) (Nat × Nat) :=
  let own := a.testBit 29
  let o := a % 2 ^ 25
  if a / 2 ^ 30 != 0 || (own && a / 2 ^ 25 % 16 != 0) then .error (3, tWindow 5 a none)
  else if own then
    match t.vault with
    | some (base, len) => if o + n ≤ len then .ok (clusterOf t.core, base + o) else .error (4, tWindow 5 a none)
    | none => .error (4, tWindow 5 a none)
  else
    let cl := dieOf t.core * 16 + a / 2 ^ 25 % 16
    let al := s.vaults t.ctx cl
    if covered al (al.length + 1) o (o + n) then .ok (cl, o) else .error (5, tWindow 7 a none)

/-! ## Range locks (R124, R148) -/

def overlaps (a n b m : Nat) : Bool := decide (a < b + m) && decide (b < a + n)
/-- A range that an operation issued on this die has registered (R148). -/
def State.rangeHit (s : State) (die : Nat) (sp : Space) (lo n : Nat) (write : Bool) : Bool :=
  s.ops.any fun (_, o) => o.die == die && o.locks.any fun l =>
    decide (l.space = sp) && (l.dst || write) && overlaps lo n l.lo l.len
/-- A registered scratchpad source range at the core that holds it (R124). -/
def State.sourceHit (s : State) (core b n : Nat) : Bool :=
  s.ops.any fun (_, o) => o.locks.any fun l => decide (l.space = .scratch) && !l.dst && l.core == core && overlaps b n l.lo l.len

/-- The lowest lane that a test refuses, as RANGE_LOCK (R148). -/
def lockCheck {α : Type} (u : Bool) (l : List (Nat × α)) (hit : α → Bool) (addr : Nat → Nat) : Except Stop Unit :=
  match l.find? fun (_, a) => hit a with
  | some (i, _) => .error (.trap (tRangeLock (addr i) (if u then none else some i)))
  | none => .ok ()

/-! ## Destinations of loads (R36, R95, R96) -/

/-- Push latch entries that wait for an access and mark the registers pending; with no lane selected, the current
values are pushed at once. -/
def Group.expect (g : Group) (u w : Bool) (d k : Nat) (tag : Tag) (uid : Option Nat) : Group :=
  let es := (List.range k).map fun j =>
    ({ valid := true, pend := uid.map fun i => (i, j == 1), tag := if uid.isSome then tag else if u then 0 else g.tag (d + j),
       vals := if u then Sp.set 0 [] 0 (if w then 0 else g.sreg (d + j)) else writeWord g w d [] j } : Latch)
  let mark := fun (p : Sp (List Nat)) => match uid with
    | some i => if w then p else (List.range k).foldl (fun p j => Sp.put p (d + j) (Sp.get [] p (d + j) ++ [i])) p
    | none => p
  if u then { g with y := es.foldl pushLatch g.y, pendS := mark g.pendS }
  else { g with x := es.foldl pushLatch g.x, pendV := mark g.pendV }

/-! ## Log entries (R92 to R97) -/

/-- The granules that an entry names. -/
def LogEntry.granules (e : LogEntry) : List Nat := e.lanes.map fun l => granuleOf l.ia
def LogEntry.sharesGroup (e f : LogEntry) : Bool := e.team == f.team && e.grps.any fun g => f.grps.contains g
/-- An earlier entry of the group that keeps a new one from being sent (R97 item 1). -/
def LogEntry.blocks (old new : LogEntry) : Bool :=
  old.sharesGroup new && (old.lanes.filter (·.waiting)).any fun l => new.granules.contains (granuleOf l.ia)

/-- Groups that wait for a log entry of the core and came before this one (R93). -/
def Issue.olderWaiters (x : Issue) : Nat :=
  let me := if x.grp.wait = .logEntry then some x.grp.since else none
  (x.s.teams.flatMap fun (id, t) => if t.core = x.team.core then t.groups.filter fun (k, g) =>
    decide (g.wait = .logEntry) && g.mode != .saving && !(id == x.g.team && k == x.g.grp) && me.all fun m => decide (g.since < m) else []).length

/-- The lowest free entry of the core's log, where older waiters leave one (R92, R93). -/
def Issue.freeEntry (x : Issue) : Option Nat :=
  if 64 ≤ x.unit.log.length + x.olderWaiters then none else List.find? (fun i => (x.unit.log.find? i).isNone) (List.range 64)

/-- A drained store of the entry's groups waits on a granule of it (R97, R434). -/
def State.storeBlocks (s : State) (e : LogEntry) : Bool :=
  s.held.any fun p => p.2.storeOf e.team e.grps.contains && match p.2 with
    | .store _ _ _ line .. => e.granules.contains (granuleOf (line * 256))
    | _ => false

/-- An access takes an entry, CHAINED where an earlier one holds its granule, or a drained store waits on it (R97). -/
def Issue.enterLog (x : Issue) (i : Nat) (e : LogEntry) : State :=
  let e' := { e with mode := if (x.unit.log.any fun (_, f) => f.blocks e) || x.s.storeBlocks e then .chained else .inflight }
  ({ x.s with next := x.s.next + 1 } : State).updCore x.team.core fun c => { c with log := c.log.put i e' }

/-- Take an entry, or wait for one. -/
def Issue.take (x : Issue) (e : LogEntry) : Except Stop State :=
  match x.freeEntry with
  | none => .error (.wait .stalled .logEntry)
  | some i => .ok (x.enterLog i e)

/-- The header of an entry for this instruction. -/
def Issue.entry (x : Issue) (kind : AccessKind) (bytes : Nat) : LogEntry :=
  { uid := x.s.next, pc := x.grp.pc, iword := x.words.1, xword := if x.h.long then x.words.2 else 0, ctx := x.team.ctx,
    team := x.g.team, grps := x.mine.eraseDups,
    issued := x.pre.time, kind := kind, uset := x.u, bytes := bytes }

/-- Which named home group a lane's thread belongs to (R94). -/
def Issue.gsel (x : Issue) (e : LogEntry) (lane : Nat) : Nat :=
  match x.grp.homes.find? lane with | some (h, _) => e.grps.findIdx (· == h) | none => 0

/-- One global access of an instruction: its entry without lanes, the permissions it needs, each lane's address and values,
and, for one that answers a register, the registers it takes. -/
structure Access where
  entry : LogEntry
  perm : Nat
  va : Thread → Nat
  value : Thread → W64 := fun _ => 0
  compare : Thread → W64 := fun _ => 0
  load : Bool := true
  k : Nat := 0

/-- The intermediate address of each lane, every check of R67 passed. -/
def Issue.places (x : Issue) (a : Access) : Except Stop (List (Nat × Nat)) :=
  firstFail x.u (x.slots.map fun t => (t.lane, checkGlobal x.context.windows (a.va t) a.entry.bytes a.perm))

/-- No lane meets a registered range (R148). -/
def Issue.unlocked (x : Issue) (a : Access) (ias : List (Nat × Nat)) : Except Stop Unit :=
  lockCheck x.u ias (fun ia => x.s.rangeHit x.die .global ia a.entry.bytes (a.entry.kind != .load))
    fun i => ((x.slots.find? fun t => t.lane == i).map a.va).getD 0

/-- The waits of a REL access (R147), and its write-through where it releases to SYSTEM (R186). -/
def Issue.orderGate (x : Issue) (e : LogEntry) : Except Stop Unit := if e.order = .rel then x.releaseGate e.scope.toNat else .ok ()
def Issue.throughGate (x : Issue) (e : LogEntry) : Except Stop Unit :=
  if e.order = .rel && e.scope = 4 then x.writeThrough true else .ok ()

/-- The LEASE_LEN under which a load asks for its L1 fill (R367): a load that L1 may serve (R147), and not of home 8 (R119). -/
def Issue.fillLen (x : Issue) (e : LogEntry) (ia : Nat) : Option Nat :=
  if e.kind = .load ∧ e.scope.toNat < 2 ∧ homeOf ia < 8 then some x.team.leaseLen else none

/-- The entry with its lanes. -/
def Issue.logged (x : Issue) (a : Access) (ias : List (Nat × Nat)) : LogEntry :=
  { a.entry with lanes := x.slots.map fun t =>
      { lane := t.lane, tid := t.tid, gsel := x.gsel a.entry t.lane, ia := Sp.get 0 ias t.lane, value := a.value t, compare := a.compare t,
        sent := x.pre.time, fill := x.fillLen a.entry (Sp.get 0 ias t.lane) } }

/-- The destination of an access that answers a register: pending on its entry, or unchanged and pushed with no lane selected. -/
def Issue.awaits (x : Issue) (a : Access) (uid : Option Nat) (s : State) : State :=
  if a.load then s.updGroup x.g fun g => g.expect x.u a.entry.w a.entry.d a.k a.entry.tag uid else s

/-- A global access (R145, R149): checks, range locks, waits, entry, destination, sequential flow. -/
def Issue.global (x : Issue) (a : Access) : Except Stop State :=
  (x.places a).bind fun ias => (x.unlocked a ias).bind fun _ => x.gate.bind fun _ => (x.orderGate a.entry).bind fun _ =>
  if x.slots.isEmpty then .ok (x.seq (x.awaits a none x.s))
  else (x.throughGate a.entry).bind fun _ => (x.take (x.logged a ias)).map fun s1 => x.seq (x.awaits a (some a.entry.uid) s1)

/-! ## Atomic updates (R150) -/

/-- The new memory value of a kind on n bits, with the counters of FADD. -/
def atomicNew (kind n m v k : Nat) : Nat × List Nat :=
  let sm : Int := if m < 2 ^ (n - 1) then m else (m : Int) - 2 ^ n
  let sv : Int := if v < 2 ^ (n - 1) then v else (v : Int) - 2 ^ n
  if kind = 0 then ((m + v) % 2 ^ n, [])
  else if kind = 1 then (if sv < sm then v else m, [])
  else if kind = 2 then (if sm < sv then v else m, [])
  else if kind = 3 then (min m v, [])
  else if kind = 4 then (max m v, [])
  else if kind = 5 then (m &&& v, [])
  else if kind = 6 then (m ||| v, [])
  else if kind = 7 then (m ^^^ v, [])
  else if kind = 8 then (v, [])
  else if kind = 9 then (if m = k then v else m, [])
  else
    let (w, c) := roundTo 0x02 .rne false 0 (Val.add .rne (f32Value (BitVec.ofNat 32 m)) (f32Value (BitVec.ofNat 32 v)))
    (w, c.filter fun i => i != cUnf 0x02)

/-- The operand tags of a kind (R150). -/
def atomicClass (kind : Nat) (t : Tag) : Bool :=
  if kind ≤ 4 then tagCode t == 0x28 || tagCode t == 0x29 || tagCode t == 0
  else if kind = 10 then tagCode t == 0x02 || tagCode t == 0 else true

end Sys2Proof.Machine
end

