-- ==== Sys2Proof/Machine/Global.lean ====
section
/-! DEFINITION. The life of a logged access after its issue, lane by lane (R77, R89 to R98, R131, R138 to R147, R177, R182,
R183): the walk at the home, the return of data, the acceptance of stores, releases and acquires at home, pulls. -/
namespace Sys2Proof.Machine
open Sys2Proof

/-! ## Entries and lanes -/

def State.entryAt (s : State) (l : LaneRef) : Option LogEntry := (s.core l.core).log.find? l.entry
def LogEntry.at (e : LogEntry) (lane : Nat) : Option LogLane := e.lanes.find? fun x => x.lane == lane
def State.laneAt (s : State) (l : LaneRef) : Option (LogEntry × LogLane) := (s.entryAt l).bind fun e => (e.at l.lane).map fun x => (e, x)
def State.setEntry_ (s : State) (core i : Nat) (e : LogEntry) : State := s.updCore core fun c => { c with log := c.log.put i e }
def LogEntry.setLane (e : LogEntry) (x : LogLane) : LogEntry := { e with lanes := e.lanes.map fun y => if y.lane = x.lane then x else y }
/-- Set how far a lane has come. -/
def State.stage (s : State) (l : LaneRef) (g : LaneStage) : State :=
  match s.laneAt l with
  | some (e, x) => s.setEntry_ l.core l.entry (e.setLane { x with stage := g })
  | none => s
/-- The home group of a lane's thread (R94). -/
def LogEntry.homeGroup (e : LogEntry) (x : LogLane) : GrpRef := { team := e.team, grp := e.grps.getD x.gsel 0 }
def LogEntry.isWrite (e : LogEntry) : Bool := match e.kind with | .load | .tld => false | _ => true
def LogEntry.isAtomic (e : LogEntry) : Bool := match e.kind with | .atomic | .red => true | _ => false

/-- Release and acquire performed at home (R182, R183), and any access performed at home (R138, R147). -/
def LogEntry.homeRelease (e : LogEntry) : Bool := e.order = .rel && e.scope.toNat ≥ 3
def LogEntry.homeAcquire (e : LogEntry) : Bool := e.order = .acq && e.scope.toNat ≥ 3
def LogEntry.atHome (e : LogEntry) (ia : Nat) : Bool := homeOf ia ≥ 8 || e.homeRelease || e.homeAcquire || (e.isAtomic && e.scope.toNat ≥ 3)

/-- A lane that may go on: its entry is sent, lower lanes of overlapping writes are done (R145, R150), and one that has been sent
again meets no lock (R98). -/
def State.canGo (s : State) (l : LaneRef) (e : LogEntry) (x : LogLane) : Bool :=
  x.waiting && e.mode != .chained &&
    !(e.isWrite && e.lanes.any fun y => y.waiting && decide (y.lane < x.lane) && overlaps y.ia e.bytes x.ia e.bytes) &&
    !(x.again && s.rangeHit (dieOf l.core) .global x.ia e.bytes e.isWrite)

/-- A lane of the state that may go on from a stage. -/
def State.laneGo (s : State) (l : LaneRef) : Option (LogEntry × LogLane) :=
  (s.laneAt l).bind fun (e, x) => if s.canGo l e x then some (e, x) else none

/-! ## Tiles in use (R324, R326) -/

/-- Magnitude width, sign planes and exponent bytes of a matrix operand format (R127, R324). -/
def planeDims (c : Nat) : Nat × Nat × Nat :=
  if isFloatCode c then ((fmtOf c).m + 1, 1, ((fmtOf c).e + 7) / 8)
  else if c = 0x0D then (4, 0, 0) else if c = 0x0E then (3, 0, 0) else if c = 0x0F then (2, 0, 0)
  else if isSm c then (intBits c - 1, 1, 0) else if c = 0x27 then (1, 0, 0) else (intBits c, 0, 0)

/-- Bytes of one block of a side (R127, R128). -/
def blockBytes (sideB : Bool) (c : Nat) : Nat :=
  let (mw, sg, eb) := planeDims c
  (if sideB then 256 * ((mw + 7) / 8) else 32 * mw) + 32 * sg + 256 * eb

/-- Tile registers that an operand of this many bytes spans; none above 16,384 bytes (R324). -/
def tileSpan (need : Nat) : Option Nat :=
  if need ≤ 4096 then some 1 else if need ≤ 8192 then some 2 else if need ≤ 16384 then some 4 else none

/-- Output shape of a fusion and its A and B blocks for each chunk (R318). -/
def fusionShape (f : Nat) : Nat × Nat × Nat × Nat :=
  if f = 0 then (16, 64, 1, 4) else if f = 1 then (32, 32, 2, 2) else if f = 2 then (64, 16, 4, 1) else (16, 16, 4, 4)

def tilesFrom (t n : Nat) : List Nat := (List.range n).map (t + ·)
/-- Tiles of an accumulator of a format (R325). -/
def accTiles (t c : Nat) : List Nat := tilesFrom t (if c = 0x01 then 2 else 1)
/-- Accumulator format of a pair of operand formats (R321). -/
def accCode (fa : Nat) : Nat := if fa = 0x01 then 0x01 else if isFloatCode fa || isCodebook fa then 0x02 else 0x28

/-- The A and B spans of an MMA. -/
def spanA (fa : BitVec 6) (fusion kc : Nat) : Nat := (tileSpan ((fusionShape fusion).2.2.1 * kc * blockBytes false fa.toNat)).getD 4
def spanB (fb : BitVec 6) (fusion kc : Nat) : Nat := (tileSpan ((fusionShape fusion).2.2.2 * kc * blockBytes true fb.toNat)).getD 4
/-- The span of a TCVT's blocks (R341), with their blocks for each chunk and their chunks. -/
def tcvtShape (sideB : Bool) (fusion : Nat) : Nat × Nat :=
  let (M, N, _, _) := fusionShape fusion
  if sideB then (N / 16, M / 16) else (M / 16, N / 16)
def tcvtSpan (sideB : Bool) (fusion : Nat) (dst : BitVec 6) : Option Nat :=
  let (mb, kc) := tcvtShape sideB fusion
  tileSpan (mb * kc * blockBytes sideB dst.toNat)

/-- Tiles that an operation reads and writes (R326). -/
def TileWork.reads : TileWork → List Nat
  | .mma td ta tb fa fb fusion kc _ upper _ _ _ _ =>
    tilesFrom ta (spanA fa fusion kc) ++ (if upper then [] else tilesFrom tb (spanB fb fusion kc)) ++ accTiles td (accCode fa.toNat)
  | .tcvt _ ta src .. => accTiles ta src.toNat
  | .tamax ta _ src .. => accTiles ta src.toNat
  | .tst td => [td]
  | .logged td store => if store then [td] else []
  | _ => []
def TileWork.writes : TileWork → List Nat
  | .mma td _ _ fa .. => accTiles td (accCode fa.toNat)
  | .tcvt td _ _ dst sideB fusion .. => tilesFrom td ((tcvtSpan sideB fusion dst).getD 4)
  | .tzero td n => tilesFrom td n
  | .tld td _ => [td]
  | .logged td store => if store then [] else [td]
  | _ => []

/-- An earlier operation that a reader and writer of these tiles waits for (R326). -/
def Core.tilesBusy (c : Core) (reads writes : List Nat) : Bool :=
  c.tileOps.any fun o => o.work.writes.any (fun t => reads.contains t || writes.contains t) || o.work.reads.any (writes.contains ·)

/-- An operation that an MWAIT waits for (R332). -/
def Core.tileLeft (c : Core) (upto : Nat) (t : Option Nat) : Bool :=
  c.tileOps.any fun o => decide (o.uid < upto) && t.all fun n => o.work.reads.contains n || o.work.writes.contains n

/-- Tile waits after an operation of a core completed: those of its own teams, an MWAIT whose operations are done staying done (R332),
and readers of exception counters, which may stand on any core (R267). -/
def State.wakeTiles (s : State) (core : Nat) : State :=
  let wake := fun ((k, g) : Nat × Group) => match g.wait with
    | .tile => (k, g.wake s.time)
    | .tiles upto t =>
      if (s.core core).tileLeft upto t then (k, g) else (k, { g.wake s.time with drained := g.ipc :: g.drained })
    | _ => (k, g)
  let count := fun ((k, g) : Nat × Group) => match g.wait with
    | .tile => (k, g.wake s.time)
    | _ => (k, g)
  let one := fun (t : Team) => { t with groups := t.groups.map (if t.core = core then wake else count) }
  { s with teams := s.teams.map fun (id, t) => (id, one t) }

/-! ## Completion of a lane -/

/-- Chained entries of a team whose granules no earlier entry, and no drained store, names any more are sent (R97 item 1). -/
def State.unchain (s : State) (log : Sp LogEntry) : Sp LogEntry :=
  let now := s.time
  log.map fun (i, e) =>
    if e.mode = .chained && !s.storeBlocks e && !(log.any fun (_, f) => f.sharesGroup e && decide (f.uid < e.uid) && f.granules.any fun g => e.granules.contains g)
    then (i, { e with mode := .inflight, lanes := e.lanes.map fun x => { x with sent := now } }) else (i, e)

/-- An access leaves the registers that wait for it. -/
def settleRegs (p : Sp (List Nat)) (uid : Nat) : Sp (List Nat) :=
  (p.map fun (n, l) => (n, l.filter (· != uid))).filter fun (_, l) => !l.isEmpty

/-- An access of a group has completed: its pending marks clear (R95, R96). -/
def Group.settleAccess (g : Group) (uid : Nat) : Group :=
  let clear := fun (l : List Latch) => l.map fun y => if y.pend.any fun p => p.1 == uid then { y with pend := none } else y
  { g with pendV := settleRegs g.pendV uid, pendS := settleRegs g.pendS uid, superseded := g.superseded.filter fun q => q.1 != uid, x := clear g.x, y := clear g.y }

/-- Free an entry whose lanes have all completed (R92); the tile of a TLD or TST is in use no longer (R326). -/
def State.freeEntry (s : State) (core i : Nat) : State :=
  match (s.core core).log.find? i with
  | none => s
  | some e =>
    let s0 := s.updCore core fun c =>
      refilter { c with log := s.unchain (c.log.erase i), tileOps := c.tileOps.filter fun o => o.uid != e.uid }
    let s1 := if e.isTile then s0.wakeTiles core else s0
    let s2 := s1.updTeam e.team fun t => { t with groups := t.groups.map fun (k, g) => (k, g.settleAccess e.uid) }
    (s2.wakeTeam e.team fun k g => decide (g.wait = .latch e.uid) || decide (g.wait = .reg e.uid) || decide (g.wait = .acquire e.uid) ||
      (decide (g.wait = .entries) && e.grps.contains k)).wakeLogs core

/-- A lane's value in its register, tag and latch (R95, R96, R145); a part of the register that a later instruction has written keeps
that value, and a tag likewise (log 11). -/
def Group.deliver (g : Group) (k : Nat) (e : LogEntry) (x : LogLane) (v : W64) : Group :=
  let words := (List.range (if e.bytes = 8 then 2 else 1)).map fun j => ((v >>> (32 * j)).setWidth 32 : W32)
  let into := fun (l : List Latch) => l.map fun y => match y.pend with
    | some (u, h) => if u = e.uid then { y with vals := Sp.set 0 y.vals x.lane (words.getD h.toNat 0) } else y
    | none => y
  let g1 := { g with x := if e.uset then g.x else into g.x, y := if e.uset then into g.y else g.y }
  let free := fun (j who : Nat) => !g.superseded.contains (e.uid, e.d + j, who)
  if e.w then g1
  else if e.uset then
    if e.grps.headD 0 = k then words.zipIdx.foldl (fun (g : Group) (w, j) => if free j 0 then g.setSreg (e.d + j) w else g) g1 else g1
  else if g1.threads.any fun t => t.tid == x.tid then
    let put := fun (t : Thread) =>
      if t.tid = x.tid then words.zipIdx.foldl (fun (t : Thread) (w, j) => if free j t.tid then t.setReg (e.d + j) w else t) t else t
    words.zipIdx.foldl (fun (g : Group) (_, j) => if free j 2048 then g.setTag (e.d + j) e.tag else g) { g1 with threads := g1.threads.map put }
  else g1

/-- A lane completes: its value is written, its completion time raises the horizon, and the entry goes with its last
lane (R92, R95, R146). -/
def State.finishLane (s : State) (l : LaneRef) (v : Option W64) (t : Option Nat) : State :=
  match s.laneAt l with
  | none => s
  | some (e, x) =>
    let s1 := match t with | some t => s.updGroup (e.homeGroup x) fun g => g.raise t | none => s
    let s2 := match v with
      | some v => s1.updTeam e.team fun t => { t with groups := t.groups.map fun ((k, g) : Nat × Group) => (k, g.deliver k e x v) }
      | none => s1
    let e' := e.setLane { x with waiting := false }
    let s3 := s2.setEntry_ l.core l.entry e'
    if e'.lanes.any (·.waiting) then s3 else s3.freeEntry l.core l.entry

/-- The value that a register takes from the bytes of a load (R145). -/
def LogEntry.extend (e : LogEntry) (v : Nat) : W64 :=
  if e.sx && e.bytes < 4 && v ≥ 2 ^ (8 * e.bytes - 1) then BitVec.ofNat 64 (v + 2 ^ 32 - 2 ^ (8 * e.bytes)) else BitVec.ofNat 64 v

/-- A trap that an event of a logged access raises, on the group of the lane (R106). -/
def State.laneTrap (s : State) (l : LaneRef) (tr : Trap) : State :=
  match s.laneAt l with
  | some (e, x) => s.take (e.homeGroup x) { tr with lane := some (e.named x).1, addr := (e.named x).2 }
  | none => s

/-- ACCESS_FAULT (R106): the lowest waiting lane of the entry, and a copy of the entry. -/
def State.accessFault (s : State) (core i cause : Nat) : State :=
  match (s.core core).log.find? i with
  | none => s
  | some e =>
    match e.lanes.find? (·.waiting) with
    | none => s
    | some x =>
      let slot := ((s.teams.find? e.team).map (·.slot)).getD 0
      s.take (e.homeGroup x)
        { tAccessFault cause with lane := some (e.named x).1, addr := (e.named x).2, pc := some e.pc, ext := 1, words := entryWords e slot }

/-! ## Performing at the home -/

/-- Keep the issuing die's clean copy of a line in step with a write performed at home, and drop the core's L1 copy for
an atomic (R121, R139). -/
def State.refresh (s : State) (core line : Nat) (mask : BitVec 256) (data : BitVec 2048) (atomic : Bool) : State :=
  let d := dieOf core
  let s1 := if ((s.die d).lines.find? line).isSome then
    let x := s.l2 d line
    s.setL2 d line { x with data := mergeLine (mask &&& ~~~x.dirty) data x.data, poison := mergePoison (mask &&& ~~~x.dirty) 0 x.poison } else s
  if atomic then s1.l1Drop core line else s1

/-- The bytes of an access as the home reads them: the slice, or for a SYSTEM acquire the HOST or PEER frame, which takes the dirty
bytes of the slice first and from which the slice is refreshed (R136, R187, R202). -/
def State.homeRead (s : State) (ia n : Nat) (l : Leaf) (system : Bool) : List Byte × State :=
  let line := lineOf ia
  if homeOf ia ≥ 8 then (s.frameBytes ia l n, s)
  else if system && l.kind != 2 then
    let s1 := s.flushSlice line
    let x := s1.slice line
    let fresh := BitVec.ofNat 2048 (leNat (s1.frameBytes (line * 256) l 256))
    (s1.frameBytes ia l n, if x.valid then s1.setSlice line { x with data := fresh } else s1)
  else
    let s1 := s.fillSlice line l
    (lineBytes (s1.slice line).data (ia % 256) n, s1)

/-- Whether the home's copy of the bytes is poisoned (R142). -/
def State.homePoisoned (s : State) (ia n : Nat) (l : Leaf) : Bool :=
  poisonedAt (if homeOf ia < 8 then s.homePoison (lineOf ia) l else s.framePoison (lineOf ia * 256) l) (ia % 256) n

/-- Bytes written at the home; the answer is the completion time (R177). -/
def State.homeWrite (s : State) (ia : Nat) (l : Leaf) (bs : List Byte) : State × Nat :=
  if homeOf ia ≥ 8 then ((s.touch ia l true).writeFrame ia l bs, s.time)
  else let (mask, data) := lineOfBytes (ia % 256) bs; s.homeMerge (lineOf ia) l mask data

/-- An atomic of a lane at the home atomic unit (R138, R140): the old value, whether it was poisoned, the completion time. One that
finds its word poisoned changes nothing and counts nothing (R142, R265). -/
def State.homeAtomic (s : State) (core : Nat) (e : LogEntry) (x : LogLane) (l : Leaf) (system : Bool) : State × W64 × Bool × Nat :=
  let s0 := (s.gather (lineOf x.ia)).1
  let bad := s0.homePoisoned x.ia e.bytes l
  let (bs, s1) := s0.homeRead x.ia e.bytes l system
  let old := leNat bs
  if bad then (s1, BitVec.ofNat 64 old, true, s.time) else
  let (new, cnt) := atomicNew e.akind.toNat (8 * e.bytes) old x.value.toNat x.compare.toNat
  let out := leBytes e.bytes new
  let (s2, t) := s1.homeWrite x.ia l out
  let (mask, data) := lineOfBytes (x.ia % 256) out
  ((s2.refresh core (lineOf x.ia) mask data true).count e.team cnt, BitVec.ofNat 64 old, bad, t)

/-! ## The walk (R77, R89) -/

/-- What a walk tells an access: a leaf that permits it, or the outcome (R77). -/
def State.walkFor (s : State) (ia : Nat) (write : Bool) : Except LaneStage Leaf :=
  if s.pageHeld ia then .error .sent else
  match s.walk ia with
  | .absent lv => .error (.resp lv false false)
  | .peerAbsent lv => .error (.resp lv false true)
  | .bad c => .error (.bad c)
  | .leaf l => if write && pteWp l.word then .error (.resp l.level true false) else .ok l

def sectorBit (ia : Nat) : BitVec 4 := (1 : BitVec 4) <<< (sectorOf ia % 4)

/-! ## Held bytes over those of memory (R431) -/

/-- The held bytes of the team over those of memory (R431). -/
def State.overlayBytes (s : State) (e : LogEntry) (ia : Nat) (bs : List Byte) : List Byte :=
  match s.intervals.find? e.team with
  | some iv => if iv.held.isEmpty then bs else overHeld iv.held ia bs
  | none => bs

/-- Every byte of a range is held: what memory keeps there is not read. -/
def State.overlaid (s : State) (e : LogEntry) (ia n : Nat) : Bool :=
  match s.intervals.find? e.team with
  | some iv => (List.range n).all fun i => (Sp.get (0, 0) iv.held ((ia + i) / 64)).1.getLsbD ((ia + i) % 64)
  | none => false

/-- A poisoned word of a line of which some byte is read from memory (R142). -/
def State.readsPoison (s : State) (e : LogEntry) (line : Nat) (p : BitVec 32) : Bool :=
  p != 0 && (List.range 32).any fun i => p.getLsbD i && !s.overlaid e (line * 256 + 8 * i) 8

/-! ## Tiles in memory (R334) -/

/-- The 4,096 bytes of a tile, and those of one part. -/
def tileBytes (t : Tile) : List Byte := (List.range 4096).map fun i => t.data.get 0 i
def Core.tilePart (c : Core) (e : LogEntry) (x : LogLane) : List Byte :=
  (List.range 256).map fun i => (c.tiles.get {} e.d).data.get 0 (256 * x.lane + i)

/-- Write one part of a tile register from the bytes of its line; nothing reads the tile before the entry is free (R326). -/
def State.tileArrive (s : State) (core : Nat) (e : LogEntry) (x : LogLane) (bs : List Byte) : State :=
  let part := bs.zipIdx.map fun (b, i) => (i, b)
  s.updCore core fun c =>
    let t := c.tiles.get {} e.d
    { c with tiles := c.tiles.put e.d { t with data := setCells t.data (256 * x.lane) 256 part } }

/-- What the reader's own caches keep of bytes that it read further out, at the die L2 or the home, takes their value: a later load of
the group reads these bytes or later ones (R202). -/
def State.renew (s : State) (core ia : Nat) (bs : List Byte) : State :=
  let (mask, data) := lineOfBytes (ia % 256) bs
  let s1 := s.refresh core (lineOf ia) mask data false
  s1.updCore core fun c => { c with l1 := c.l1.map fun x => if x.sector / 4 == lineOf ia && inSector mask x.sector then x.write mask data else x }

/-- A TLD reads one line as its die L2 holds it: the state with the part of the tile, and whether the line is poisoned. -/
def State.tileRead (s : State) (core : Nat) (e : LogEntry) (x : LogLane) : State × Bool :=
  let y := s.l2 (dieOf core) (lineOf x.ia)
  let bs := lineBytes y.data 0 256
  ((s.renew core (lineOf x.ia * 256) bs).tileArrive core e x (s.overlayBytes e x.ia bs), s.readsPoison e (lineOf x.ia) y.poison)

def fullLine : BitVec 256 := BitVec.ofNat 256 (2 ^ 256 - 1)

/-- Where an access hits and reaches no home (R89). -/
def State.hits (s : State) (core : Nat) (e : LogEntry) (x : LogLane) : Bool :=
  let d := dieOf core
  let line := lineOf x.ia
  let (mask, _) := lineOfBytes (x.ia % 256) (List.replicate e.bytes 0)
  let permit := (s.l2 d line).permit && decide (s.time < (s.l2 d line).lease)
  match e.kind with
  | .load => (decide (e.scope.toNat < 2) && (s.l1 core x.ia).isSome) || s.l2Has d line mask
  | .store => permit
  | .atomic | .red => permit && s.l2Has d line mask
  | .tld => s.l2Has d line fullLine
  | .tst => permit

/-- A store that its checkpointed team holds reaches no cache (R431); what R433 performs directly is not held. -/
def State.heldStore (s : State) (e : LogEntry) : Bool :=
  (match e.kind with | .store | .tst => true | _ => false) && (s.intervals.find? e.team).isSome &&
    !(e.order = .rel && e.scope.toNat ≥ 2 && !((s.teams.find? e.team).any (·.k.paired)))

/-- An access to the host aperture is served at the I/O die (R74). A part of a tile is served as a load or store of its bytes
(log 75). -/
def State.apertureWalk (s : State) (l : LaneRef) (e : LogEntry) (x : LogLane) (f : Leaf) : State :=
  if e.isWrite then
    let bs := if e.isTile then (s.core l.core).tilePart e x else leBytes e.bytes x.value.toNat
    ((s.touch x.ia f true).writeFrame x.ia f bs).stage l (.home 0 false s.time)
  else
    let bs := s.frameBytes x.ia f e.bytes
    let s1 := s.touch x.ia f false
    if e.isTile then
      (s1.tileArrive l.core e x (s.overlayBytes e x.ia bs)).stage l
        (.home 0 (s.readsPoison e (lineOf x.ia) (s.framePoison (lineOf x.ia * 256) f)) s.time)
    else s1.stage l (.home (e.extend (leNat bs)) (s.homePoisoned x.ia e.bytes f) s.time)

/-- An access reaches its home and its walk ends in one outcome (R77): a lease, the access itself where it is performed
at home, or a response. -/
def State.pageWalk (s : State) (l : LaneRef) (e : LogEntry) (x : LogLane) : State :=
  let d := dieOf l.core
  match s.walkFor x.ia e.isWrite with
  | .error g => s.stage l g
  | .ok f =>
    if homeOf x.ia ≥ 8 then s.apertureWalk l e x f
    else if e.isAtomic && e.scope.toNat ≥ 3 then
      let (s1, old, bad, t) := s.homeAtomic l.core e x f false
      s1.stage l (.home old bad t)
    else match e.kind with
      | .load =>
        let s1 := s.grant d (lineOf x.ia) f (sectorBit x.ia)
        let y := s1.l2 d (lineOf x.ia)
        let bs := lineBytes y.data (x.ia % 256) e.bytes
        -- a load that L1 may not serve reads past a copy there (R202)
        (if e.scope.toNat < 2 then s1 else s1.renew l.core x.ia bs).stage l
          (.home (e.extend (leNat bs)) (poisonedAt y.poison (x.ia % 256) e.bytes) s.time)
      | .store | .tst => (s.touch x.ia f true).grant d (lineOf x.ia) f 0
      | .atomic | .red => (s.touch x.ia f true).grant d (lineOf x.ia) f (sectorBit x.ia)
      | .tld => let (s1, bad) := (s.grant d (lineOf x.ia) f 0xF).tileRead l.core e x; s1.stage l (.home 0 bad s.time)

/-- A step of the package that is not enabled. -/
def notNow (what : String) : Out := .fault (.notEnabled what)

/-- A lane needs its home: it is performed there, or no cache holds what it needs. -/
def State.needsHome (s : State) (l : LaneRef) (e : LogEntry) (x : LogLane) : Bool := e.atHome x.ia || !s.hits l.core e x

/-- PAGE_WALK. -/
def execPageWalk (l : LaneRef) (s : State) : Out :=
  match s.laneGo l with
  | some (e, x) =>
    if x.stage = .sent && !s.pageHeld x.ia && !e.homeRelease && !e.homeAcquire && !s.heldStore e && s.needsHome l e x then
      .next (s.pageWalk l e x)
    else notNow "PAGE_WALK"
  | none => notNow "PAGE_WALK"

/-! ## Release and acquire at home (R147, R182 to R184, R186, R187) -/

/-- RELEASE_AT_HOME: the released value and its record in one step; a SYSTEM release sets none (R182, R186). -/
def State.releaseAtHome (s : State) (l : LaneRef) (e : LogEntry) (x : LogLane) : State :=
  match s.walkFor x.ia true with
  | .error g => s.stage l g
  | .ok f =>
    let line := lineOf x.ia
    let d := dieOf l.core
    let record := fun (u : State) => if e.scope = 3 then u.recordRelease d line else u
    if e.isAtomic then
      let (s1, old, bad, t) := s.homeAtomic l.core e x f false
      (if bad then s1 else record s1).stage l (.home old bad t)
    else
      let bs := leBytes e.bytes x.value.toNat
      let s0 := if homeOf x.ia < 8 then (s.gather line).1 else s
      let (s1, t) := s0.homeWrite x.ia f bs
      let (mask, data) := lineOfBytes (x.ia % 256) bs
      let s2 := if homeOf x.ia < 8 then (s1.refresh l.core line mask data false).l1Store l.core x.ia bs else s1
      (record s2).stage l (.home 0 false t)

def execReleaseAtHome (l : LaneRef) (s : State) : Out :=
  match s.laneGo l with
  | some (e, x) =>
    if x.stage = .sent && !s.pageHeld x.ia && e.homeRelease && !s.heldStore e then .next (s.releaseAtHome l e x) else notNow "RELEASE_AT_HOME"
  | none => notNow "RELEASE_AT_HOME"

/-- An ACQ load reads its value at the home (R183, R187), which has the dirty bytes of its own die by then (R202). -/
def State.acquireLoad (s : State) (l : LaneRef) (e : LogEntry) (x : LogLane) (f : Leaf) : State :=
  let s0 := s.touch x.ia f false
  let bad := s0.homePoisoned x.ia e.bytes f
  let (bs, s1) := s0.homeRead x.ia e.bytes f (e.scope == 4)
  let s2 := (if homeOf x.ia < 8 then s1.renew l.core x.ia bs else s1).settle (lineOf x.ia) allDies
  s2.stage l (.settling (s2.settledAt (lineOf x.ia)) (e.extend (leNat bs)) bad)

/-- ACQUIRE_AT_HOME: the value is read, or the update made, as the acquire reaches the home; every record of the line is
then pulled and settled before it completes (R183). Where its own die's bytes are held there, it waits behind them (R184). -/
def State.acquireAtHome (s : State) (l : LaneRef) (e : LogEntry) (x : LogLane) : State :=
  let line := lineOf x.ia
  match s.walkFor x.ia e.isWrite with
  | .error g => s.stage l g
  | .ok f =>
    if e.isAtomic then
      let (s1, old, bad, t) := s.homeAtomic l.core e x f (e.scope == 4)
      let s2 := (s1.settle line allDies).updGroup (e.homeGroup x) fun g => g.raise t
      s2.stage l (.settling (s2.settledAt line) old bad)
    else
      let s0 := if homeOf x.ia < 8 then (s.cleanL2 (dieOf l.core) line).1 else s
      if s0.pageHeld x.ia then s0 else s0.acquireLoad l e x f

def execAcquireAtHome (l : LaneRef) (s : State) : Out :=
  match s.laneGo l with
  | some (e, x) =>
    if x.stage = .sent && !s.pageHeld x.ia && e.homeAcquire then .next (s.acquireAtHome l e x) else notNow "ACQUIRE_AT_HOME"
  | none => notNow "ACQUIRE_AT_HOME"

/-! ## Data returns (R95, R138, R139) -/

/-- The outstanding fill of a load installs its sector in L1, while the die still holds it; one that a store has met installs
nothing (R120, R121). -/
def State.fillGranted (s : State) (core : Nat) (e : LogEntry) (x : LogLane) : State :=
  match x.fill with
  | some len =>
    if e.scope.toNat < 2 && (s.l2Valid (dieOf core) (lineOf x.ia)).getLsbD (sectorOf x.ia % 4) then s.l1Fill core x.ia len else s
  | none => s

/-- A load that its caches serve: the value, whether it is poisoned, and L1 after it (R120, R131). -/
def State.cachedLoad (s : State) (core : Nat) (e : LogEntry) (x : LogLane) : Option (W64 × Bool × State) :=
  let d := dieOf core
  let line := lineOf x.ia
  let (mask, _) := lineOfBytes (x.ia % 256) (List.replicate e.bytes 0)
  match (if e.scope.toNat < 2 then s.l1 core x.ia else none) with
  | some y =>
    let o := x.ia % 64
    let s1 := s.updCore core fun c => { c with l1 := c.l1.map fun z => if z.sector = y.sector then { z with used := s.time } else z }
    some (e.extend (leNat (leBytes e.bytes (y.data.toNat / 2 ^ (8 * o)))),
      poisonedAt (y.poison.setWidth 32) o e.bytes, s1)
  | none =>
    if s.l2Has d line mask then
      let y := s.l2 d line
      let bs := lineBytes y.data (x.ia % 256) e.bytes
      some (e.extend (leNat bs), poisonedAt y.poison (x.ia % 256) e.bytes,
        if e.scope.toNat < 2 then s.fillGranted core e x else s.renew core x.ia bs)
    else none

/-- The held bytes of the team over a value of memory (R431). -/
def State.overlay (s : State) (e : LogEntry) (x : LogLane) (v : W64) : W64 :=
  match s.intervals.find? e.team with
  | some iv => if iv.held.isEmpty then v else
      e.extend (leNat (overHeld iv.held x.ia (leBytes e.bytes v.toNat)))
  | none => v

/-- An atomic of a lane at the issuing core's L1, for TEAM scope, or at the die L2 (R138, R139, R177). -/
def State.cachedAtomic (s : State) (core : Nat) (e : LogEntry) (x : LogLane) : W64 × Bool × Nat × State :=
  let d := dieOf core
  let line := lineOf x.ia
  let l1 := if e.scope = 0 then s.l1 core x.ia else none
  let y := s.l2 d line
  let (old, bad) := match l1 with
    | some z => (leNat (leBytes e.bytes (z.data.toNat / 2 ^ (8 * (x.ia % 64)))), poisonedAt (z.poison.setWidth 32) (x.ia % 64) e.bytes)
    | none => (leNat (lineBytes y.data (x.ia % 256) e.bytes), poisonedAt y.poison (x.ia % 256) e.bytes)
  let (new, cnt) := atomicNew e.akind.toNat (8 * e.bytes) old x.value.toNat x.compare.toNat
  let out := leBytes e.bytes new
  let (mask, data) := lineOfBytes (x.ia % 256) out
  let (s1, t) := s.l2Write d line mask data
  let s2 := if l1.isSome then s1.l1Store core x.ia out else s1.l1Drop core line
  (BitVec.ofNat 64 old, bad, if l1.isSome then s.time else t, s2.count e.team cnt)

/-- A lane's value comes back, or a poisoned one is consumed (R95, R142). -/
def State.return_ (s : State) (l : LaneRef) (v : W64) (bad : Bool) (t : Option Nat) : State :=
  if bad then s.laneTrap l tUncorrectable else s.finishLane l (some v) t

/-- An atomic is made in the caches and its old value comes back. -/
def State.atomicReturns (s : State) (l : LaneRef) (e : LogEntry) (x : LogLane) : State :=
  let (v, bad, t, s1) := s.cachedAtomic l.core e x
  if bad then s.laneTrap l tUncorrectable else s1.finishLane l (some v) (some t)

/-- A load's value of memory comes back under the held bytes of its team; where they cover it, memory's word is not consumed. -/
def State.loadReturns (s : State) (l : LaneRef) (e : LogEntry) (x : LogLane) (v : W64) (bad : Bool) : State :=
  s.return_ l (s.overlay e x v) (bad && !s.overlaid e x.ia e.bytes) none

/-- A part of a TLD is in its tile. -/
def State.tileReturns (s : State) (l : LaneRef) (bad : Bool) : State :=
  if bad then s.laneTrap l tUncorrectable else s.finishLane l none none

/-- Every record of the line that an acquire reached has settled (R183). -/
def State.acquired (s : State) (x : LogLane) (t : Nat) : Bool := decide (t < s.time) && s.settledNow (lineOf x.ia)

/-- What the return of a lane's data does, by how far the lane has come; none where its data is not there yet. -/
def State.dataReturns (s : State) (l : LaneRef) (e : LogEntry) (x : LogLane) : Option State :=
  match e.kind, x.stage with
  | .load, .home v bad _ => some ((s.fillGranted l.core e x).loadReturns l e x v bad)
  | .load, .settling t v bad => if s.acquired x t then some (s.loadReturns l e x v bad) else none
  | .load, .sent =>
    if e.atHome x.ia then none else
    (s.cachedLoad l.core e x).map fun (v, bad, s1) => s1.loadReturns l e x v bad
  | .atomic, .home v bad t => some (s.return_ l v bad (some t))
  | .atomic, .settling t v bad => if s.acquired x t then some (s.return_ l v bad none) else none
  | .atomic, .sent => if e.atHome x.ia || !s.hits l.core e x then none else some (s.atomicReturns l e x)
  | .tld, .home _ bad _ => some (s.tileReturns l bad)
  | .tld, .sent =>
    if e.atHome x.ia || !s.hits l.core e x then none else
    let (s1, bad) := s.tileRead l.core e x
    some (s1.tileReturns l bad)
  | _, _ => none

/-- LOAD_DATA_RETURN. -/
def execLoadDataReturn (l : LaneRef) (s : State) : Out :=
  match s.laneGo l with
  | none => notNow "LOAD_DATA_RETURN"
  | some (e, x) => match s.dataReturns l e x with
    | some t => .next t
    | none => notNow "LOAD_DATA_RETURN"

/-! ## Stores (R121, R131, R146, R177) -/

/-- Hold bytes of a group's store sector by sector. -/
def State.holdRange (s : State) (g : GrpRef) (a : Nat) (bs : List Byte) : Nat → Option State
  | 0 => some s
  | n + 1 =>
    if bs.isEmpty then some s else
    (s.holdStore g.team g.grp false a (bs.take 64)).bind fun s1 => s1.holdRange g (a + 64) (bs.drop 64) n

/-- A store of a checkpointed team enters its buffer (R431, R434); a paired team's full buffer asks for an early end. -/
def State.holdLane (s : State) (l : LaneRef) (e : LogEntry) (x : LogLane) : State :=
  let bs := if e.isTile then (s.core l.core).tilePart e x else leBytes e.bytes x.value.toNat
  match s.holdRange (e.homeGroup x) x.ia bs 4 with
  | some s1 =>
    let rel := fun (iv : Interval) => { iv with releases := iv.releases ++ [(x.ia, e.scope.toNat)] }
    let s2 := if e.order = .rel && e.scope.toNat ≥ 2 then { s1 with intervals := s1.intervals.adjust e.team rel } else s1
    s2.finishLane l none none
  | none => { s with intervals := s.intervals.adjust e.team fun iv => { iv with early := true } }

/-- A store is made in the die L2, and in an L1 copy that the core holds (R121, R131). -/
def State.storeLands (s : State) (l : LaneRef) (e : LogEntry) (x : LogLane) : State :=
  let bs := leBytes e.bytes x.value.toNat
  let (mask, data) := lineOfBytes (x.ia % 256) bs
  let (s1, t) := s.l2Write (dieOf l.core) (lineOf x.ia) mask data
  (s1.l1Store l.core x.ia bs).finishLane l none (some t)

/-- A RED is made in the caches. -/
def State.redLands (s : State) (l : LaneRef) (e : LogEntry) (x : LogLane) : State :=
  let (_, bad, t, s1) := s.cachedAtomic l.core e x
  if bad then s.laneTrap l tUncorrectable else s1.finishLane l none (some t)

/-- A part of a TST is written in the die L2, and in an L1 copy that the core holds. -/
def State.tileLands (s : State) (l : LaneRef) (e : LogEntry) (x : LogLane) : State :=
  let (mask, data) := lineOfBytes 0 ((s.core l.core).tilePart e x)
  let (s1, t) := s.l2Write (dieOf l.core) (lineOf x.ia) mask data
  (s1.l1Write l.core (lineOf x.ia) mask data).finishLane l none (some t)

/-- What the acceptance of a lane's store does, by how far the lane has come; none where it cannot be accepted yet. -/
def State.storeAccepted (s : State) (l : LaneRef) (e : LogEntry) (x : LogLane) : Option State :=
  if s.heldStore e then (if x.stage = .sent then some (s.holdLane l e x) else none) else
  match e.kind, x.stage with
  | .store, .home _ _ t => some (s.finishLane l none (some t))
  | .tst, .home _ _ t => some (s.finishLane l none (some t))
  | .red, .home _ bad t => some (if bad then s.laneTrap l tUncorrectable else s.finishLane l none (some t))
  | .red, .settling t _ bad =>
    if s.acquired x t then some (if bad then s.laneTrap l tUncorrectable else s.finishLane l none none) else none
  | .store, .sent => if e.atHome x.ia || !s.hits l.core e x then none else some (s.storeLands l e x)
  | .red, .sent => if e.atHome x.ia || !s.hits l.core e x then none else some (s.redLands l e x)
  | .tst, .sent => if e.atHome x.ia || !s.hits l.core e x then none else some (s.tileLands l e x)
  | _, _ => none

/-- STORE_COMPLETE: the store is accepted at its place and its completion time returns. -/
def execStoreComplete (l : LaneRef) (s : State) : Out :=
  match s.laneGo l with
  | none => notNow "STORE_COMPLETE"
  | some (e, x) => match s.storeAccepted l e x with
    | some t => .next t
    | none => notNow "STORE_COMPLETE"

/-! ## Pulls and bounds (R179, R181, R183) -/

/-- Note a pull that has been sent in every record of the die that asked for it (R183). -/
def notePull (s : State) (die : Nat) (e : W32) (t : Nat) (x : HomeLine) : HomeLine :=
  match x.recs.find? die with
  | some q => if (q.now s die).asks && q.epoch == e then { x with recs := x.recs.put die ((q.now s die).sent s die e t) } else x
  | none => x

def State.notePulls (s : State) (die : Nat) (e : W32) (t : Nat) : State :=
  { s with homes := s.homes.map fun (k, h) => (k, { h with lines := h.lines.map fun (i, x) => (i, notePull s die e t x) }) }

/-- A record of a die at some home asks for a pull up to an epoch. -/
def State.pullAsked (s : State) (die : Nat) (e : W32) : Bool :=
  s.homes.any fun (_, h) => h.lines.any fun (_, x) => (x.recs.find? die).any fun q => (q.now s die).asks && q.epoch == e

/-- A pull is made at the homes and noted in the records that asked for it. -/
def State.pulled (s : State) (die : Nat) (e : W32) : State :=
  let (s1, t) := s.pull die (some e); s1.notePulls die e t

/-- PULL (R183): a home's pull for an open record of the die. -/
def execPull (die : Nat) (e : W32) (s : State) : Out :=
  if s.pullAsked die e then .next (s.pulled die e) else notNow "PULL"

/-- A record is pulled for its age. -/
def State.agePulled (s : State) (line die : Nat) (e : W32) : State :=
  let (s1, t) := s.pull die (some e)
  s1.setSlice line (notePull s1 die e t (s1.slice line))

/-- HOME_EPOCH_AGE_PULL (R181): 2^28 ns after the release that last raised an open record. -/
def execHomeEpochAgePull (line die : Nat) (s : State) : Out :=
  match (s.slice line).recs.find? die with
  | some q =>
    if (q.now s die).asks && s.time ≥ q.raised + 2 ^ 28 then .next (s.agePulled line die q.epoch)
    else notNow "HOME_EPOCH_AGE_PULL"
  | none => notNow "HOME_EPOCH_AGE_PULL"

/-- DIRTY_BYTE_DEADLINE (R179): the line's dirty bytes leave for their home, at any time up to the deadline. -/
def execDirtyByteDeadline (die line : Nat) (s : State) : Out :=
  if (s.l2 die line).dirty != 0 && !(s.die die).failed then .next (s.cleanL2 die line).1 else notNow "DIRTY_BYTE_DEADLINE"

/-! ## Responses at their filter and stage (R99) -/

/-- The access bit of an entry in its record (R101). -/
def LogEntry.accessBit (e : LogEntry) : BitVec 5 := if e.isAtomic then 4 else if e.isWrite then 2 else 1

/-- A lane of a replay faults again: the entry's replay count rises once for each replay (R103). -/
def LogEntry.counted (e : LogEntry) (n : Nat) : LogEntry :=
  if n = 0 then e
  else { e with replays := e.replays + 1, lanes := e.lanes.map fun x => if x.replay = n then { x with replay := 0 } else x }

/-- A faulted lane is reported: the filter of the core has a place for its granule, and the stage a record. -/
def State.reportLane (s : State) (l : LaneRef) (e : LogEntry) (x : LogLane) (level : Nat) (wp peer : Bool) : Option State :=
  let g := granuleOf x.ia
  let c := s.core l.core
  if !c.filter.contains g && c.filter.length ≥ 32 then none else
  let (s1, ok) := s.report (clusterOrigin l.core)
    { ctx := e.ctx, page := g, level := level, wp := wp, peer := peer, access := e.accessBit, core := coreInCluster l.core, pc := e.pc }
    (.lanes l.core l.entry e.uid g)
  if !ok then none else
  some ((s1.updCore l.core fun c => { c with filter := if c.filter.contains g then c.filter else g :: c.filter }).setEntry_ l.core l.entry
    ({ (e.setLane { x with stage := .reported }).counted x.replay with mode := .faulted }))

/-- What the response of a lane does: a walk's own cause ends the wait (R105), and so does a sixteenth replay that faults
again (R103); else the lane is reported, where its filter and its stage have a place. -/
def State.responds (s : State) (l : LaneRef) (e : LogEntry) (x : LogLane) : Option State :=
  match x.stage with
  | .bad c => some (s.accessFault l.core l.entry c)
  | .resp lv wp peer =>
    if x.replay ≠ 0 ∧ e.replays ≥ 15 then some (s.accessFault l.core l.entry 5) else s.reportLane l e x lv wp peer
  | _ => none

end Sys2Proof.Machine
end

