-- ==== Sys2Proof/Machine/Matrix.lean ====
section
/-! DEFINITION. The plane array (R317 to R343): tile registers and their blocks, musters, tile loads and stores, MMA with its
mates, TCVT, TAMAX, the codebook load (R290) and the completion of tile operations. -/
namespace Sys2Proof.Machine
open Sys2Proof

/-! ## Blocks and tiles -/

/-- Byte `i` of the run of tile registers from `t` on (R324). -/
def Core.tileByte (c : Core) (t i : Nat) : Nat := ((c.tiles.get {} (t + i / 4096)).data.get 0 (i % 4096)).toNat
/-- Bytes given by a function, as sparse data. -/
def bytesSp (n : Nat) (f : Nat → Byte) : Sp Byte := (List.range n).filterMap fun i => if f i = 0 then none else some (i, f i)
/-- Bytes of a run as sparse data. -/
def Core.tileRun (c : Core) (t n : Nat) : Sp Byte := bytesSp (4096 * n) fun i => BitVec.ofNat 8 (c.tileByte t i)
/-- Write the first `n` bytes of a run of tiles. -/
def Core.putRun (c : Core) (t n : Nat) (f : Nat → Byte) : Core :=
  let one := fun (j : Nat) (y : Tile) =>
    { y with data := bytesSp 4096 fun i => if 4096 * j + i < n then f (4096 * j + i) else y.data.get 0 i }
  { c with tiles := (List.range ((n + 4095) / 4096)).foldl (fun m j => Sp.put m (t + j) (one j (m.get {} (t + j)))) c.tiles }
def Core.tagTiles (c : Core) (ts : List Nat) (tag : Tag) (kc : Nat) : Core :=
  { c with tiles := ts.foldl (fun m t => Sp.put m t { m.get {} t with tag := tag, kc := kc }) c.tiles }
def Core.tile (c : Core) (t : Nat) : Tile := c.tiles.get {} t

/-- The 32 matrix operand formats (R249). -/
def mtxFormat (c : Nat) : Bool := isFloatCode c || isCodebook c || isSm c || isNat_ c || c == 0x27

/-- A bit of a plane: element (r, k) at byte 2r + k / 8, bit k mod 8 (R127). -/
def planeBit (f : Nat → Nat) (base r k : Nat) : Nat := f (base + 2 * r + k / 8) / 2 ^ (k % 8) % 2

/-- The code of element (r, k) of a block whose bytes `f` gives (R127, R128). -/
def blockCode (sideB : Bool) (c : Nat) (f : Nat → Nat) (r k : Nat) : Nat :=
  let (mw, sg, eb) := planeDims c
  let i := 16 * r + k
  let mp := if sideB then 256 * ((mw + 7) / 8) else 32 * mw
  let mag := if sideB then (List.range ((mw + 7) / 8)).foldl (fun m j => m + f (256 * j + i) * 2 ^ (8 * j)) 0
    else (List.range mw).foldl (fun m j => m + planeBit f (32 * j) r k * 2 ^ j) 0
  let s := if sg = 1 then planeBit f mp r k else 0
  let e := (List.range eb).foldl (fun m j => m + f (mp + 32 * sg + i * eb + j) * 2 ^ (8 * j)) 0
  if isFloatCode c then s * 2 ^ ((fmtOf c).e + (fmtOf c).m) + e * 2 ^ (fmtOf c).m + mag % 2 ^ (fmtOf c).m
  else if isSm c then s * 2 ^ (intBits c - 1) + mag else mag

/-- Magnitude, sign and exponent field of a code; the hidden bit is 1 whenever the exponent field is not zero (R127). -/
def codeParts (c v : Nat) : Nat × Nat × Nat :=
  if isFloatCode c then
    let (s, e, m) := (fmtOf c).fields v
    ((if e = 0 then m else m + 2 ^ (fmtOf c).m), s.toNat, e)
  else if isSm c then (v % 2 ^ (intBits c - 1), v / 2 ^ (intBits c - 1) % 2, 0) else (v, 0, 0)

/-- Byte `p` of the block whose element (r, k) has code `el (16r + k)` (R127, R128). -/
def blockByte (sideB : Bool) (c : Nat) (el : Nat → Nat) (p : Nat) : Byte :=
  let (mw, sg, eb) := planeDims c
  let mp := if sideB then 256 * ((mw + 7) / 8) else 32 * mw
  let plane := fun (q : Nat) (bit : Nat → Nat) => (List.range 8).foldl (fun m i => m + bit (8 * q + i) * 2 ^ i) 0
  BitVec.ofNat 8 (
    if p < mp then
      if sideB then (codeParts c (el (p % 256))).1 / 2 ^ (8 * (p / 256))
      else plane (p % 32) fun i => (codeParts c (el i)).1 / 2 ^ (p / 32) % 2
    else if p < mp + 32 * sg then plane (p - mp) fun i => (codeParts c (el i)).2.1
    else (codeParts c (el ((p - mp - 32 * sg) / eb))).2.2 / 2 ^ (8 * ((p - mp - 32 * sg) % eb)))

/-- The value of an element, a codebook's index through its table (R254, R269). -/
def mtxValue (c : Nat) (tab : Option (BitVec 256)) (v : Nat) : Val :=
  if isCodebook c then elemValue 0x04 (cbEntry (tab.getD 0) v) else elemValue c v

/-! ## Sums of one chunk (R269 to R271) -/

/-- Truncate n / d toward zero to its bits of weight at least 2^w. -/
def truncAt (w : Int) (n : Int) (d : Nat) : Val :=
  let (sn, sd) := scale2 n.natAbs d (-w)
  let q : Int := sn.toNat / sd
  let (rn, rd) := scale2 (if n < 0 then -q else q) 1 w
  Val.ofRat rn rd false

/-- The sum s of a chunk's products (R269 steps 2 to 4, R270). -/
def chunkSum (L : Nat) (ps : List Val) : Val :=
  if ps.any (· == .nan) then .nan
  else match ps.find? fun p => match p with | .inf _ => true | _ => false with
    | some i => if ps.any fun p => (match p with | .inf b => b != i.neg? | _ => false) then .nan else i
    | none =>
      let top := ps.foldl (fun (o : Option Int) p => match p, o with
        | .num n d, none => some (ilog2 n.natAbs d)
        | .num n d, some e => some (max e (ilog2 n.natAbs d))
        | _, o => o) none
      match top with
      | none => .zero false
      | some E => ps.foldl (fun s p => match p with
          | .num n d => Val.add .rne s (truncAt (E - L) n d)
          | _ => s) (.zero false)

/-- One chunk's step on an accumulator's code, with its counters, each kind at most once (R269 step 5, R270, R271). -/
def chunkStep (acc : Nat) (c : Nat) (as bs : List Val) : Nat × List Nat :=
  let ps := (as.zip bs).map fun (a, b) => Val.mul a b
  if acc = 0x28 then
    let n : Int := ps.foldl (fun s p => match p with | .num n _ => s + n | _ => s) (BitVec.ofNat 32 c).toInt
    let (v, hit) := clampInt (-2 ^ 31) (2 ^ 31 - 1) n
    ((BitVec.ofInt 32 v).toNat, if hit then [cIsat 0x28] else [])
  else
    let (r1, c1) := roundTo acc .rne false 0 (chunkSum (if acc = 0x01 then 111 else 47) ps)
    let (r2, c2) := roundTo acc .rne false 0 (Val.add .rne ((fmtOf acc).value c) ((fmtOf acc).value r1))
    (r2, (c1 ++ c2).eraseDups)

/-- Bytes of an accumulator element. -/
def accWidth (c : Nat) : Nat := if c = 0x01 then 8 else 4
/-- Code of accumulator element `i` (R325). -/
def Core.accElem (c : Core) (t code i : Nat) : Nat :=
  (List.range (accWidth code)).foldl (fun m j => m + c.tileByte t (accWidth code * i + j) * 2 ^ (8 * j)) 0

/-- The effect of an MMA on the accumulator (R338): every element's new code and all counts. -/
def mmaElems (c : Core) (w : TileWork) : List (Nat × List Nat) :=
  match w with
  | .mma td ta tb fa fb fusion kc _ _ tabA tabB _ b =>
    let (M, N, mbA, mbB) := fusionShape fusion
    let quad := fusion == 3
    let code := accCode fa.toNat
    let ab := fun (i : Nat) => c.tileByte ta i
    let bb := match b with
      | some (run, _) => fun (i : Nat) => (run.get 0 i).toNat
      | none => fun (i : Nat) => c.tileByte tb i
    let tB := match b with | some (_, t) => t | none => tabB
    let elemA := fun (blk r k : Nat) => mtxValue fa.toNat tabA (blockCode false fa.toNat (fun i => ab (blk * blockBytes false fa.toNat + i)) r k)
    let elemB := fun (blk k n : Nat) => mtxValue fb.toNat tB (blockCode true fb.toNat (fun i => bb (blk * blockBytes true fb.toNat + i)) k n)
    (List.range (if quad then 1024 else M * N)).map fun i =>
      let q := if quad then i / 256 else 0
      let m := if quad then i % 256 / 16 else i / N
      let n := if quad then i % 16 else i % N
      let jA := if quad then q else m / 16
      let jB := if quad then q else n / 16
      (List.range kc).foldl (fun (v, cs) ch =>
        let as := (List.range 16).map fun k => elemA (ch * mbA + jA) (m % 16) k
        let bs := (List.range 16).map fun k => elemB (ch * mbB + jB) k (n % 16)
        let (v', c') := chunkStep code v as bs
        (v', cs ++ c')) (c.accElem td code i, [])
  | _ => []

/-! ## What every matrix instruction shares -/

/-- Only MATRIX groups issue the matrix class, TLD and TST (R230). -/
def matrixRole (r : Role) : Bool := r == .matrix

/-- Fields of the matrix class that an entry gives no use (R43, R327); an unflagged kernel issues none (R322). -/
def mtxIllegal (x : Issue) (o : Mtx) (second fmt fusion pair var : Bool) : Bool :=
  !x.team.k.plane || (!second && o.second != 0) || (!fmt && o.fmt != 0) || (!fusion && o.fusion != 0) || (!pair && o.pair) ||
    (!var && o.var)

/-- A tile code (R43). -/
def tileCode (c : Src) : Option Nat := match c with
  | .reg n => if n.toNat < 8 then some n.toNat else none
  | _ => none

/-- A tile code of an instruction that has been checked. -/
def tileOf (c : Src) : Nat := (tileCode c).getD 0

/-- Whether a V-set matrix instruction acts (R327). -/
def Issue.acts (x : Issue) : Bool := !x.lanes.isEmpty

/-- Passes of an MMA on each sub-array (R320). -/
def mmaPasses (fa fb : BitVec 6) (kc : Nat) : Nat :=
  let mw := fun (f : BitVec 6) => if isCodebook f.toNat then 8 else (planeDims f.toNat).1
  mw fa * ((mw fb + 7) / 8) * kc
def TileWork.passes : TileWork → Nat
  | .mma _ _ _ fa fb _ kc .. => mmaPasses fa fb kc
  | _ => 0

/-- A new tile operation of the group. -/
def Issue.tileOp (x : Issue) (w : TileWork) : TileOp :=
  let lead := x.grp.lead.getD {}
  { uid := x.s.next, team := x.g.team, grp := x.g.grp, work := w, passes := w.passes, tid := lead.tid, count := lead.retired, seed := x.team.seed }

/-- Queue a tile operation. -/
def Issue.queue (x : Issue) (s : State) (w : TileWork) : State :=
  ({ s with next := s.next + 1 } : State).updCore x.team.core fun c =>
    ({ c with tileOps := c.tileOps ++ [x.tileOp w] } : Core).beginMma x.pre.time

/-- The stall of R326 before an operation issues. -/
def Issue.tileOrder (x : Issue) (reads writes : List Nat) : Except Stop Unit :=
  if x.unit.tilesBusy reads writes then .error (.wait .stalled .tile) else .ok ()

/-- MMA and TCVT operations of a core, at most four (R326). -/
def Core.arrayOps (c : Core) : List TileOp := c.tileOps.filter fun o => match o.work with | .mma .. => true | .tcvt .. => true | _ => false
def Issue.arrayRoom (x : Issue) : Except Stop Unit :=
  if x.unit.arrayOps.length ≥ 4 then .error (.wait .stalled .tile) else .ok ()

/-! ## Musters (R328 to R332) -/

def Team.muster (t : Team) (n : Nat) : Muster := t.musters.get {} n
def Muster.complete (m : Muster) : Bool := decide (m.expected ≥ 1) && m.count == m.expected
def Issue.setMuster (x : Issue) (s : State) (n : Nat) (m : Muster) : State :=
  s.updTeam x.g.team fun t => { t with musters := t.musters.set {} n m }

/-- The muster that an MMA takes opens again at once (R338). -/
def Muster.reopened (m : Muster) : Muster := { m with count := 0, signers := 0, gen := m.gen + 1 }

/-- Of the groups whose MMA waits for a muster, the one that has waited longest, the lowest slot among equals. -/
def Team.musterTaker (t : Team) (n : Nat) : Option (Nat × Nat) :=
  t.groups.foldl (fun (o : Option (Nat × Nat)) ((k, g) : Nat × Group) =>
    if g.wait != .muster n true then o else match o with
    | none => some (g.since, k)
    | some p => if g.since < p.1 then some (g.since, k) else o) none

/-- A muster has become complete: the waits of MWAIT are over (R332), and the MMA that has waited longest takes it at once (R338). -/
def Team.musterDone (t : Team) (n now : Nat) : Team :=
  let taker := t.musterTaker n
  let go := fun ((k, g) : Nat × Group) =>
    if g.wait = .muster n false then (k, g.decided now)
    else if taker.any fun p => p.2 == k then (k, { g.wake now with drained := g.ipc :: g.drained })
    else (k, g)
  { t with groups := t.groups.map go, musters := if taker.isSome then t.musters.put n (t.muster n).reopened else t.musters }
def State.wakeMuster (s : State) (id n : Nat) : State := s.updTeam id fun t => t.musterDone n s.time

/-- A muster number in a field. -/
def musterBad (c : Src) : Bool := decide (c.code.toNat > 0x0F)

/-- The expected count that MSET sets (R329). -/
def msetCount (o : Mtx) (x : Issue) : Nat := (x.read groupThread o.b 0).toNat

/-- What MSET asks for (R55). -/
def msetPlan (o : Mtx) : Plan :=
  { u := true, h := o.h, illegal := fun x => mtxIllegal x o false false false false false || o.d != 0, srcs := [(o.b, 1)],
      operand := fun _ => musterBad o.a, role := matrixRole,
      judged := [{ src := (o.b, 1), operand := fun x => decide (msetCount o x = 0) || decide (msetCount o x > 64) }] }

/-- MSET (R329). -/
def execMset (o : Mtx) : State → Out :=
  program (.mset o) (msetPlan o) fun x =>
    let n := o.a.code.toNat
    let m := x.team.muster n
    .ok (x.seq (if x.selected then x.setMuster x.s n { expected := msetCount o x, count := 0, signers := 0, gen := m.gen + 1 } else x.s))

/-- What MSIGN asks for (R55). -/
def msignPlan (o : Mtx) : Plan :=
  { u := false, h := o.h, illegal := fun x => mtxIllegal x o false false false false false || o.d != 0,
      operand := fun _ => musterBad o.a, role := matrixRole }

/-- A muster that takes no signature from a group: none set, complete, or signed by it already (R330). -/
def musterShut (m : Muster) (grp : Nat) : Bool := m.expected == 0 || m.complete || m.signers.getLsbD grp
/-- A group of the tile file has operations outstanding (R330). -/
def Issue.tilesOut (x : Issue) : Bool := x.unit.tileOps.any fun p => p.team == x.g.team && p.grp == x.g.grp

/-- The signature of the issuing group; the one that completes the muster wakes its waiters (R330). -/
def msignEffect (n : Nat) (x : Issue) : State :=
  let m := x.team.muster n
  let m' := { m with count := m.count + 1, signers := m.signers ||| (1 <<< x.g.grp) }
  let s1 := x.setMuster x.s n m'
  if m'.complete then s1.wakeMuster x.g.team n else s1

/-- MSIGN (R330). -/
def execMsign (o : Mtx) : State → Out :=
  program (.msign o) (msignPlan o) fun x =>
    if !x.acts then .ok (x.seq x.s)
    else if x.tilesOut then .error (.wait .stalled .tile)
    else if musterShut (x.team.muster o.a.code.toNat) x.g.grp then .error (.trap tMusterMismatch)
    else .ok (x.seq (msignEffect o.a.code.toNat x))

/-- What MSTAT asks for (R55). -/
def mstatPlan (o : Mtx) : Plan :=
  let d := match o.a with | .reg n => n.toNat | _ => 0
  { u := true, h := o.h, illegal := fun x => mtxIllegal x o false false false false false || o.d != 0, dsts := [(d, 1)],
      operand := fun _ => musterBad o.b || (match o.a with | .reg _ => false | _ => true), role := matrixRole }

/-- The word of MSTAT: the team's array operations, the muster's generation, completion, count and expectation (R331). -/
def mstatWord (n : Nat) (x : Issue) : W32 :=
  let m := x.team.muster n
  BitVec.ofNat 32 ((x.unit.arrayOps.filter fun p => p.team == x.g.team).length * 2 ^ 24 + m.gen.toNat * 2 ^ 16 + m.complete.toNat * 2 ^ 15
    + m.count * 2 ^ 8 + m.expected)

/-- The register that a matrix instruction names in its a field. -/
def regOf (c : Src) : Nat := match c with | .reg n => n.toNat | _ => 0

/-- MSTAT (R331): a is the destination. -/
def execMstat (o : Mtx) : State → Out :=
  program (.mstat o) (mstatPlan o) fun x =>
    .ok (x.seq (x.s.updGroup x.g fun g => g.writeU false x.selected (regOf o.a) 1 [mstatWord o.b.code.toNat x]))

/-- What MWAIT asks for (R55). -/
def mwaitPlan (o : Mtx) : Plan :=
  let mode := o.b.code.toNat
  { u := false, h := o.h,
      illegal := fun x => mtxIllegal x o false false false false false || mode > 2 || (mode != 0 && o.d != 0),
      operand := fun _ => mode = 2 && musterBad o.a, role := matrixRole }

/-- What MWAIT waits for is there: the muster complete, or the earlier tile operations done (R332). -/
def mwaitDone (o : Mtx) (x : Issue) : Bool :=
  if o.b.code = 2 then x.grp.agreed == some x.grp.pc || (x.team.muster o.a.code.toNat).complete
  else x.grp.once || !x.unit.tileLeft x.s.next (if o.b.code = 0 then some o.d.toNat else none)

/-- The wait of MWAIT. -/
def mwaitStop (o : Mtx) (x : Issue) : Stop :=
  if o.b.code = 2 then .wait .barrier (.muster o.a.code.toNat false)
  else .wait .stalled (.tiles x.s.next (if o.b.code = 0 then some o.d.toNat else none))

/-- MWAIT (R332). -/
def execMwait (o : Mtx) : State → Out :=
  program (.mwait o) (mwaitPlan o) fun x =>
    if !x.acts || mwaitDone o x then .ok (x.seq x.s) else .error (mwaitStop o x)

/-! ## Tile loads and stores (R333, R334) -/

/-- Base and offset of TLD and TST: broadcast codes only. -/
def tmemPlan (o : Tmem) (load : Bool) : Plan :=
  let tag := o.tag.toNat
  let acc := tag == 0x02 || tag == 0x01 || tag == 0x28
  { u := false, h := o.h, role := matrixRole, srcs := (o.a, if o.space = 0 then 2 else 1) :: if o.b = .zero then [] else [(o.b, 1)],
    illegal := fun x => !x.team.k.plane || o.space == 3 ||
      (if load then !(mtxFormat tag || tag == 0x28) || (acc && o.kc != 0) else tag != 0 || o.kc != 0),
    operand := fun _ => (match o.a with | .bcast _ => false | _ => true) || (match o.b with | .bcast _ => false | .zero => false | _ => true) }

/-- The address: a signed 32-bit offset on the base. -/
def tmemAddr (x : Issue) (o : Tmem) : Nat :=
  let off : Int := if o.b = .zero then 0 else (x.read groupThread o.b 0).toInt
  if o.space = 0 then x.globalAddr groupThread o.a off else x.localAddr groupThread o.a off

/-- A range of array bytes on the team's own core: scratchpad local form, or its TENSOR slice (R84, R126, R334). -/
def tileRange (x : Issue) (tensor : Bool) (a : Nat) : Except Stop Nat :=
  let c := x.unit
  if tensor then
    if a % 32 = 0 && a + 4096 ≤ c.tensorBytes then .ok (c.tensorBase x.team.slice + a) else .error (.trap (tWindow 5 a none))
  else if a % 32 != 0 then .error (.trap (tAlignment a none))
  else if a + 4096 ≤ c.scratchBytes then .ok (c.scratchBase x.team.slice + a) else .error (.trap (tWindow 5 a none))

/-- The global form's checks (R67, R334): the whole range in the window of its first byte, and the intermediate addresses of its
sixteen lines. The cause of a range that leaves its window is that of R67's fifth check, which names engine ranges (log 75). -/
def tileGlobal (x : Issue) (a perm : Nat) : Except Stop (List Nat) :=
  match checkGlobal x.context.windows a 256 perm with
  | .error (_, t) => .error (.trap t)
  | .ok _ =>
    match hitWindow x.context.windows a with
    | some w =>
      if a + 4096 ≤ winWord w 1 then .ok ((List.range 16).map fun i => translate w (a + 256 * i))
      else .error (.trap (tWindow 4 a none))
    | none => .error (.trap (tWindow 2 a none))

/-- The lane of slot 0 of a global tile access, kept as its sixteen lines (R334, log 76). -/
def tileEntry (x : Issue) (kind : AccessKind) (t : Nat) (ias : List Nat) : LogEntry :=
  { x.entry kind 256 with d := t, lanes := ias.zipIdx.map fun (ia, i) =>
      { lane := i, tid := (x.grp.lead.map (·.tid)).getD 0, ia := ia, sent := x.pre.time } }

/-- A test that ends the instruction in a trap. -/
def refuse (bad : Bool) (tr : Trap) : Except Stop Unit := if bad then .error (.trap tr) else .ok ()

/-- The range of a global tile access, none of it locked (R148, R334). -/
def tileReach (x : Issue) (o : Tmem) (perm : Nat) (write : Bool) : Except Stop (List Nat) :=
  (tileGlobal x (tmemAddr x o) perm).bind fun ias =>
    (refuse (ias.any fun ia => x.s.rangeHit x.die .global ia 256 write) (tRangeLock (tmemAddr x o) none)).map fun _ => ias

/-- The tag and chunk count that a TLD gives its tile (R333). -/
def tldTagged (x : Issue) (o : Tmem) (s : State) : State :=
  s.updCore x.team.core fun c => c.tagTiles [o.d.toNat] (mkTag o.tag.toNat 0) (o.kc.toNat + 1)

/-- A global TLD or TST in entry i, with its tile operation. -/
def tileLogged (x : Issue) (o : Tmem) (store : Bool) (i : Nat) (ias : List Nat) : State :=
  (x.enterLog i (tileEntry x (if store then .tst else .tld) o.d.toNat ias)).updCore x.team.core fun c =>
    { c with tileOps := c.tileOps ++ [x.tileOp (.logged o.d.toNat store)] }

/-- A local TLD: the bytes that the place holds now (R334). -/
def tldLocal (x : Issue) (o : Tmem) (b : Nat) : State :=
  tldTagged x o (x.queue x.s (.tld o.d.toNat (bytesSp 4096 fun i => readByte x.s.mem (arrayAt x.team.core b + i))))

/-- A local TST: the store is made at issue, after every earlier writer of the tile (R334). -/
def tstLocal (x : Issue) (o : Tmem) (b : Nat) : State :=
  let bs := (List.range 4096).map fun i => BitVec.ofNat 8 (x.unit.tileByte o.d.toNat i)
  (x.queue { x.s with mem := writeBytes x.s.mem (arrayAt x.team.core b) bs } (.tst o.d.toNat)).updGroup x.g fun g => g.raise x.s.time

/-- Take an entry for a global tile access. -/
def tileTake (x : Issue) (o : Tmem) (store : Bool) (ias : List Nat) : Except Stop State :=
  match x.freeEntry with
  | none => .error (.wait .stalled .logEntry)
  | some i => .ok (tileLogged x o store i ias)

/-- TLD (R333, R334). -/
def execTld (o : Tmem) : State → Out :=
  program (.tld o) (tmemPlan o true) fun x =>
    if !x.acts then .ok (x.seq x.s) else
    if o.space = 0 then
      (tileReach x o permR false).bind fun ias => x.gate.bind fun _ => (x.tileOrder [] [o.d.toNat]).bind fun _ =>
      (tileTake x o false ias).map fun s1 => x.seq (tldTagged x o s1)
    else
      (tileRange x (o.space == 2) (tmemAddr x o)).bind fun b => x.gate.bind fun _ => (x.tileOrder [] [o.d.toNat]).bind fun _ =>
      if !x.s.present x.team.core b 4096 then .error (.wait .parked .presence) else .ok (x.seq (tldLocal x o b))

/-- A local tile store meets a line that is not present, or a registered source (R124). -/
def tstLocked (x : Issue) (b : Nat) : Bool := !x.s.present x.team.core b 4096 || x.s.sourceHit x.team.core b 4096

/-- TST (R333, R334). -/
def execTst (o : Tmem) : State → Out :=
  program (.tst o) (tmemPlan o false) fun x =>
    if !x.acts then .ok (x.seq x.s) else
    if o.space = 0 then
      (tileReach x o permW true).bind fun ias => x.gate.bind fun _ => (x.tileOrder [o.d.toNat] []).bind fun _ =>
      (tileTake x o true ias).map fun s1 => x.seq s1
    else
      (tileRange x (o.space == 2) (tmemAddr x o)).bind fun b =>
      (refuse (tstLocked x b) (tRangeLock (tmemAddr x o) none)).bind fun _ =>
      x.gate.bind fun _ => (x.tileOrder [o.d.toNat] []).map fun _ => x.seq (tstLocal x o b)

/-! ## TZERO, TCVT and TAMAX (R335, R341, R342) -/

/-- What TZERO asks for (R55). -/
def tzeroPlan (o : Mtx) : Plan :=
  let n := if o.fmt = 0x01 then 2 else 1
  { u := false, h := o.h, role := matrixRole,
      illegal := fun x => mtxIllegal x o false true false false false || !(o.fmt == 0x01 || o.fmt == 0x02 || o.fmt == 0x28),
      operand := fun _ => o.d.toNat % n != 0 }

/-- Tiles that TZERO clears: a pair for F64 (R335). -/
def tzeroTiles (o : Mtx) : Nat := if o.fmt = 0x01 then 2 else 1

/-- The queued TZERO, and the tags that its tiles take at once. -/
def tzeroEffect (o : Mtx) (x : Issue) : State :=
  (x.queue x.s (.tzero o.d.toNat (tzeroTiles o))).updCore x.team.core fun c => c.tagTiles (tilesFrom o.d.toNat (tzeroTiles o)) (mkTag o.fmt.toNat 0) 1

/-- TZERO (R335). -/
def execTzero (o : Mtx) : State → Out :=
  program (.tzero o) (tzeroPlan o) fun x =>
    if !x.acts then .ok (x.seq x.s) else
    (x.tileOrder [] (tilesFrom o.d.toNat (tzeroTiles o))).map fun _ => x.seq (tzeroEffect o x)

/-- Accumulator tags (R323, R341). -/
def accTag (t : Tag) : Bool := t == mkTag 0x02 0 || t == mkTag 0x28 0 || t == mkTag 0x01 0

/-- The tag of an accumulator source: it must be one, and both registers of an F64 pair must agree (R247). -/
def accCheck (x : Issue) (t : Nat) : Except Stop Unit :=
  let a := (x.unit.tile t).tag
  if !accTag a then .error (.trap (tFormatMismatch a.toNat))
  else if tagCode a = 0x01 && (x.unit.tile (t + 1)).tag != a then .error (.trap (tFormatMismatch (x.unit.tile (t + 1)).tag.toNat))
  else .ok ()

/-- Number of a rounding mode, for a queued operation. -/
def Rm.no : Rm → Nat
  | .rne => 0 | .rz => 1 | .rd => 2 | .ru => 3 | .rs => 4
def rmNo (n : Nat) : Rm := rmOfFpmode (BitVec.ofNat 3 n)

/-- The rnd field of TCVT (R39, R341). -/
def rndBits (b : BitVec 2) : Rnd := if b = 0 then .rne else if b = 1 then .rz else if b = 2 then .rs else .dyn

/-- What TCVT asks for (R55). -/
def tcvtPlan (o : Mtx) : Plan :=
  let dst := o.fmt.toNat
  let rnd := rndBits (o.second.extractLsb' 0 2)
  let src := fun (x : Issue) => tagCode (x.unit.tile (tileOf o.a)).tag
  let isInt := !(isFloatCode dst)
  { u := false, h := o.h, role := matrixRole, srcs := if o.b = .zero then [] else [(o.b, 1)],
      illegal := fun x => mtxIllegal x o true true true false true || o.fusion.toNat ≥ 3 || !mtxFormat dst || isCodebook dst ||
        o.second.toNat ≥ 8 || ((tileCode o.a).isSome && dst == 0x01 && src x != 0x01) || (rnd == .dyn && isInt && x.team.fpmode == 4),
      operand := fun x => (match o.b with | .bcast _ => false | .zero => false | _ => true) || (tileCode o.a).isNone ||
        (match tcvtSpan o.var o.fusion.toNat o.fmt with
         | none => true
         | some n => o.d.toNat % n != 0 || (tilesFrom o.d.toNat n).any fun t => (accTiles (tileOf o.a) (src x)).contains t) ||
        (src x == 0x01 && tileOf o.a % 2 == 1) }

/-- The queued form of a TCVT. -/
def tcvtWork (o : Mtx) (x : Issue) : TileWork :=
  .tcvt o.d.toNat (tileOf o.a) (BitVec.ofNat 6 (tagCode (x.unit.tile (tileOf o.a)).tag)) o.fmt o.var o.fusion.toNat
    (x.rm (rndBits (o.second.extractLsb' 0 2))).no (o.second.getLsbD 2) (if o.b = .zero then none else some (x.read groupThread o.b 0))

/-- The queued TCVT, and the tags that its tiles take at once. -/
def tcvtEffect (o : Mtx) (x : Issue) : State :=
  (x.queue x.s (tcvtWork o x)).updCore x.team.core fun c =>
    c.tagTiles (tcvtWork o x).writes (mkTag o.fmt.toNat 0) (tcvtShape o.var o.fusion.toNat).2

/-- TCVT (R341). -/
def execTcvt (o : Mtx) : State → Out :=
  program (.tcvt o) (tcvtPlan o) fun x =>
    (accCheck x (tileOf o.a)).bind fun _ =>
    if !x.acts then .ok (x.seq x.s) else
    (x.tileOrder (tcvtWork o x).reads (tcvtWork o x).writes).bind fun _ => x.arrayRoom.map fun _ => x.seq (tcvtEffect o x)

/-- The blocks that a TCVT writes: its bytes in order, and the counts of its elements (R341). -/
def tcvtBlocks (c : Core) (p : TileOp) : (Nat → Byte) × Nat × List Nat :=
  match p.work with
  | .tcvt _ ta src dst sideB fusion mode sat scale =>
    let (_, N, _, _) := fusionShape fusion
    let (mb, kc) := tcvtShape sideB fusion
    let bs := blockBytes sideB dst.toNat
    let sigma := match scale with | some w => f32Value w | none => .num 1 1
    let els := (List.range (mb * kc)).map fun b =>
      (List.range 256).map fun i =>
        let (r, q) := (i / 16, i % 16)
        let (m, n) := if sideB then (16 * (b / mb) + r, 16 * (b % mb) + q) else (16 * (b % mb) + r, 16 * (b / mb) + q)
        let v := elemValue src.toNat (c.accElem ta src.toNat (m * N + n))
        convert dst.toNat (rmNo mode) sat (stochBits p.seed p.tid p.count (16 * m + n)) (Val.div v sigma)
    let byte := fun (i : Nat) => blockByte sideB dst.toNat (fun j => (((els.getD (i / bs) []).getD j (0, [])).1)) (i % bs)
    (byte, mb * kc * bs, els.flatMap fun l => l.flatMap (·.2))
  | _ => (fun _ => 0, 0, [])

/-- What TAMAX asks for (R55). -/
def tamaxPlan (o : Mtx) : Plan :=
  let vd := match o.a with | .reg n => n.toNat | _ => 0
  let src := fun (x : Issue) => tagCode (x.unit.tile o.d.toNat).tag
  { u := false, h := o.h, role := matrixRole, dsts := [(vd, 1)],
      illegal := fun x => mtxIllegal x o false false true false false || o.fusion.toNat ≥ 4,
      operand := fun x => o.fusion == 3 || decide (o.b.code.toNat > 2) || (match o.a with | .reg _ => false | _ => true) ||
        (src x == 0x01 && o.d.toNat % 2 == 1) }

/-- The queued form of a TAMAX (R342): d is the source tile and a the destination register. -/
def tamaxWork (o : Mtx) (x : Issue) : TileWork :=
  .tamax o.d.toNat (regOf o.a) (BitVec.ofNat 6 (tagCode (x.unit.tile o.d.toNat).tag)) o.fusion.toNat o.b.code.toNat (x.lanes.map (·.lane))

/-- The queued TAMAX, its destination pending on it. -/
def tamaxEffect (o : Mtx) (x : Issue) : State :=
  (x.queue x.s (tamaxWork o x)).updGroup x.g fun g => g.expect false false (regOf o.a) 1 (mkTag 0x02 0) (some x.s.next)

/-- TAMAX (R342). -/
def execTamax (o : Mtx) : State → Out :=
  program (.tamax o) (tamaxPlan o) fun x =>
    (accCheck x o.d.toNat).bind fun _ =>
    if !x.acts then .ok (x.seq (x.s.updGroup x.g fun g => g.writeV false (regOf o.a) 1 (mkTag 0x02 0) [])) else
    (x.tileOrder (tamaxWork o x).reads (tamaxWork o x).writes).map fun _ => x.seq (tamaxEffect o x)

/-- The results of a TAMAX by lane. -/
def tamaxRes (c : Core) (w : TileWork) : List (Nat × Nat × List Nat) :=
  match w with
  | .tamax ta _ src fusion mode lanes =>
    let (M, N, _, _) := fusionShape fusion
    let v := fun (i : Nat) => elemValue src.toNat (c.accElem ta src.toNat i)
    let top := fun (is : List Nat) => is.foldl (fun m i => Val.maxAbs m (v i)) (.zero false)
    lanes.map fun l =>
      let set := if mode = 0 then List.range (M * N)
        else if mode = 1 then (if l < M then (List.range N).map (l * N + ·) else [])
        else if l < N then (List.range M).map fun m => m * N + l else []
      let (r, cs) := roundTo 0x02 .ru false 0 (top set)
      (l, r, cs)
  | _ => []

/-! ## MMA (R336 to R340) -/

/-- The formats of an MMA: B is A's where one format is named (R336). -/
def mmaFb (o : Mtx) : BitVec 6 := if o.second = 0 then o.fmt else o.second
/-- An R321 pair. -/
def mmaPair (fa fb : Nat) : Bool :=
  let fl := fun (c : Nat) => isFloatCode c || isCodebook c
  mtxFormat fa && mtxFormat fb && fl fa == fl fb && ((fa == 0x01) == (fb == 0x01))

/-- The upper mate does not check or read its B operand under PAIR (R319, R337). -/
def mmaUpper (x : Issue) (o : Mtx) : Bool := o.pair && coreInCluster x.team.core / 4 % 2 == 1

/-- An MMA whose muster is still to complete makes the checks that read tiles once it is (log 12). -/
def mmaReady (x : Issue) (o : Mtx) : Bool := !o.var || x.grp.once || (x.team.muster o.d.toNat).complete

/-- Spans of the operands by the chunk count of the A tile; none where one cannot be met. -/
def mmaSpans (x : Issue) (o : Mtx) : Option (Nat × Nat) :=
  let kc := (x.unit.tile (tileOf o.a)).kc
  let (_, _, mbA, mbB) := fusionShape o.fusion.toNat
  (tileSpan (mbA * kc * blockBytes false o.fmt.toNat)).bind fun a =>
    if mmaUpper x o then some (a, 0) else (tileSpan (mbB * kc * blockBytes true (mmaFb o).toNat)).map fun b => (a, b)

/-- ILLEGAL_OPERAND of R337 that reads tiles. -/
def mmaSpanBad (x : Issue) (o : Mtx) : Bool :=
  match mmaSpans x o with
  | none => true
  | some (a, b) =>
    let acc := accTiles o.d.toNat (accCode o.fmt.toNat)
    tileOf o.a % a != 0 || (b != 0 && tileOf o.b % b != 0) ||
      acc.any fun t => (tilesFrom (tileOf o.a) a).contains t || (tilesFrom (tileOf o.b) b).contains t

/-- The first tag of an operand's span that fails (R247, R337). -/
def mmaTagFail (x : Issue) (t n f kc : Nat) : Option Nat :=
  let c := x.unit
  (tilesFrom t n).findSome? fun r =>
    let y := c.tile r
    if tagCode y.tag != f || y.tag != (c.tile t).tag || y.kc != kc ||
        (if isCodebook f then (c.codebooks.get none (tagAux y.tag)).isNone else tagAux y.tag != 0) then some y.tag.toNat else none

def mmaFormats (x : Issue) (o : Mtx) : Except Stop Unit :=
  let kc := (x.unit.tile (tileOf o.a)).kc
  let (a, b) := (mmaSpans x o).getD (1, 1)
  let acc := mkTag (accCode o.fmt.toNat) 0
  match ((mmaTagFail x (tileOf o.a) a o.fmt.toNat kc).orElse fun _ => mmaTagFail x (tileOf o.b) b (mmaFb o).toNat kc).orElse fun _ =>
      (accTiles o.d.toNat (accCode o.fmt.toNat)).findSome? fun r =>
        if (x.unit.tile r).tag != acc then some (x.unit.tile r).tag.toNat else none with
  | some t => .error (.trap (tFormatMismatch t))
  | none => .ok ()

/-- The codebook of a tile's tag, when its format is one (R254). -/
def tileTable (c : Core) (t f : Nat) : Option (BitVec 256) := if isCodebook f then c.codebooks.get none (tagAux (c.tile t).tag) else none

/-- The queued form of an MMA. -/
def mmaWork (x : Issue) (o : Mtx) : TileWork :=
  .mma o.d.toNat (tileOf o.a) (tileOf o.b) o.fmt (mmaFb o) o.fusion.toNat (x.unit.tile (tileOf o.a)).kc o.pair (mmaUpper x o)
    (tileTable x.unit (tileOf o.a) o.fmt.toNat) (tileTable x.unit (tileOf o.b) (mmaFb o).toNat) none none

/-- An MMA stalls at its issue: the order of its tiles, the array's queue (R326), or, before a paired one signs, an array that is not idle:
both mates begin their passes in the cycle that the signatures fix (R339; log 100). -/
def mmaStalls (x : Issue) (o : Mtx) : Bool :=
  x.unit.tilesBusy (mmaWork x o).reads (mmaWork x o).writes || x.unit.arrayOps.length ≥ 4 ||
    (o.pair && (x.unit.mate.isSome || !x.unit.arrayOps.isEmpty))

/-- The signature of a paired MMA, queued with it (R339). -/
def mmaSign (x : Issue) (o : Mtx) (pre : State) : State :=
  let p : TileOp := { x.tileOp (mmaWork x o) with uid := pre.next }
  ({ pre with next := pre.next + 1 } : State).updCore x.team.core fun c =>
    { c with tileOps := c.tileOps ++ [p], mate := some (pre.time, x.g, pre.next) }

/-- The order of R326 and the queue, then the operation; under PAIR the signature, and the wait for the mate (R339). -/
def mmaGo (x : Issue) (o : Mtx) (pre base : State) : Except Stop State :=
  if mmaStalls x o then .error (x.hold pre .tile)
  else if o.pair then .error (x.hold (mmaSign x o pre) .mate .barrier)
  else .ok (x.seq (x.queue base (mmaWork x o)))

/-- The muster that an MMA names opens again as the MMA takes it (R337). -/
def mmaReopen (x : Issue) (o : Mtx) (s : State) : State :=
  x.setMuster s o.d.toNat (x.team.muster o.d.toNat).reopened

/-- What MMA asks for (R55). -/
def mmaPlan (o : Mtx) : Plan :=
  { u := false, h := o.h, role := matrixRole,
      illegal := fun x => mtxIllegal x o true true true true true || o.fusion.toNat ≥ 4 || !mmaPair o.fmt.toNat (mmaFb o).toNat ||
        (o.pair && (!o.var || o.fusion == 3)),
      operand := fun x => (tileCode o.a).isNone || (tileCode o.b).isNone || (accCode o.fmt.toNat = 0x01 && o.d.toNat % 2 == 1) ||
        (mmaReady x o && mmaSpanBad x o) }

/-- An MMA takes its muster at this issue: it names one, and has not taken it at an earlier one. -/
def mmaTakes (x : Issue) (o : Mtx) : Bool := o.var && !x.grp.once

/-- MMA (R336 to R339). -/
def execMma (o : Mtx) : State → Out :=
  program (.mma o) (mmaPlan o) fun x =>
    if x.grp.agreed = some x.grp.pc then .ok (x.seq x.s)
    else if !mmaReady x o then (if x.acts then .error (.wait .barrier (.muster o.d.toNat true)) else .ok (x.seq x.s))
    else (mmaFormats x o).bind fun _ =>
      if !x.acts then .ok (x.seq x.s)
      else if mmaTakes x o then mmaGo x o ((mmaReopen x o x.pre).updGroup x.g Group.markOnce) (mmaReopen x o x.s)
      else mmaGo x o x.pre x.s

/-- What a signature carries (R339): formats, fusion, chunk count; the accumulator tag follows from the A format. -/
def TileWork.signature : TileWork → Option (BitVec 6 × BitVec 6 × Nat × Nat)
  | .mma _ _ _ fa fb fusion kc .. => some (fa, fb, fusion, kc)
  | _ => none
def Core.opOf (c : Core) (uid : Nat) : Option TileOp := c.tileOps.find? fun p => p.uid == uid

/-- Start a paired operation at a package time, the upper one with the lower one's B operand (R319, R339). -/
def startPair (c low : Core) (uid lowUid at_ : Nat) : Core :=
  let set := fun (p : TileOp) => if p.uid = uid then
      match p.work with
      | .mma td ta tb fa fb f kc pair upper tA tB _ _ =>
        let b := if upper then (low.opOf lowUid).bind fun q => match q.work with
            | .mma _ _ tbl _ fbl fl kl _ _ _ tBl _ _ => some (low.tileRun tbl (spanB fbl fl kl), tBl)
            | _ => none
          else none
        { p with work := .mma td ta tb fa fb f kc pair upper tA tB (some at_) b }
      | _ => p
    else p
  ({ c with tileOps := c.tileOps.map set, mate := none } : Core).beginMma 0

/-- Both mates start once each has gone 16 cycles past the later signature; their groups go on (R339). -/
def State.startMates (s : State) (core : Nat) (a b : Nat × GrpRef × Nat) : State :=
  let m := mateOf core
  let (t1, g1, u1) := a
  let (t2, g2, u2) := b
  let at_ := max t1 t2 + nsOf (s.classOf core) 16
  let (lo, ulo) := if coreInCluster core / 4 % 2 = 0 then (core, u1) else (m, u2)
  let low := s.core lo
  let s1 := (s.setCore core (startPair (s.core core) low u1 ulo at_)).setCore m (startPair (s.core m) low u2 ulo at_)
  (s1.updGroup g1 (·.decided s.time)).updGroup g2 (·.decided s.time)

/-- The launch of a group's team. -/
def State.launchOf (s : State) (g : GrpRef) : Option Nat := (s.teams.find? g.team).map (·.launch)
/-- What a core's operation signs (R339). -/
def State.signed (s : State) (core uid : Nat) : Option (BitVec 6 × BitVec 6 × Nat × Nat) := ((s.core core).opOf uid).bind fun p => p.work.signature

/-- MATE_AGREEMENT (R339): both mates have signed. -/
def execMateAgreement (core : Nat) (s : State) : Out :=
  match (s.core core).mate, (s.core (mateOf core)).mate with
  | some a, some b =>
    if s.launchOf a.2.1 != s.launchOf b.2.1 then notNow "MATE_AGREEMENT"
    else if s.signed core a.2.2 != s.signed (mateOf core) b.2.2 then
      .next (s.raiseTrap a.2.1 { tMusterMismatch with also := [b.2.1.team] })
    else .next (s.startMates core a b)
  | _, _ => notNow "MATE_AGREEMENT"

/-- PAIR_TIMEOUT (R340): 2^16 cycles after a signature with none from the mate. -/
def execPairTimeout (core : Nat) (s : State) : Out :=
  match (s.core core).mate with
  | none => notNow "PAIR_TIMEOUT"
  | some (t, g, _) =>
    let signed := (s.core (mateOf core)).mate.any fun m => s.launchOf m.2.1 == s.launchOf g
    if cyclesOf (s.classOf core) (s.time - t) < 2 ^ 16 || signed then notNow "PAIR_TIMEOUT" else
    let mine := (s.teams.find? g.team).map (·.launch)
    let other := s.teams.filter fun (_, u) => u.core == mateOf core && u.k.plane && some u.launch == mine && u.mode != .stopped
    .next (s.raiseTrap g { tPairTimeout with also := other.map (·.1) })

/-! ## Completion (R326, R338) -/

/-- Take an operation out of the queue and wake what waits. -/
def State.endTile (s : State) (core uid : Nat) : State :=
  (s.updCore core fun c => ({ c with tileOps := c.tileOps.filter fun o => o.uid != uid } : Core).beginMma s.time).wakeTiles core

/-- What a tile operation other than an MMA leaves; none where the operation is of another kind. -/
def State.tileDone (s : State) (core uid : Nat) (p : TileOp) : Option State :=
  let c := s.core core
  match p.work with
  | .tcvt td .. =>
    let (byte, n, cs) := tcvtBlocks c p
    some (((s.setCore core (c.putRun td n byte)).count p.team cs).endTile core uid)
  | .tzero td n => some ((s.setCore core (c.putRun td (4096 * n) fun _ => 0)).endTile core uid)
  | .tld td data => some ((s.setCore core (c.putRun td 4096 fun i => data.get 0 i)).endTile core uid)
  | .tst _ => some (s.endTile core uid)
  | .tamax _ v .. =>
    let rs := tamaxRes c p.work
    let fill := fun (l : List Latch) => l.map fun y => if y.pend.any fun q => q.1 == uid then
      { y with vals := rs.foldl (fun m (i, r, _) => Sp.set 0 m i (BitVec.ofNat 32 r)) y.vals } else y
    let r : GrpRef := { team := p.team, grp := p.grp }
    let s1 := s.updGroup r fun g =>
      let free := fun (who : Nat) => !g.superseded.contains (uid, v, who)
      let put := fun (t : Thread) => match rs.find? fun r => r.1 == t.lane && free t.tid with
        | some (_, r, _) => t.setReg v (BitVec.ofNat 32 r)
        | none => t
      let g1 := { g with x := fill g.x, threads := g.threads.map put }
      (if free 2048 then g1.setTag v (mkTag 0x02 0) else g1).settleAccess uid
    let s2 := s1.wakeTeam p.team fun _ g => decide (g.wait = .latch uid) || decide (g.wait = .reg uid)
    some ((s2.count p.team (rs.flatMap (·.2.2))).endTile core uid)
  | _ => none

/-- TILE_OPERATION_COMPLETE: a TCVT, TZERO, TAMAX or local TLD or TST ends. -/
def execTileOperationComplete (core uid : Nat) (s : State) : Out :=
  match (s.core core).opOf uid with
  | none => notNow "TILE_OPERATION_COMPLETE"
  | some p => match s.tileDone core uid p with
    | some t => .next t
    | none => notNow "TILE_OPERATION_COMPLETE"

/-- The results of an MMA in its accumulator; none while its passes run (R320, R339). -/
def State.mmaDone (s : State) (core : Nat) (p : TileOp) : Option State :=
  match p.work, p.begun with
  | .mma td _ _ fa .., some b =>
    if p.charged + s.passCycles core b < p.passes then none else
    let s0 := s.chargePasses core
    let c := s0.core core
    let els := mmaElems c p.work
    let w := accWidth (accCode fa.toNat)
    let byte := fun (i : Nat) => BitVec.ofNat 8 ((els.getD (i / w) (0, [])).1 / 2 ^ (8 * (i % w)))
    some (((s0.setCore core (c.putRun td (w * els.length) byte)).count p.team (els.flatMap (·.2))).endTile core p.uid)
  | _, _ => none

/-- MMA_COMPLETE (R338): the core's first MMA writes its last chunk; a paired one has started (R339). -/
def execMmaComplete (core : Nat) (s : State) : Out :=
  match (s.core core).firstMma with
  | some p => match s.mmaDone core p with
    | some t => .next t
    | none => notNow "MMA_COMPLETE"
  | none => notNow "MMA_COMPLETE"

/-! ## Codebooks and tags (R290, R293) -/

/-- What CBLD asks for (R55). -/
def cbldPlan (o : Alu) : Plan :=
  { u := true, h := o.h, srcs := [(o.a, 1)],
      illegal := fun x => !x.team.k.plane || aluForm o [] false false noVar || o.d != 0 || o.w,
      operand := fun _ => decide (o.b.code.toNat > 0x0F) }

/-- The place of CBLD's 16 entries in the team's scratchpad (R290). -/
def cbldPlace (o : Alu) (x : Issue) : Except Stop Nat :=
  let a := (x.read groupThread o.a 0).toNat
  if a % 32 != 0 then .error (.trap (tAlignment a none))
  else if a + 32 > x.unit.scratchBytes then .error (.trap (tWindow 5 a none))
  else if !x.s.present x.team.core (x.unit.scratchBase x.team.slice + a) 32 then .error (.wait .parked .presence)
  else .ok (x.unit.scratchBase x.team.slice + a)

/-- The codebook takes 16 BF16 entries (R290). -/
def cbldEffect (o : Alu) (x : Issue) (b : Nat) : State :=
  x.s.updCore x.team.core fun c => { c with
    codebooks := c.codebooks.put o.b.code.toNat (some (BitVec.ofNat 256 (leNat (readBytes x.s.mem (arrayAt x.team.core b) 32)))) }

/-- CBLD (R290). -/
def execCbld (o : Alu) : State → Out :=
  program (.cbld o) (cbldPlan o) fun x =>
    if !x.selected then .ok (x.seq x.s) else (cbldPlace o x).bind fun b => x.gate.map fun _ => x.seq (cbldEffect o x b)

/-- A selector of TAGR and TAGW: a vector register or a tile register. -/
def tagSelBad (x : Issue) (v : Nat) : Bool :=
  if v < 0x80 then decide (v ≥ x.team.k.v) else decide (v > 0x87)

/-- What TAGR and TAGW refuse of the value of their selector: an unflagged kernel names no tile (R322). -/
def tagJudged (o : Alu) : Judged :=
  let v := fun (x : Issue) => (x.read groupThread o.a 0).toNat
  { src := (o.a, 1), illegal := fun x => !x.team.k.plane && decide (0x80 ≤ v x) && decide (v x ≤ 0x87), operand := fun x => tagSelBad x (v x) }

/-- A value that no tag of a register is (R245). -/
def tagValueBad (b : Nat) : Bool := decide (b ≥ 1024) || !tagAllowed b

/-- The waits of TAGR and TAGW (R293, R326), and the old tag. -/
def tagOld (x : Issue) (v : Nat) (write : Bool) : Except Stop Tag :=
  if v < 0x80 then
    match (x.grp.pendV.get [] v).head? with
    | some uid => .error (.wait .stalled (.reg uid))
    | none => .ok (x.grp.tag v)
  else
    let t := v - 0x80
    (x.tileOrder [t] (if write then [t] else [])).map fun _ => (x.unit.tile t).tag

/-- What TAGR asks for (R55). -/
def tagrPlan (o : Alu) : Plan :=
  { u := true, h := o.h, srcs := [(o.a, 1)], dsts := if o.w then [] else [(o.d.toNat, 1)],
      illegal := fun _ => aluForm o [] false false noVar, judged := [tagJudged o] }

/-- TAGR (R293). -/
def execTagr (o : Alu) : State → Out :=
  program (.tagr o) (tagrPlan o) fun x =>
    let v := (x.read groupThread o.a 0).toNat
    if !x.selected then .ok (x.seq (wroteWords o x 1 [])) else
    (tagOld x v false).map fun t => x.seq (wroteWords o x 1 [t.setWidth 32])

/-- What TAGW asks for (R55). -/
def tagwPlan (o : Alu) : Plan :=
  { u := true, h := o.h, srcs := [(o.a, 1), (o.b, 1)], dsts := if o.w then [] else [(o.d.toNat, 1)],
      illegal := fun _ => aluForm o [] false false noVar,
      judged := [tagJudged o, { src := (o.b, 1), operand := fun x => tagValueBad (x.read groupThread o.b 0).toNat }] }

/-- The old tag in the destination, the new one on the register or the tile (R293). -/
def tagwEffect (o : Alu) (x : Issue) (old : Tag) : State :=
  let v := (x.read groupThread o.a 0).toNat
  let new : Tag := (x.read groupThread o.b 0).setWidth 10
  let s1 := wroteWords o x 1 [old.setWidth 32]
  if v < 0x80 then s1.updGroup x.g fun g => g.setTag v new
  else s1.updCore x.team.core fun c => { c with tiles := c.tiles.put (v - 0x80) { c.tile (v - 0x80) with tag := new } }

/-- TAGW (R293): it waits for every earlier reader and writer of a tile that it names (R326). -/
def execTagw (o : Alu) : State → Out :=
  program (.tagw o) (tagwPlan o) fun x =>
    if !x.selected then .ok (x.seq (wroteWords o x 1 [])) else
    (tagOld x (x.read groupThread o.a 0).toNat true).map fun t => x.seq (tagwEffect o x t)

end Sys2Proof.Machine
end

