-- ==== Sys2Proof/Machine/Memops.lean ====
section
/-! DEFINITION. Memory instructions of programs: plain loads and stores (R144 to R147), atomics (R149 to R151), presence and
cache control (R152 to R155), FENCE and CTIME (R156, R157). -/
namespace Sys2Proof.Machine
open Sys2Proof

/-! ## Field rules (R41, R42, R144) -/

def widthOf (w : BitVec 3) : Nat := 2 ^ w.toNat
def regsOf (bytes : Nat) : Nat := if bytes = 8 then 2 else 1

/-- Order and scope of a plain access: RLX leaves the scope field 000; the ordered form takes a listed scope. -/
def orderIllegal (ok : Order) (order : Order) (scope : BitVec 3) (top : Nat) : Bool :=
  if order = .rlx then scope != 0 else order != ok || decide (scope.toNat > top)

/-- The fields of a load; `top` is the widest scope of its space. -/
def loadIllegal (u : Bool) (o : Ld) (top : Nat) : Bool :=
  let t := o.tag.toNat
  let big := t == 0x01 || t == 0x29
  o.width.toNat ≥ 4 || orderIllegal .acq o.order o.scope top || (o.sx && o.width.toNat ≥ 2) || !isFormat t ||
    (o.width == 3 && t != 0 && !big) || (o.width != 3 && big) || (u && t != 0)

def storeIllegal (o : St) (top : Nat) : Bool := o.width.toNat ≥ 4 || orderIllegal .rel o.order o.scope top || o.sx

/-- Base and register offset. -/
def addrSrcs (base : Nat) (a b : Src) (imm : Bool) : List (Src × Nat) := (a, base) :: if imm then [] else [(b, 1)]
/-- The value of a store: d in short form, c in long form (R34, R41). -/
def stSrc (o : St) : Src := if o.h.long then o.val else .reg o.d

/-- The operands of a memory instruction carry any tag, one tag in the two registers of a pair (R247). -/
def memClasses (l : List (Src × Nat)) : List ((Tag → Bool) × Src × Nat) := l.map fun c => (clsAny, c)

/-! ## Global loads and stores -/

def ldPlan (u : Bool) (o : Ld) : Plan :=
  { u := u, h := o.h, illegal := fun _ => loadIllegal u o 4, srcs := addrSrcs 2 o.a o.b o.imm,
    dsts := [(o.d.toNat, regsOf (widthOf o.width))] }

/-- The scope of a plain access: none for RLX. -/
def plainScope (x : Issue) (order : Order) (scope : BitVec 3) : BitVec 3 := BitVec.ofNat 3 (if order = .rlx then 0 else x.scope scope)

/-- The access of a load. -/
def ldAccess (o : Ld) (x : Issue) : Access :=
  let n := widthOf o.width
  { entry := { x.entry .load n with sx := o.sx, order := o.order, d := o.d.toNat, tag := mkTag o.tag.toNat 0, scope := plainScope x o.order o.scope },
    perm := permR, va := fun t => x.globalAddr t o.a (x.offset t o.imm o.b n), k := regsOf n }

/-- LD (R144, R145). -/
def execLd (o : Ld) : State → Out :=
  program (.ld o) (ldPlan false o) fun x => (x.classes (memClasses (ldPlan false o).srcs)).bind fun _ => x.global (ldAccess o x)
/-- LD of the U-set: once for the group, lane slot 0 (R144). -/
def execLdU (o : Ld) : State → Out := program (.ldU o) (ldPlan true o) fun x => x.global (ldAccess o x)

def stPlan (u : Bool) (o : St) : Plan :=
  { u := u, h := o.h, illegal := fun _ => storeIllegal o 4,
    srcs := addrSrcs 2 o.a o.b o.imm ++ [(stSrc o, regsOf (widthOf o.width))] }

/-- The low bits of a value (R145). -/
def storeValue (x : Issue) (o : St) (t : Thread) : W64 :=
  let n := widthOf o.width
  BitVec.ofNat 64 ((x.value t (stSrc o) (regsOf n)).toNat % 2 ^ (8 * n))

/-- The access of a store. -/
def stAccess (o : St) (x : Issue) : Access :=
  let n := widthOf o.width
  { entry := { x.entry .store n with order := o.order, scope := plainScope x o.order o.scope },
    perm := permW, va := fun t => x.globalAddr t o.a (x.offset t o.imm o.b n), value := storeValue x o, load := false }

/-- ST (R144, R145). -/
def execSt (o : St) : State → Out :=
  program (.st o) (stPlan false o) fun x => (x.classes (memClasses (stPlan false o).srcs)).bind fun _ => x.global (stAccess o x)
/-- ST of the U-set. -/
def execStU (o : St) : State → Out := program (.stU o) (stPlan true o) fun x => x.global (stAccess o x)

/-! ## Scratchpad and vault -/

/-- An aligned local access (R67 check 2 before the bounds). -/
def localCheck {α : Type} (a n : Nat) (r : Except (Nat × Trap) α) : Except (Nat × Trap) α :=
  if a % n != 0 then .error (2, tAlignment a none) else r

/-- Results of a local load: sign-extended where asked (R145). -/
def loadRes (o : Ld) (v : Nat) : Res :=
  let n := widthOf o.width
  if n = 8 then res64 (BitVec.ofNat 64 v)
  else if o.sx && v ≥ 2 ^ (8 * n - 1) then res1 (BitVec.ofNat 32 (v + 2 ^ 32 - 2 ^ (8 * n))) else res1 (BitVec.ofNat 32 v)

def localPlan (o : Ld) (top : Nat) : Plan :=
  { u := false, h := o.h, illegal := fun _ => loadIllegal false o top, srcs := addrSrcs 1 o.a o.b o.imm,
    dsts := [(o.d.toNat, regsOf (widthOf o.width))] }

/-- Scratchpad places of the selected lanes. -/
def padsOf (x : Issue) (a b : Src) (imm : Bool) (n : Nat) : Except Stop (List (Nat × Pad)) :=
  firstFail false (x.lanes.map fun t =>
    let va := x.localAddr t a (x.offset t imm b n)
    (t.lane, localCheck va n (padOf x.s x.team va n)))
def padAddr (x : Issue) (a b : Src) (imm : Bool) (n lane : Nat) : Nat :=
  ((x.lanes.find? fun t => t.lane == lane).map fun t => x.localAddr t a (x.offset t imm b n)).getD 0

/-- What a local load leaves in its registers; with no lane selected they keep their values, which are pushed. -/
def localLoaded (o : Ld) (rs : List (Nat × Res)) (x : Issue) : State :=
  x.s.updGroup x.g fun g => if rs.isEmpty then g.expect false false o.d.toNat (regsOf (widthOf o.width)) 0 none
    else g.writeV false o.d.toNat (regsOf (widthOf o.width)) (mkTag o.tag.toNat 0) rs

/-- Every line of the places of a local access is present (R124). -/
def padsPresent (x : Issue) (n : Nat) (ps : List (Nat × Pad)) : Bool := ps.all fun (_, p) => x.s.present p.core (p.byte x.s) n

/-- What LDS reads from its places. -/
def ldsValues (o : Ld) (x : Issue) (ps : List (Nat × Pad)) : List (Nat × Res) :=
  ps.map fun (l, p) => (l, loadRes o (leNat (readBytes x.s.mem (p.at x.s) (widthOf o.width))))

/-- The resident team whose slice a scratchpad place lies in. -/
def Pad.owner (p : Pad) (s : State) : Nat := ((List.find? (fun (x : Nat × Team) => x.2.core == p.core && x.2.slice == p.slice) s.teams).map (·.1)).getD 0

/-- An access of a group waits for the group's own stores that are on their way to its bytes (R97, R202). -/
def padsClear (x : Issue) (n : Nat) (ps : List (Nat × Pad)) : Except Stop Unit :=
  let meets := fun (h : HeldAccess) => match h with
    | .pad t g m off data => t == x.g.team && x.mine.contains g &&
        ps.any fun (_, p) => p.owner x.s == m && decide (p.off < off + data.length) && decide (off < p.off + n)
    | _ => false
  if x.s.held.any fun p => meets p.2 then .error (.wait .stalled .entries) else .ok ()

/-- LDS (R144, R145): parks until every line that it touches is present (R124). -/
def execLds (o : Ld) : State → Out :=
  program (.lds o) (localPlan o 1) fun x => (x.classes (memClasses (localPlan o 1).srcs)).bind fun _ =>
    (padsOf x o.a o.b o.imm (widthOf o.width)).bind fun ps => x.gate.bind fun _ => (padsClear x (widthOf o.width) ps).bind fun _ =>
    if padsPresent x (widthOf o.width) ps then .ok (x.seq (localLoaded o (ldsValues o x ps) x)) else .error (.wait .parked .presence)

/-- Refusals of a scratchpad write (R124): a line not present, or a registered source range. -/
def padLocked (s : State) (n : Nat) (p : Pad) : Bool := !s.present p.core (p.byte s) n || s.sourceHit p.core (p.byte s) n

/-- The waits of an ordered local store; one that reaches PACKAGE names no home line, so it writes through (R147). -/
def localRelease (x : Issue) (rel : Bool) (scope : Nat) : Except Stop Unit :=
  x.gate.bind fun _ =>
  if rel then (x.releaseGate scope).bind fun _ => if scope ≥ 3 then x.writeThrough false else .ok () else .ok ()

/-- A release that reached PACKAGE has taken the die's count as its epoch, which rises by one (R181). -/
def epochTaken (x : Issue) (rel : Bool) (scope : Nat) (any : Bool) (s : State) : State :=
  if rel && any && decide (3 ≤ scope) then s.updDie x.die fun d => { d with release := d.release + 1 } else s

/-- What STS asks for (R55). -/
def stsPlan (o : St) : Plan :=
  { u := false, h := o.h, illegal := fun _ => storeIllegal o 1,
      srcs := addrSrcs 1 o.a o.b o.imm ++ [(stSrc o, regsOf (widthOf o.width))] }

/-- The value that a lane stores. -/
def laneStores (o : St) (x : Issue) (lane : Nat) : List Byte :=
  leBytes (widthOf o.width) (((x.lanes.find? fun t => t.lane == lane).map (storeValue x o)).getD 0).toNat

/-- A local store that stored something raises its group's horizon (R146). -/
def stored (x : Issue) (any : Bool) (s : State) : State := s.updGroup x.g fun g => if any then g.raise x.s.time else g

/-- A lane's store sets out for the scratchpad of a gang mate on another die, which no DIE instance takes in: it is performed there when it
arrives (R146, R204). -/
def padSends (o : St) (x : Issue) (s : State) (l : Nat) (p : Pad) : State :=
  let home := ((x.grp.homes.find? l).map (·.1)).getD x.g.grp
  ({ s with next := s.next + 1 } : State).keep s.next (.pad x.g.team home (p.owner x.s) p.off (laneStores o x l))

/-- The stores of STS, lane by lane: the highest lane's bytes remain. Those on the die are performed at once. -/
def stsEffect (o : St) (x : Issue) (ps : List (Nat × Pad)) : State :=
  let near := ps.filter fun p => dieOf p.2.core == x.die
  let s1 : State := { x.s with mem := near.foldl (fun m ((l, p) : Nat × Pad) => writeBytes m (p.at x.s) (laneStores o x l)) x.s.mem }
  stored x (!near.isEmpty) ((ps.filter fun p => dieOf p.2.core != x.die).foldl (fun (u : State) (l, p) => padSends o x u l p) s1)

/-- STS (R144, R145). -/
def execSts (o : St) : State → Out :=
  program (.sts o) (stsPlan o) fun x => (x.classes (memClasses (stsPlan o).srcs)).bind fun _ =>
    let n := widthOf o.width
    (padsOf x o.a o.b o.imm n).bind fun ps =>
    (lockCheck false ps (padLocked x.s n) fun i => padAddr x o.a o.b o.imm n i).bind fun _ =>
    (localRelease x (o.order = .rel) (x.scope o.scope)).bind fun _ => (padsClear x n ps).map fun _ =>
      x.seq (epochTaken x (o.order = .rel) (x.scope o.scope) (!ps.isEmpty) (stsEffect o x ps))

/-- Vault places of the selected lanes (R86, R87): the address named, the cluster and the offset. -/
def vaultsOf (x : Issue) (a b : Src) (imm : Bool) (n : Nat) : Except Stop (List (Nat × Nat × Nat)) :=
  firstFail false (x.lanes.map fun t =>
    let va := x.localAddr t a (x.offset t imm b n)
    (t.lane, localCheck va n (vaultOf x.s x.team va n)))

/-- Offset of a vault byte within its die's vaults: the absolute address (R86). -/
def vaultAbs (cl o : Nat) : Nat := cl % 16 * 2 ^ 25 + o
/-- A place in the team's own allocation (R431). -/
def ownVault (t : Team) (cl o : Nat) : Bool :=
  cl == clusterOf t.core && t.vault.any fun (b, n) => decide (b ≤ o) && decide (o < b + n)
/-- What a vault load of the team reads: its held bytes over the vault's (R431). -/
def Issue.vaultRead (x : Issue) (cl o n : Nat) : List Byte :=
  let bs := readBytes x.s.mem (vaultAt cl o) n
  match x.s.intervals.find? x.g.team with
  | some iv => overHeld iv.heldVault (vaultAbs cl o) bs
  | none => bs
/-- A vault store of a team: at once, or held when it is checkpointed and the byte is not its own (R431, R434); a release that has an interval
of its own is not held (R433). -/
def Issue.vaultWrite (x : Issue) (own : Bool) (s : State) (cl o : Nat) (bs : List Byte) : State :=
  if (s.intervals.find? x.g.team).isSome && !ownVault x.team cl o && !own then (s.holdStore x.g.team x.g.grp true (vaultAbs cl o) bs).getD s
  else ({ s with mem := writeBytes s.mem (vaultAt cl o) bs } : State).clearVaultPoison cl o bs.length

/-- A vault range as the lock table compares it: by absolute address on the die (R148). -/
def vaultKey (cl o : Nat) : Nat := cl * 2 ^ 25 + o

/-- Some place of a vault access meets a registered range (R148). -/
def vaultLocked (x : Issue) (n : Nat) (write : Bool) (p : Nat × Nat) : Bool := x.s.rangeHit x.die .vault (vaultKey p.1 p.2) n write

/-- A read of the vault consumes a poisoned word: some byte of it comes from the vault and not from what the team holds (R142, R431). -/
def Issue.vaultFlawed (x : Issue) (cl o n : Nat) : Bool :=
  x.s.vaultPoison cl o n && (List.range n).any fun i =>
    x.s.vaultPoison cl (o + i) 1 && (x.s.intervals.find? x.g.team).all fun iv =>
      let a := vaultAbs cl (o + i)
      !(Sp.get (0, 0) iv.heldVault (a / 64)).1.getLsbD (a % 64)

/-- What LDV reads from its places. -/
def ldvValues (o : Ld) (x : Issue) (ps : List (Nat × Nat × Nat)) : List (Nat × Res) :=
  ps.map fun (l, cl, f) => (l, loadRes o (leNat (x.vaultRead cl f (widthOf o.width))))

/-- LDV (R144, R145). -/
def execLdv (o : Ld) : State → Out :=
  program (.ldv o) (localPlan o 2) fun x => (x.classes (memClasses (localPlan o 2).srcs)).bind fun _ =>
    let n := widthOf o.width
    (vaultsOf x o.a o.b o.imm n).bind fun ps =>
    (lockCheck false ps (vaultLocked x n false) fun i => padAddr x o.a o.b o.imm n i).bind fun _ =>
    x.gate.bind fun _ =>
    match ps.find? fun (_, cl, f) => x.vaultFlawed cl f n with
    | some (l, _, _) => .error (.trap { tUncorrectable with lane := some l, addr := padAddr x o.a o.b o.imm n l })
    | none => .ok (x.seq (localLoaded o (ldvValues o x ps) x))

/-- What STV asks for (R55). -/
def stvPlan (o : St) : Plan :=
  { u := false, h := o.h, illegal := fun _ => storeIllegal o 2,
      srcs := addrSrcs 1 o.a o.b o.imm ++ [(stSrc o, regsOf (widthOf o.width))] }

/-- A paired team stores to a place that is not its own (R429). -/
def stvForbidden (x : Issue) (ps : List (Nat × Nat × Nat)) : Bool := x.team.k.paired && ps.any fun (_, cl, f) => !ownVault x.team cl f

/-- The stores of STV, lane by lane. -/
def stvEffect (o : St) (x : Issue) (ps : List (Nat × Nat × Nat)) : State :=
  stored x (!ps.isEmpty) (ps.foldl (fun (u : State) (l, cl, f) => x.vaultWrite (o.order = .rel && o.scope != 0) u cl f (laneStores o x l)) x.s)

/-- STV (R144, R145). -/
def execStv (o : St) : State → Out :=
  program (.stv o) (stvPlan o) fun x => (x.classes (memClasses (stvPlan o).srcs)).bind fun _ =>
    let n := widthOf o.width
    (vaultsOf x o.a o.b o.imm n).bind fun ps =>
    (lockCheck false ps (vaultLocked x n true) fun i => padAddr x o.a o.b o.imm n i).bind fun _ =>
    if stvForbidden x ps then .error (.trap tPairedForbidden) else
    (localRelease x (o.order = .rel) (x.scope o.scope)).map fun _ =>
      x.seq (epochTaken x (o.order = .rel) (x.scope o.scope) (!ps.isEmpty) (stvEffect o x ps))

/-! ## Atomics (R149 to R151) -/

def atmBytes (o : Atm) : Nat := if o.wide then 8 else 4

def atmIllegal (o : Atm) : Bool :=
  o.order = .reserved || o.scope.toNat > 4 || o.kind.toNat > 10 || (o.kind == 10 && o.wide)

def atmSrcs (base : Nat) (o : Atm) : List (Src × Nat) :=
  [(o.a, base), (o.b, regsOf (atmBytes o))] ++ if o.kind = 9 then [(o.c, regsOf (atmBytes o))] else []

/-- Operand classes (R150). -/
def atmClasses (base : Nat) (o : Atm) : List ((Tag → Bool) × Src × Nat) :=
  (clsAny, o.a, base) :: (atomicClass o.kind.toNat, o.b, regsOf (atmBytes o)) :: if o.kind = 9 then [(atomicClass 9, o.c, regsOf (atmBytes o))] else []

/-- The access of ATOM and RED. -/
def atmAccess (kind : AccessKind) (o : Atm) (x : Issue) : Access :=
  let n := atmBytes o
  { entry := { x.entry kind n with
      order := o.order, scope := BitVec.ofNat 3 (x.scope o.scope), akind := o.kind, w := o.w, d := o.d.toNat,
      tag := if o.kind = 10 then mkTag 0x02 0 else tagB32 },
    perm := if kind = .red then permW + permA else permR + permW + permA, va := fun t => x.globalAddr t o.a 0,
    value := fun t => x.value t o.b (regsOf n), compare := fun t => if o.kind = 9 then x.value t o.c (regsOf n) else 0,
    load := kind != .red, k := regsOf n }

/-- ATOM and RED: none in a paired team, whatever its guard selects (DESIGN CHOICE: the spec does not say for a guard that selects no
lane; log 85). -/
def atmBody (kind : AccessKind) (o : Atm) : Body := fun x =>
  (x.classes (atmClasses 2 o)).bind fun _ => if x.team.k.paired then .error (.trap tPairedForbidden) else x.global (atmAccess kind o x)

def atomPlan (u : Bool) (o : Atm) : Plan :=
  { u := u, h := o.h, illegal := fun _ => atmIllegal o, srcs := atmSrcs 2 o,
    dsts := if o.w then [] else [(o.d.toNat, regsOf (atmBytes o))] }

/-- ATOM (R149, R150). -/
def execAtom (o : Atm) : State → Out := program (.atom o) (atomPlan false o) (atmBody .atomic o)
/-- ATOM of the U-set. -/
def execAtomU (o : Atm) : State → Out := program (.atomU o) (atomPlan true o) (atmBody .atomic o)
/-- What RED asks for (R55). -/
def redPlan (o : Atm) : Plan :=
  { u := false, h := o.h, illegal := fun _ => atmIllegal o || o.kind == 8 || o.kind == 9, srcs := atmSrcs 2 o }

/-- RED (R149, R150): EXCH and CAS have no such form (R42). -/
def execRed (o : Atm) : State → Out :=
  program (.red o) (redPlan o) (atmBody .red o)

/-- The lanes of an ATOMS in ascending order, each on what the one before left (R150). -/
def atomsLanes (x : Issue) (o : Atm) (m : List Host.Cell) : List (Nat × Pad) → List Host.Cell × List (Nat × Res)
  | [] => (m, [])
  | (l, p) :: r =>
    let n := atmBytes o
    let t := (x.lanes.find? fun t => t.lane == l).getD {}
    let old := leNat (readBytes m (p.at x.s) n)
    let (new, cnt) := atomicNew o.kind.toNat (8 * n) old (x.value t o.b (regsOf n)).toNat
      (if o.kind = 9 then (x.value t o.c (regsOf n)).toNat else 0)
    let (m', rs) := atomsLanes x o (writeBytes m (p.at x.s) (leBytes n new)) r
    let q := if n = 8 then res64 (BitVec.ofNat 64 old) cnt else { words := [BitVec.ofNat 32 old], counts := cnt }
    (m', (l, q) :: rs)

/-- What ATOMS asks for (R55). -/
def atomsPlan (o : Atm) : Plan :=
  { u := false, h := o.h, illegal := fun _ => atmIllegal o || (o.h.long && o.scope != 0), srcs := atmSrcs 1 o,
      dsts := if o.w then [] else [(o.d.toNat, regsOf (atmBytes o))] }

/-- The updates of ATOMS: memory, the old values, the counters. -/
def atomsEffect (o : Atm) (x : Issue) (ps : List (Nat × Pad)) : State :=
  let (m, rs) := atomsLanes x o x.s.mem ps
  let put := fun (g : Group) => if rs.isEmpty then g.expect false o.w o.d.toNat (regsOf (atmBytes o)) 0 none
    else (g.writeV o.w o.d.toNat (regsOf (atmBytes o)) (if o.kind = 10 then mkTag 0x02 0 else tagB32) rs).raise x.s.time
  (({ x.s with mem := m } : State).updGroup x.g put).count x.g.team (rs.flatMap fun (_, r) => r.counts)

/-- ATOMS (R149, R150). -/
def execAtoms (o : Atm) : State → Out :=
  program (.atoms o) (atomsPlan o) fun x =>
    let n := atmBytes o
    (x.classes (atmClasses 1 o)).bind fun _ =>
    (padsOf x o.a .zero false n).bind fun ps =>
    (lockCheck false ps (padLocked x.s n) fun i => padAddr x o.a .zero false n i).bind fun _ =>
    (localRelease x (o.order = .rel) 0).bind fun _ => (padsClear x n ps).map fun _ => x.seq (atomsEffect o x ps)

/-! ## Presence and cache control (R152 to R155) -/

/-- What PRES asks for (R55). Its tag field takes any code, F64 and I64 among them (DESIGN CHOICE: the spec refuses these for a 32-bit
load and does not name PRES; log 86). -/
def presPlan (o : Ld) : Plan :=
  { u := false, h := o.h, illegal := fun _ => o.width != 2 || o.order != .rlx || o.scope != 0 || o.sx || !isFormat o.tag.toNat,
      srcs := addrSrcs 1 o.a o.b o.imm, dsts := [(o.d.toNat, 1)] }

/-- The places of PRES, bounds alone checked (R152). -/
def presPlaces (o : Ld) (x : Issue) : Except Stop (List (Nat × Pad)) :=
  firstFail false (x.lanes.map fun t =>
    let va := x.localAddr t o.a (x.offset t o.imm o.b 4)
    (t.lane, padOf x.s x.team va 1))

/-- The counts that PRES reads. -/
def presValues (x : Issue) (ps : List (Nat × Pad)) : List (Nat × Res) :=
  ps.map fun (l, p) => (l, res1 (BitVec.ofNat 32 (x.s.presenceAt p.core (p.byte x.s))))

/-- PRES (R152). -/
def execPres (o : Ld) : State → Out :=
  program (.pres o) (presPlan o) fun x => (x.classes (memClasses (presPlan o).srcs)).bind fun _ =>
    (presPlaces o x).bind fun ps => x.gate.map fun _ =>
      x.seq (x.s.updGroup x.g fun g => g.writeV false o.d.toNat 1 (mkTag o.tag.toNat 0) (presValues x ps))

/-- What the U-set cache-control forms may set. A tag code other than B32 raises ILLEGAL_INSTRUCTION (DESIGN CHOICE: the spec gives
the field and neither a use nor a refusal of it; log 87). -/
def cacheIllegal (o : Ld) (noD : Bool) (scopes : List Nat) : Bool :=
  o.width != 2 || o.order != .rlx || !(scopes.contains o.scope.toNat) || o.sx || o.tag != 0 || (noD && o.d != 0)

def cachePlan (o : Ld) (noD : Bool) (scopes : List Nat) : Plan :=
  { u := true, h := o.h, illegal := fun _ => cacheIllegal o noD scopes, srcs := addrSrcs 2 o.a o.b o.imm,
    dsts := if noD || o.w then [] else [(o.d.toNat, 1)] }

def cacheAddr (x : Issue) (o : Ld) : Nat := x.globalAddr groupThread o.a (x.offset groupThread o.imm o.b 4)

/-- Fill the four sectors of a line into L1 (R153). -/
def State.l1FillLine (s : State) (core line leaseLen : Nat) : State :=
  (List.range 4).foldl (fun (u : State) i => u.l1Fill core (line * 256 + 64 * i) leaseLen) s

/-- Bring a whole line into the die L2 where its page is there (R153, R155). -/
def State.fetchLine (s : State) (die line : Nat) : Option State :=
  if s.l2Has die line (BitVec.ofNat 256 (2 ^ 256 - 1)) then some s else
  if s.pageHeld (line * 256) then none else
  match s.walk (line * 256) with
  | .leaf l => some (s.grant die line l 0xF)
  | _ => none

/-- What PREF brings in; dropped where its address does not translate, its page is not there, or it names home 8 (R70). -/
def prefEffect (o : Ld) (x : Issue) : State :=
  match checkAccess x.context.windows (cacheAddr x o) 1 permR with
  | .error _ => x.s
  | .ok ia =>
    if !x.selected || homeOf ia ≥ 8 then x.s else
    match x.s.fetchLine x.die (lineOf ia) with
    | none => x.s
    | some s1 => if o.scope = 0 then s1.l1FillLine x.team.core (lineOf ia) x.team.leaseLen else s1

/-- PREF (R153). -/
def execPref (o : Ld) : State → Out :=
  program (.pref o) (cachePlan o true [0, 2]) fun x => x.gate.map fun _ => x.seq (prefEffect o x)

/-- The checks of the cache-control forms that need R (R63, R67). -/
def cacheCheck (x : Issue) (o : Ld) : Except Stop Nat :=
  match checkGlobal x.context.windows (cacheAddr x o) 4 permR with
  | .ok ia => .ok ia
  | .error (_, t) => .error (.trap t)

/-- The line's clean sectors leave L1 and the die L2; dirty bytes stay (R154). -/
def cinvEffect (x : Issue) (ia : Nat) : State :=
  let line := lineOf ia
  let s1 := x.s.l1Drop x.team.core line
  if ((s1.die x.die).lines.find? line).isSome then s1.setL2 x.die line { s1.l2 x.die line with valid := 0 } else s1

/-- CINV (R154). -/
def execCinv (o : Ld) : State → Out :=
  program (.cinv o) (cachePlan o true [0]) fun x =>
    if !x.selected then .ok (x.seq x.s) else
    (cacheCheck x o).bind fun ia => x.gate.map fun _ => x.seq (cinvEffect x ia)

/-- The line's dirty bytes go to their home; the completion time raises the horizon (R146, R154). -/
def cwbEffect (x : Issue) (ia : Nat) : State :=
  if (x.s.l2 x.die (lineOf ia)).dirty = 0 then x.s else
  let (s1, t) := x.s.cleanL2 x.die (lineOf ia) x.team.ctx (some (.group x.g))
  s1.updGroup x.g fun g => g.raise t

/-- CWB (R154). -/
def execCwb (o : Ld) : State → Out :=
  program (.cwb o) (cachePlan o true [0]) fun x =>
    if !x.selected then .ok (x.seq x.s) else
    (cacheCheck x o).bind fun ia => x.gate.map fun _ => x.seq (cwbEffect x ia)

/-- LOCKL's status and effect (R133, R155). The page is walked only where the line must be fetched: a line that the die L2 holds
already is locked, whatever its page is now (DESIGN CHOICE: the spec does not say; log 88). -/
def lockLine (x : Issue) (ia : Nat) : Nat × State :=
  let line := lineOf ia
  let l := x.s.l2 x.die line
  let locked := (x.s.die x.die).lines.filter fun (_, y) => y.lock.isSome
  if homeOf ia ≥ 8 then (7, x.s)
  else match l.lock with
    | some c => (if c = x.team.ctx then 1 else 5, x.s)
    | none =>
      if (locked.filter fun (k, _) => l2Set k == l2Set line).length ≥ 23 then (2, x.s)
      else if (locked.filter fun (_, y) => y.lock == some x.team.ctx).length ≥ x.context.quotas.getD x.die 0 then (3, x.s)
      else
        let put := fun (s : State) => s.setL2 x.die line { s.l2 x.die line with lock := some x.team.ctx }
        if x.s.l2Valid x.die line != 0 || l.dirty != 0 then (0, put x.s)
        else match x.s.walk ia with
          | .leaf f => if pteWp f.word then (4, x.s) else (0, put (x.s.grant x.die line f 0xF))
          | _ => (4, x.s)

/-- The line that a LOCKL must fetch is on a page whose accesses its home holds (R81 to R83), and which the walk does not refuse
at once (R91): it waits. -/
def lockWaits (x : Issue) (ia : Nat) : Bool :=
  let l := x.s.l2 x.die (lineOf ia)
  let walks : Bool := match x.s.walk ia with | .leaf f => !pteWp f.word | _ => false
  (x.s.pageBusy ia || (walks && x.s.pageHeld ia)) && l.lock.isNone && x.s.l2Valid x.die (lineOf ia) == 0 && l.dirty == 0

/-- The status of a cache-control form in its register. -/
def answered (o : Ld) (x : Issue) (r : Nat × State) : State :=
  r.2.updGroup x.g fun g => g.writeU o.w true o.d.toNat 1 [BitVec.ofNat 32 r.1]
/-- An unselected one leaves its register and pushes its value (R273). -/
def unanswered (o : Ld) (x : Issue) : State := x.s.updGroup x.g fun g => g.writeU o.w false o.d.toNat 1 []

/-- LOCKL (R155). -/
def execLockl (o : Ld) : State → Out :=
  program (.lockl o) (cachePlan o false [0]) fun x =>
    if !x.selected then .ok (x.seq (unanswered o x)) else
    (cacheCheck x o).bind fun ia => x.gate.bind fun _ =>
      if lockWaits x ia then .error (.wait .stalled (.time x.s.time)) else .ok (x.seq (answered o x (lockLine x ia)))

/-- UNLOCKL's status and effect (R155). -/
def unlockLine (x : Issue) (ia : Nat) : Nat × State :=
  let l := x.s.l2 x.die (lineOf ia)
  if homeOf ia ≥ 8 then (7, x.s)
  else match l.lock with
    | none => (6, x.s)
    | some c => if c = x.team.ctx then (0, x.s.setL2 x.die (lineOf ia) { l with lock := none }) else (5, x.s)

/-- UNLOCKL (R155). -/
def execUnlockl (o : Ld) : State → Out :=
  program (.unlockl o) (cachePlan o false [0]) fun x =>
    if !x.selected then .ok (x.seq (unanswered o x)) else
    (cacheCheck x o).bind fun ia => x.gate.map fun _ => x.seq (answered o x (unlockLine x ia))

/-! ## FENCE and CTIME (R156, R157) -/

/-- The scope of a FENCE or GBAR: DIE in short form (R156). -/
def Mode.scopeOf (o : Mode) (short : BitVec 3) : BitVec 3 := if o.h.long then o.scope else short

/-- What FENCE asks for (R55). -/
def fencePlan (o : Mode) : Plan :=
  let sc := Mode.scopeOf o 2
  { u := true, h := o.h, illegal := fun _ =>
        o.mode.toNat > 2 || sc.toNat > 4 || o.w || o.d != 0 ||
        (o.mode != 1 && !(sc == 0 || sc == 2)) }

/-- The waits of a FENCE: an acquire waits for the entries, a release writes through beyond DIE (R156). -/
def fenceWaits (o : Mode) (x : Issue) : Except Stop Unit :=
  let scope := x.scope (Mode.scopeOf o 2)
  x.gate.bind fun _ =>
  if o.mode = 2 then x.settledEntries
  else (x.releaseGate scope).bind fun _ => if scope ≥ 3 then x.writeThrough (scope == 4) else .ok ()

/-- FENCE (R156). -/
def execFence (o : Mode) : State → Out :=
  program (.fence o) (fencePlan o) fun x =>
    if !x.selected then .ok (x.seq x.s) else (fenceWaits o x).map fun _ => x.seq x.s

/-- What CTIME asks for (R55). -/
def ctimePlan (o : Alu) : Plan :=
  { u := true, h := o.h, illegal := fun _ => aluForm o [] false false noVar, dsts := if o.w then [] else [(o.d.toNat, 2)] }

/-- CTIME (R157). -/
def execCtime (o : Alu) : State → Out :=
  program (.ctime o) (ctimePlan o) fun x => .ok (x.seq (wroteWords o x 2 (pairOf (BitVec.ofNat 64 x.grp.horizon))))

end Sys2Proof.Machine
end

