-- ==== Sys2Proof/Machine/Engine.lean ====
section
/-! DEFINITION. Engines (R158 to R172): tokens, shape slots, the copy functions and their progress, the collective functions
with their counters and triggers, and the package's steps that move, end or fail an operation (R108, R123, R160, R167). -/
namespace Sys2Proof.Machine
open Sys2Proof

/-! ## Status and tokens (R159, R160) -/

def stDone : W32 := 0x00
def stPending : W32 := 0x01
def stCancelled : W32 := 0x02
def stWindow (cause : Nat) : W32 := BitVec.ofNat 32 (0x03 + 256 * cause)
def stPage (cause : Nat) : W32 := BitVec.ofNat 32 (0x04 + 256 * cause)
def stExpired : W32 := 0x05
def stBadToken : W32 := 0x06
def stBadPeer : W32 := 0x07
def stUnreachable : W32 := 0x08
def stOverrun : W32 := 0x09
def stNoRecv : W32 := 0x0A
def stSlotBusy : W32 := 0x0B

/-- The token of an entry (R159). -/
def tokenWord (cls : Bool) (idx : BitVec 6) (gen : BitVec 14) (e : Nat) : W32 :=
  BitVec.ofNat 32 (cls.toNat * 2 ^ 28 + idx.toNat * 2 ^ 22 + gen.toNat * 2 ^ 8 + e)

/-- What a token names: a status that says it names nothing, or its entry (R160). -/
def tokenLook (t : Team) (cls : Bool) (w : W32) : Except W32 (Nat × Token) :=
  let e := w.toNat % 256
  match t.tokens.find? e with
  | none => .error stBadToken
  | some k =>
    if w.toNat / 2 ^ 29 != 0 || w.getLsbD 28 != cls then .error stBadToken
    else if w.extractLsb' 8 14 != k.gen then .error stExpired else .ok (e, k)

/-- The entry that the next token takes (R159): unused, or the one whose operation ended earliest. -/
def tokenEntry (t : Team) : Option Nat :=
  match (List.range 256).find? fun i => (t.tokens.find? i).isNone with
  | some i => some i
  | none =>
    (t.tokens.foldl (fun (o : Option (Nat × Nat)) ((i, k) : Nat × Token) => match k.ended with
      | none => o
      | some (_, at_) => match o with
        | none => some (i, at_)
        | some (_, b) => if at_ < b then some (i, at_) else o) none).map (·.1)

/-! ## Spaces (R164) -/

def spaceOf (n : Nat) : Space := if n = 0 then .global else if n = 1 then .scratch else if n = 2 then .vault else .tensor

/-- One place of a range: array byte with its core, or vault place as cluster x 2^25 + offset. -/
def EngOp.padAt (o : EngOp) (va : Nat) : Nat × Nat :=
  let i := if va < 2 ^ 31 then 0 else 1 + va / 2 ^ 24 % 16
  let (core, base) := o.pads.getD i (o.core, 0)
  (core, base + (if va < 2 ^ 31 then va else va % 2 ^ 24))
def EngOp.tensorAt (o : EngOp) (va : Nat) : Nat := o.tbase + va
def EngOp.vaultPlace (o : EngOp) (va : Nat) : Nat :=
  if va.testBit 29 then o.vbase + va % 2 ^ 25 else o.die * 16 * 2 ^ 25 + va % 2 ^ 29

/-- Core and array byte of a scratchpad or TENSOR address of an operation. -/
def EngOp.arrayPlace (o : EngOp) (sp : Space) (va : Nat) : Nat × Nat :=
  if sp = .tensor then (o.core, o.tensorAt va) else o.padAt va

/-! ## Ranges (R66 to R69, R158 step 3) -/

/-- The intermediate ranges of a span in a window: one in DIRECT mode, at most one for each home when striped (R62). -/
def spanHolds (w : List W64) (va n : Nat) : List (Nat × Nat) :=
  if !(winWord w 3).testBit 8 then [(translate w va, n)]
  else
    let a := va - winWord w 0 + winWord w 2
    let b := a + n - 1
    (List.range 8).filterMap fun h =>
      let row := a / 16384
      let first := if h * 2048 + 2048 ≤ a % 16384 then (row + 1) * 16384 + h * 2048 else max a (row * 16384 + h * 2048)
      let rowb := b / 16384
      let last := if b % 16384 < h * 2048 then (rowb - 1) * 16384 + h * 2048 + 2047 else min b (rowb * 16384 + h * 2048 + 2047)
      if first ≤ last ∧ (rowb > 0 ∨ h * 2048 ≤ b % 16384) then
        let off := fun (x : Nat) => x / 2 ^ 14 % 2 ^ 37 * 2 ^ 11 + x % 2 ^ 11
        some (h * 2 ^ 48 + off first, off last + 1 - off first)
      else none

/-- The checks of R67 on one engine range, first byte to last. -/
def engRange (ws : List (List W64)) (va n perm : Nat) : Except Stop (List (Nat × Nat)) :=
  match checkGlobal ws va 1 perm with
  | .error (_, t) => .error (.trap t)
  | .ok _ =>
    match hitWindow ws va with
    | none => .error (.trap (tWindow 2 va none))
    | some w => if va + n ≤ winWord w 1 then .ok (spanHolds w va n) else .error (.trap (tWindow 4 va none))

/-- Rows that lie in a space: the holds of one row (R84, R87, R126). Each row is a range of its own to check 5 of R67 and to the
range lock (log 75). -/
def rowHolds (x : Issue) (sp : Space) (va n perm : Nat) (dst : Bool) : Except Stop (List RangeHold) :=
  let local_ := fun {α : Type} (r : Except (Nat × Trap) α) => match r with
    | .error (_, t) => Except.error (Stop.trap t)
    | .ok a => .ok a
  match sp with
  | .global => (engRange x.context.windows va n perm).map fun l => l.map fun (lo, k) => { space := .global, dst := dst, lo := lo, len := k }
  | .scratch => (local_ (padOf x.s x.team va n)).map fun p => [{ space := .scratch, dst := dst, lo := p.byte x.s, len := n, core := p.core }]
  | .vault => (local_ (vaultOf x.s x.team va n)).map fun (cl, o) => [{ space := .vault, dst := dst, lo := vaultKey cl o, len := n }]
  | .tensor =>
    if va % 32 = 0 ∧ va + n ≤ x.unit.tensorBytes then
      .ok [{ space := .tensor, dst := dst, lo := x.unit.tensorBase x.team.slice + va, len := n, core := x.team.core }]
    else .error (.trap (tWindow 5 va none))

/-- The first bytes of the rows of a range: 64-bit addresses in global space, 32-bit ones in a local space. -/
def rowAt (sp : Space) (base : Nat) (pitch : Int) (r : Nat) : Nat :=
  ((base + r * pitch) % (if sp = .global then 2 ^ 64 else 2 ^ 32 : Int)).toNat
def rowStarts (sp : Space) (base rows : Nat) (pitch : Int) : List Nat :=
  if pitch = 0 then [rowAt sp base 0 0] else (List.range rows).map (rowAt sp base pitch)

/-- Holds that touch each other are one. -/
def joinHolds (l : List RangeHold) : List RangeHold :=
  (l.foldl (fun (m : List RangeHold) h => match m with
    | p :: r => if p.space = h.space ∧ p.dst = h.dst ∧ p.core = h.core ∧ p.lo + p.len = h.lo then { p with len := p.len + h.len } :: r else h :: m
    | [] => [h]) []).reverse

/-- The holds of a list of rows, row by row (R158, log 75). -/
def allHolds (x : Issue) (sp : Space) (vas : List Nat) (n perm : Nat) (dst : Bool) : Except Stop (List RangeHold) :=
  (vas.foldlM (fun (m : List RangeHold) va => (rowHolds x sp va n perm dst).map fun h => h.reverse ++ m) []).map fun l => joinHolds l.reverse

/-- Lines of the arrays that destination holds touch (R123). -/
def holdLines (l : List RangeHold) : List Nat :=
  (l.flatMap fun h => if h.dst && (h.space == .scratch || h.space == .tensor) then
    (List.range ((h.lo + h.len - 1) / 256 + 1 - h.lo / 256)).map fun i => h.core * 2048 + h.lo / 256 + i else []).eraseDups

/-- The dirty bytes of ranges in the issuing die's L2 go to their homes (R158 step 4): the answer is the latest completion
time. -/
def State.cleanRange (s : State) (die : Nat) (l : List RangeHold) : State × Nat :=
  l.foldl (fun ((u, t) : State × Nat) h =>
    (u.die die).lines.keys.foldl (fun ((v, t) : State × Nat) k =>
      if h.space = .global ∧ h.lo < (k + 1) * 256 ∧ k * 256 < h.lo + h.len then
        let (w, t') := v.cleanL2 die k
        (w, max t t')
      else (v, t)) (u, t)) (s, 0)

/-- A home still holds a write-back of the die on ranges (R77). -/
def State.rangeHeld (s : State) (die : Nat) (l : List RangeHold) : Bool :=
  s.held.any fun p => match p.2 with
    | .writeBack d k .. => d == die && l.any fun h => decide (h.space = .global ∧ h.lo < (k + 1) * 256 ∧ k * 256 < h.lo + h.len)
    | _ => false

/-! ## The issue of an operation (R158) -/

/-- Operations that an engine has not ended. -/
def State.engineOps (s : State) (cls : Bool) (die idx : Nat) : List (Nat × EngOp) :=
  s.ops.filter fun (_, o) => o.cls == cls && o.idx == idx && (cls || o.die == die)

/-- The engine that takes an operation: the one named, or the one with the most free queue entries (R158 step 6). -/
def pickEngine (x : Issue) (o : Eng) : Option Nat :=
  let load := fun (i : Nat) => (x.s.engineOps o.cls x.die i).length
  let i := if o.idx != 0x3F then o.idx.toNat else
    (List.range (if o.cls then 16 else 8)).foldl (fun b i => if load i < load b then i else b) 0
  if load i < 64 then some i else none

/-- A register value of an ENG operand. -/
def Issue.engWord (x : Issue) (c : Src) (j : Nat := 0) : Nat := (x.read groupThread c j).toNat
/-- An address operand: a pair, of which a local space uses the low register (R164). -/
def Issue.engAddr (x : Issue) (sp : Space) (c : Src) : Nat := if sp = .global then (x.read64 groupThread c).toNat else x.engWord c

/-- Checks of an ENG before its effect (R55, R158 step 1): its engine index, what `bad` says of the slot that it names, and the
register values that `judged` refuses. -/
def engPlan (o : Eng) (illegal : Bool) (srcs : List (Src × Nat)) (bad : Issue → Bool := fun _ => false) (judged : List Judged := []) : Plan :=
  { u := true, h := o.h, illegal := fun _ => illegal, srcs := srcs, dsts := if o.w then [] else [(o.d.toNat, 1)],
    operand := fun x => (decide (o.idx.toNat < 0x3F) && decide (o.idx.toNat ≥ if o.cls then 16 else 8)) || bad x,
    role := fun r => r != .matrix, judged := judged }

/-- The waits and refusals that every ENG shares (R158 steps 1 and 2). -/
def engStart (x : Issue) (go : Except Stop State) : Except Stop State :=
  if x.team.k.paired then .error (.trap tPairedForbidden)
  else x.settledEntries.bind fun _ => go

/-- What a rejected guard leaves (R273): nothing with W = 1, else the reply register's value pushed. -/
def engSkipped (x : Issue) (o : Eng) : State := if o.w then x.s else x.s.updGroup x.g fun g => g.writeU false false o.d.toNat 1 []
/-- The reply of an ENG in its register. -/
def engReplied (x : Issue) (o : Eng) (s : State) (w : W32) : State :=
  if o.w then s else s.updGroup x.g fun g => g.writeU false true o.d.toNat 1 [w]
def engSkip (x : Issue) (o : Eng) : State := x.seq (engSkipped x o)
def engReply (x : Issue) (o : Eng) (s : State) (w : W32) : State := x.seq (engReplied x o s w)

/-- Register an operation with its token (R158 steps 5 and 6, R159); `none`: the group stalls at the ENG. The table of range locks
is never full: R158 gives it no size (log 75). -/
def Issue.enter (x : Issue) (s : State) (o : Eng) (op : EngOp) : Option (Nat × State × W32) :=
  let id := s.next
  let lines := holdLines op.locks
  if lines.any fun k => decide ((s.core (k / 2048)).presence.get 0 (k % 2048) ≥ 3) then none else
  let entry := if o.w then some none else (tokenEntry x.team).map some
  match entry with
  | none => none
  | some e =>
    let gen := match e with | some i => ((x.team.tokens.find? i).elim 0 (·.gen)) + 1 | none => 0
    let op1 := { op with id := id, token := e, lines := lines, issued := s.time, reached := s.time }
    let raise := fun (u : State) (k : Nat) => u.updCore (k / 2048) fun c => { c with presence := c.presence.set 0 (k % 2048) (c.presence.get 0 (k % 2048) + 1) }
    let s1 := lines.foldl raise { s with ops := s.ops.put id op1, next := s.next + 1 }
    let s2 := match e with
      | some i => s1.updTeam x.g.team fun t => { t with tokens := t.tokens.put i { gen := gen, op := id, cls := op.cls, idx := BitVec.ofNat 6 op.idx } }
      | none => s1
    some (id, s2, tokenWord op.cls (BitVec.ofNat 6 op.idx) gen (e.getD 0))

/-- What every operation of this group carries. -/
def Issue.engOp (x : Issue) (cls : Bool) (idx : Nat) (work : EngWork) : EngOp :=
  let pad := fun (t : Team) => (t.core, (x.s.core t.core).scratchBase t.slice)
  let ranks := match x.gangOf with
    | some g => g.members.map fun m => (x.s.teams.find? m).elim (0, 0) pad
    | none => []
  { cls := cls, die := x.die, idx := idx, work := work, team := x.g.team, grp := x.g.grp, ctx := x.team.ctx, launch := x.team.launch,
    core := x.team.core, pc := x.grp.pc, windows := x.context.windows, after := x.grp.horizon, pads := pad x.team :: ranks,
    tbase := x.unit.tensorBase x.team.slice, vbase := vaultKey (clusterOf x.team.core) ((x.team.vault.map (·.1)).getD 0) }

/-- The slot an ENG names (R163). -/
structure Shape where
  len : Nat
  rows : Nat
  spitch : Int
  dpitch : Int
  elem : Nat
deriving DecidableEq, Repr

def shapeAt (x : Issue) (slot : Nat) : Option Shape :=
  (x.team.shapes.find? slot).map fun ws =>
    let w := fun i => (ws.getD i 0).toNat
    { len := w 0, rows := w 1 + 1, spitch := (ws.getD 3 0 ++ ws.getD 2 0 : BitVec 64).toInt,
      dpitch := (ws.getD 5 0 ++ ws.getD 4 0 : BitVec 64).toInt, elem := w 6 }

/-- The eight words that ENG.SHAPE reads, from an even register on (R163). -/
def shapeBase (o : Eng) : Nat := match o.a with | .reg n => n.toNat | _ => 127
def shapeWords (x : Issue) (o : Eng) : List W32 := (List.range 8).map fun j => x.grp.sreg (shapeBase o + j)

/-- Register values that ENG.SHAPE refuses (R163). -/
def shapeBad (ws : List W32) : Bool :=
  let w := fun i => (ws.getD i 0).toNat
  w 0 = 0 || w 0 > 2 ^ 24 || w 1 ≥ 65536 || w 6 ≥ 256 || w 7 != 0

/-- What ENG.SHAPE asks for (R55). -/
def engShapePlan (o : Eng) : Plan :=
  let n := shapeBase o
  let srcs := match o.a with | .reg n => (List.range 8).map fun j => (Src.reg (n + BitVec.ofNat 7 j), 1) | _ => []
  engPlan o (!o.w || o.idx != 0x3F || o.imm.toNat ≥ 16) srcs (fun x => n % 2 != 0 || decide (n > 120) || decide (n + 8 > x.team.k.s))
    (srcs.map fun c => { src := c, operand := fun x => shapeBad (shapeWords x o) })

/-- ENG.SHAPE (R163). -/
def execEngShape (o : Eng) : State → Out :=
  program (.engShape o) (engShapePlan o) fun x =>
    if !x.selected then .ok (engSkip x o) else
    engStart x (.ok (x.seq (x.s.updTeam x.g.team fun t => { t with shapes := t.shapes.put o.imm.toNat (shapeWords x o) })))

/-! ## Copy functions (R164, R165) -/

/-- Container bytes of a format in memory (R165). -/
def containerBytes (fmt : Nat) : Nat :=
  let w := elemWidth fmt
  if w ≤ 8 then 1 else if w ≤ 16 then 2 else if w ≤ 32 then 4 else 8

inductive CopyFn where
  | copy | plane | gather | scatter | fill | unplane
deriving DecidableEq, Repr

/-- Fields of a copy function (R164): tensor space only and always for PLANE's destination and UNPLANE's source. -/
def copyIllegal (f : CopyFn) (o : Eng) : Bool :=
  let ss := o.imm.toNat / 16 % 4
  let ds := o.imm.toNat / 64 % 4
  decide (o.imm.toNat ≥ 2 ^ 11) || decide (o.imm.toNat / 256 % 8 > 4) || (decide (ss = 3) != decide (f = .unplane)) ||
    (decide (ds = 3) != decide (f = .plane)) || (decide (f = .fill) && ss != 0)

/-- A slot that suits the function (R163, R165). -/
def copySuits (f : CopyFn) (h : Shape) : Bool :=
  match f with
  | .copy | .fill => true
  | .gather | .scatter => h.rows == 1 && [1, 2, 4, 8].contains h.elem
  | .plane | .unplane => decide (h.elem < 128) && mtxFormat (h.elem % 64) && h.rows % 16 == 0 && h.len == 16 * containerBytes (h.elem % 64)

/-- Bytes that a PLANE or UNPLANE spans in TENSOR space. -/
def planeSpan (h : Shape) : Nat := h.rows / 16 * blockBytes (h.elem / 64 == 1) (h.elem % 64)

/-- The ranges of a copy function and the operation that they make (R158 step 3, R165). The address list of a SCATTER, which lies in
the destination space, is read: it is checked for R and registered as a source (DESIGN CHOICE: the spec does not say which permission
and which lock it takes; log 95). -/
def copyOp (x : Issue) (f : CopyFn) (o : Eng) (h : Shape) (idx : Nat) : Except Stop EngOp :=
  let ss := spaceOf (o.imm.toNat / 16 % 4)
  let ds := spaceOf (o.imm.toNat / 64 % 4)
  let sideB := h.elem / 64 == 1
  let base : EngOp := { x.engOp false idx .copy with
    sspace := ss, dspace := ds, len := h.len, rows := h.rows, spitch := h.spitch, dpitch := h.dpitch, elem := h.elem,
    fmt := BitVec.ofNat 6 h.elem, scope := BitVec.ofNat 3 (x.scope (BitVec.ofNat 3 (o.imm.toNat / 256 % 8))) }
  let done := fun (op : EngOp) (s d : List RangeHold) => { op with locks := s ++ d }
  match f with
  | .copy =>
    let op := { base with src := x.engAddr ss o.a, dst := x.engAddr ds o.b }
    (allHolds x ss (rowStarts ss op.src h.rows h.spitch) h.len permR false).bind fun s =>
      (allHolds x ds (rowStarts ds op.dst h.rows h.dpitch) h.len permW true).map fun d => done op s d
  | .fill =>
    let op := { base with work := .fill (x.read groupThread o.b 0), dst := x.engAddr ds o.a }
    (allHolds x ds (rowStarts ds op.dst h.rows h.dpitch) h.len permW true).map fun d => done op [] d
  | .gather =>
    let n := h.len / h.elem
    let op := { base with work := .gather, src := x.engAddr ss o.a, dst := x.engAddr ds o.b, len := n * h.elem }
    if n = 0 then .ok op else
    (allHolds x ss [op.src] (8 * n) permR false).bind fun s => (allHolds x ds [op.dst] (n * h.elem) permW true).map fun d => done op s d
  | .scatter =>
    let n := h.len / h.elem
    let op := { base with work := .scatter, src := x.engAddr ss o.a, dst := x.engAddr ds o.b, len := n * h.elem }
    if n = 0 then .ok op else
    (allHolds x ss [op.src] (n * h.elem) permR false).bind fun s => (allHolds x ds [op.dst] (8 * n) permR false).map fun d => done op s d
  | .plane =>
    let op := { base with work := .plane sideB, src := x.engAddr ss o.a, dst := x.engWord o.b }
    (allHolds x ss (rowStarts ss op.src h.rows h.spitch) h.len permR false).bind fun s =>
      (allHolds x ds [op.dst] (planeSpan h) permW true).map fun d => done op s d
  | .unplane =>
    let op := { base with work := .unplane sideB, src := x.engWord o.a, dst := x.engAddr ds o.b }
    (allHolds x ss [op.src] (planeSpan h) permR false).bind fun s =>
      (allHolds x ds (rowStarts ds op.dst h.rows h.dpitch) h.len permW true).map fun d => done op s d

/-- The slot that a copy function names does not suit it (R163, R165). -/
def copyBad (f : CopyFn) (o : Eng) (x : Issue) : Bool := !((shapeAt x (o.imm.toNat % 16)).any (copySuits f))

/-- What a copy function asks for (R55). -/
def copyPlan (f : CopyFn) (o : Eng) : Plan :=
  engPlan o (copyIllegal f o) [(o.a, 2), (o.b, if f = .fill then 1 else 2)] (copyBad f o)

/-- A copy function at its ENG (R158). -/
def engCopy (i : Instr) (f : CopyFn) (o : Eng) : State → Out :=
  program i (copyPlan f o) fun x =>
    if !x.selected then .ok (engSkip x o) else
    engStart x <|
      match shapeAt x (o.imm.toNat % 16) with
      | none => .error (.trap tIllegalOperand)
      | some h =>
        (copyOp x f o h ((pickEngine x o).getD 0)).bind fun op =>
        match (pickEngine x o).bind fun _ => x.enter x.s o op with
        | some (_, s1, w) => .ok (engReply x o s1 w)
        | none => .error (.wait .stalled .engine)

/-- ENG.COPY (R165). -/
def execEngCopy (o : Eng) : State → Out := engCopy (.engCopy o) .copy o
/-- ENG.PLANE (R165). -/
def execEngPlane (o : Eng) : State → Out := engCopy (.engPlane o) .plane o
/-- ENG.GATHER (R165). -/
def execEngGather (o : Eng) : State → Out := engCopy (.engGather o) .gather o
/-- ENG.SCATTER (R165). -/
def execEngScatter (o : Eng) : State → Out := engCopy (.engScatter o) .scatter o
/-- ENG.FILL (R165). -/
def execEngFill (o : Eng) : State → Out := engCopy (.engFill o) .fill o
/-- ENG.UNPLANE (R165). -/
def execEngUnplane (o : Eng) : State → Out := engCopy (.engUnplane o) .unplane o

/-! ## WAIT, QUERY, CANCEL (R161, R162) -/

def tokenPlan (o : Eng) : Plan := engPlan o (o.idx != 0 || o.imm != 0) [(o.a, 1)]

/-- An ended operation's status; DONE raises the group's horizon to its completion time (R161, R193). -/
def tokenDone (x : Issue) (o : Eng) (k : Token) (st : W32) : State :=
  engReplied x o (if st = stDone then x.s.updGroup x.g fun g => g.raise k.done else x.s) st

/-- The token that WAIT, QUERY and CANCEL name. -/
def tokenNamed (x : Issue) (o : Eng) : Except W32 (Nat × Token) := tokenLook x.team o.cls (x.read groupThread o.a 0)

/-- ENG.WAIT (R161). -/
def execEngWait (o : Eng) : State → Out :=
  program (.engWait o) (tokenPlan o) fun x =>
    if !x.selected then .ok (engSkip x o) else
    engStart x <|
      match tokenNamed x o with
      | .error st => .ok (engReply x o x.s st)
      | .ok (e, k) => match k.ended with
        | some (st, _) => .ok (x.seq (tokenDone x o k st))
        | none => .error (.wait .parked (.token e))

/-- What QUERY leaves (R161). -/
def queryEffect (x : Issue) (o : Eng) : State :=
  match tokenNamed x o with
  | .error st => engReplied x o x.s st
  | .ok (_, k) => match k.ended with
    | some (st, _) => tokenDone x o k st
    | none => engReplied x o x.s stPending

/-- ENG.QUERY (R161). -/
def execEngQuery (o : Eng) : State → Out :=
  program (.engQuery o) (tokenPlan o) fun x =>
    if !x.selected then .ok (engSkip x o) else engStart x (.ok (x.seq (queryEffect x o)))

/-- What CANCEL leaves: it ends an operation that has not ended (R162). -/
def cancelEffect (x : Issue) (o : Eng) : State :=
  match tokenNamed x o with
  | .error _ => engReplied x o x.s 2
  | .ok (_, k) => if k.ended.isSome then engReplied x o x.s 1 else engReplied x o (x.s.endOp k.op stCancelled) 0

/-- ENG.CANCEL (R162). -/
def execEngCancel (o : Eng) : State → Out :=
  program (.engCancel o) (tokenPlan o) fun x =>
    if !x.selected then .ok (engSkip x o) else engStart x (.ok (x.seq (cancelEffect x o)))

/-! ## Counters and triggers (R167, R170, R171, R195) -/

/-- The peer entry of a number where it may be used by a collective (R451): its endpoint. -/
def State.peer? (s : State) (n : Nat) : Option (W64 × W64) :=
  if n ≥ 4096 then none else
  (s.io.peers.find? n).bind fun (a, b) => if a.getLsbD 63 && a.extractLsb' 61 2 == 0 then some (a, b) else none

/-- The peer that a collective operation names. -/
def EngWork.peerNo : EngWork → Option Nat
  | .send p .. => some p
  | .reduce p .. => some p
  | _ => none

/-- The skew groups whose tracked collective a firing of a slot is (R451): the lowest-numbered entry of the group names the
slot, and an operation that the firing starts names a peer of the group. -/
def State.tracked (s : State) (slot : Nat) (ops : List Nat) : List Nat :=
  (List.range 8).filter fun g => g != 0 &&
    (match List.find? (fun ((_, e) : Nat × W64 × W64) => e.1.getLsbD 63 && peerGroup e == g) s.io.peers with
      | some (_, e) => peerTrig e == slot
      | none => false) &&
    ops.any fun id => (s.ops.find? id).any fun o => (o.work.peerNo.bind s.peer?).any fun e => peerGroup e == g

/-- A pool returns from the step of an arrival skew: a step not yet taken is forgotten (R425), and a class that is in force stays. -/
def Cluster.unskew (c : Cluster) : Cluster :=
  match c.skewFrom with
  | some p =>
    let now := match c.changing with | some (_, n) => n | none => c.cls
    let back := if c.stepTo.isSome ∨ now = p then none else some p
    { c with skewFrom := none, stepNoted := false, stepTo := back }
  | none => c

/-- The next tracked collective ends what an arrival skew did for the one before: power lent or borrowed, and the steps of
classes (R425). -/
def State.endSkew (s : State) : State :=
  let back := fun ((k, c) : Nat × Cluster) => (k, c.unskew)
  let due := (s.clusters.filter fun ((_, c) : Nat × Cluster) => c.skewFrom.isSome).map (·.1)
  let s1 := { s with clusters := s.clusters.map back, io := { s.io with power := { s.io.power with borrowed := 0, lent := 0 } } }
  due.foldl (fun (u : State) k => u.clusterBoundary k) s1

/-- Start the operations bound to a slot in binding order, then empty and disarm it (R170). -/
def State.fire (s : State) (ctx slot : Nat) : State :=
  let t := (s.ctx ctx).trig.get {} slot
  match t.armed with
  | none => s
  | some (c, thr) =>
    if t.bound.isEmpty || (s.ctx ctx).counters.get 0 c < thr then s else
    let groups := s.tracked slot t.bound
    let number := fun (u : State) (g : Nat) =>
      { u with io := { u.io with power := { u.io.power with collectives := u.io.power.collectives.set 0 g (u.io.power.collectives.get 0 g + 1) } } }
    let s1 := groups.foldl number (if groups.isEmpty then s else s.endSkew)
    let tags := groups.map fun g => (g, s1.io.power.collectives.get 0 g)
    let start := fun (u : State) (id : Nat) =>
      u.updOp id fun o => { o with mode := .queued, skew := tags, peer := o.work.peerNo.bind u.peer?, reached := u.time }
    let s2 := t.bound.foldl start s1
    s2.updCtx ctx fun x => { x with trig := x.trig.put slot { armed := none, bound := [] } }

/-- A counter takes a value; every slot that it arms is tested (R170). -/
def State.setCounter (s : State) (ctx c v : Nat) : State :=
  let s1 := s.updCtx ctx fun x => { x with counters := x.counters.set 0 c (min (2 ^ 32 - 1) v) }
  (List.range 256).foldl (fun (u : State) slot =>
    if (((u.ctx ctx).trig.find? slot).bind (·.armed)).any fun p => p.1 == c then u.fire ctx slot else u) s1

/-- What ENG.CNTRD asks for (R55). -/
def engCntrdPlan (o : Eng) : Plan := engPlan o (o.idx != 0x3F || o.imm != 0 || o.w) [(o.a, 1)]

/-- The counter that an ENG names in a, of 256. -/
def engCounter (o : Eng) (x : Issue) : Nat := x.engWord o.a % 256

/-- ENG.CNTRD (R171). -/
def execEngCntrd (o : Eng) : State → Out :=
  program (.engCntrd o) (engCntrdPlan o) fun x =>
    if !x.selected then .ok (engSkip x o) else
    engStart x (.ok (engReply x o x.s (BitVec.ofNat 32 (x.context.counters.get 0 (engCounter o x)))))

/-- What ENG.CNTADD asks for (R55). -/
def engCntaddPlan (o : Eng) : Plan := engPlan o (o.idx != 0x3F || o.imm != 0) [(o.a, 1), (o.b, 1)]

/-- The sum of CNTADD, clamped to a counter's range (R171). -/
def engSum (o : Eng) (x : Issue) : Nat :=
  (max 0 (min (2 ^ 32 - 1) (((x.context.counters.get 0 (engCounter o x) : Nat) : Int) + (x.read groupThread o.b 0).toInt))).toNat

/-- ENG.CNTADD (R171). -/
def execEngCntadd (o : Eng) : State → Out :=
  program (.engCntadd o) (engCntaddPlan o) fun x =>
    if !x.selected then .ok (engSkip x o) else
    engStart x (.ok (engReply x o (x.s.setCounter x.team.ctx (engCounter o x) (engSum o x)) (BitVec.ofNat 32 (engSum o x))))

/-- The register value that ENG.ARM refuses: a counter above 255. -/
def armJudged (o : Eng) : Judged := { src := (o.a, 1), operand := fun x => decide (x.engWord o.a ≥ 256) }

/-- What ENG.ARM asks for (R55). -/
def engArmPlan (o : Eng) : Plan := engPlan o (o.idx != 0x3F || decide (o.imm.toNat ≥ 256)) [(o.a, 1), (o.b, 1)] (judged := [armJudged o])

/-- The slot armed, the operation of the ARM ended at once, and the slot tested (R170). -/
def armed (o : Eng) (x : Issue) (id : Nat) (s1 : State) : State :=
  let slot := o.imm.toNat
  let s2 := s1.updCtx x.team.ctx fun c => { c with trig := c.trig.put slot { c.trig.get {} slot with armed := some (x.engWord o.a, x.engWord o.b) } }
  (s2.endOp id stDone).fire x.team.ctx slot

/-- ENG.ARM (R170): DONE at once. The index field of its token is 0x3F, since no engine takes it (DESIGN CHOICE: the spec does not say
what the field of such a token holds; log 90). -/
def execEngArm (o : Eng) : State → Out :=
  program (.engArm o) (engArmPlan o) fun x =>
    if !x.selected then .ok (engSkip x o) else
    engStart x <|
      match x.enter x.s o (x.engOp true 0x3F .copy) with
      | none => .error (.wait .stalled .engine)
      | some (id, s1, w) => .ok (engReply x o (armed o x id s1) w)

/-! ## Collective functions (R167 to R169) -/

/-- The register value that ENG.RECV refuses. -/
def recvJudged (o : Eng) : Judged := { src := (o.b, 1), operand := fun x => decide (x.engWord o.b ≥ 65536) }

/-- What ENG.RECV asks for (R55). -/
def engRecvPlan (o : Eng) : Plan :=
  engPlan o (decide (o.imm.toNat ≥ 16)) [(o.a, 2), (o.b, 1)] (fun x => (shapeAt x (o.imm.toNat % 16)).isNone) [recvJudged o]

/-- The operation of a RECV: its buffer, its slot and its counter (R167). -/
def recvOp (o : Eng) (x : Issue) (h : Shape) (idx : Nat) (d : List RangeHold) : EngOp :=
  { x.engOp true idx (.recv (x.engWord o.b % 256) (x.engWord o.b / 256)) with
    dst := x.engAddr .global o.a, len := h.len * h.rows, rows := 1, elem := h.elem, fmt := BitVec.ofNat 6 h.elem, locks := d }

/-- The operation posted in its slot, or ended where the slot is taken (R167). -/
def recvPosted (o : Eng) (x : Issue) (id : Nat) (s1 : State) : State :=
  let slot := x.engWord o.b % 256
  if (x.context.recv.get none slot).isSome then s1.endOp id stSlotBusy
  else s1.updCtx x.team.ctx fun c => { c with recv := c.recv.put slot (some id) }

/-- ENG.RECV (R167). -/
def execEngRecv (o : Eng) : State → Out :=
  program (.engRecv o) (engRecvPlan o) fun x =>
    if !x.selected then .ok (engSkip x o) else
    engStart x <|
      match shapeAt x (o.imm.toNat % 16) with
      | none => .error (.trap tIllegalOperand)
      | some h =>
        (allHolds x .global [x.engAddr .global o.a] (h.len * h.rows) permW true).bind fun d =>
        match (pickEngine x o).bind fun e => x.enter x.s o (recvOp o x h e d) with
        | none => .error (.wait .stalled .engine)
        | some (id, s1, w) => .ok (engReply x o (recvPosted o x id s1) w)

/-- The operand formats of a REDUCE (R169). -/
def reduceFmt (f : Nat) : Bool := f == 0x01 || f == 0x02 || f == 0x04 || f == 0x28 || f == 0x29

/-- The trigger slot of a SEND, and whether it is bound to it (R168). -/
def sendSlot (o : Eng) : Nat := o.imm.toNat / 16 % 256
def sendBound (o : Eng) : Bool := o.imm.getLsbD 12

/-- The operation of a SEND or REDUCE, which starts after the completion time `t` of its write-through (R158 step 4). -/
def sendOp (o : Eng) (x : Issue) (h : Shape) (idx : Nat) (work : Nat → Nat → Nat → Shape → EngWork) (d : List RangeHold) (t : Nat) : EngOp :=
  let op := x.engOp true idx (work (x.engWord o.b % 65536) (x.engWord o.b / 65536) (x.engWord o.b 1) h)
  { op with
    src := x.engAddr .global o.a, len := h.len, rows := 1, elem := h.elem, fmt := BitVec.ofNat 6 h.elem, locks := d,
    peer := if sendBound o then none else op.work.peerNo.bind x.s.peer?,
    mode := if sendBound o then .bound (sendSlot o) else .queued, after := max op.after t }

/-- The operation queued, or bound to its slot where fewer than 16 are (R168, R170). -/
def sendPlaced (o : Eng) (x : Issue) (id : Nat) (s1 : State) : State :=
  let tg := (s1.ctx x.team.ctx).trig.get {} (sendSlot o)
  if !sendBound o then s1
  else if tg.bound.length ≥ 16 then s1.endOp id stSlotBusy
  else (s1.updCtx x.team.ctx fun c => { c with trig := c.trig.put (sendSlot o) { tg with bound := tg.bound ++ [id] } }).fire x.team.ctx (sendSlot o)

/-- SEND and REDUCE: the source is written through (R158 step 4), which a write-back held at its home keeps from being done (R77);
the operation then starts or is bound to its slot (R168). -/
def sendBody (o : Eng) (work : Nat → Nat → Nat → Shape → EngWork) : Body := fun x =>
  if !x.selected then .ok (engSkip x o) else
  engStart x <|
    match shapeAt x (o.imm.toNat % 16) with
    | none => .error (.trap tIllegalOperand)
    | some h =>
      (allHolds x .global [x.engAddr .global o.a] h.len permR false).bind fun d =>
      let c := x.s.cleanRange x.die d
      if c.1.rangeHeld x.die d then
        let v := (x.pre.cleanRange x.die d).1
        .error (x.hold v (.through x.die v.next 0))
      else match (pickEngine x o).bind fun e => x.enter c.1 o (sendOp o x h e work d c.2) with
      | none => .error (.wait .stalled .engine)
      | some (id, s1, w) => .ok (engReply x o (sendPlaced o x id s1) w)

/-- Slots that do not suit SEND and REDUCE (R163, R168, R169), and the register value that both refuse. -/
def sendBad (o : Eng) (x : Issue) : Bool := !((shapeAt x (o.imm.toNat % 16)).any fun h => h.rows == 1)
def reduceBad (o : Eng) (x : Issue) : Bool :=
  sendBad o x || !((shapeAt x (o.imm.toNat % 16)).any fun h => decide (h.elem < 128) && reduceFmt (h.elem % 64))
def sendJudged (o : Eng) : Judged := { src := (o.b, 2), operand := fun x => decide (x.engWord o.b ≥ 2 ^ 24) }

/-- What ENG.SEND and ENG.REDUCE ask for (R55). -/
def engSendPlan (o : Eng) : Plan := engPlan o (decide (o.imm.toNat ≥ 2 ^ 13)) [(o.a, 2), (o.b, 2)] (sendBad o) [sendJudged o]
def engReducePlan (o : Eng) : Plan := engPlan o (decide (o.imm.toNat / 2 ^ 13 = 3)) [(o.a, 2), (o.b, 2)] (reduceBad o) [sendJudged o]

/-- The work of a SEND and of a REDUCE: peer, slot, offset, and how a REDUCE combines. -/
def sendWork (p r off : Nat) (_ : Shape) : EngWork := .send p r off
def reduceWork (o : Eng) (p r off : Nat) (h : Shape) : EngWork :=
  .reduce p r off (BitVec.ofNat 2 (o.imm.toNat / 2 ^ 13)) (BitVec.ofNat 6 h.elem)

/-- ENG.SEND (R168). -/
def execEngSend (o : Eng) : State → Out := program (.engSend o) (engSendPlan o) (sendBody o sendWork)

/-- ENG.REDUCE (R169). -/
def execEngReduce (o : Eng) : State → Out := program (.engReduce o) (engReducePlan o) (sendBody o (reduceWork o))

/-! ## Accesses of an operation (R71, R89, R108, R192) -/

/-- Why an operation's access does not go on: a fault response with its page, a failed element, or a consumed poison. -/
inductive EngStop where
  | fault (ia : Nat) (g : LaneStage) (write : Bool)
  | window (cause : Nat)
  | poison (ia : Nat)
deriving DecidableEq, Repr

/-- Sectors of a line that bytes touch. -/
def sectorsOf (o n : Nat) : BitVec 4 :=
  (List.range 4).foldl (fun m i => if 64 * i < o + n ∧ o < 64 * i + 64 then m ||| (1 <<< i) else m) 0

/-- Read bytes of one line: a copy engine through its die L2, a collective engine at the home (R192). -/
def State.engLine (s : State) (o : EngOp) (ia n : Nat) : Except EngStop (State × List Byte) :=
  let line := lineOf ia
  let (mask, _) := lineOfBytes (ia % 256) (List.replicate n 0)
  let out := fun (u : State) => if poisonedAt (u.l2 o.die line).poison (ia % 256) n then Except.error (EngStop.poison ia)
    else .ok (u, lineBytes (u.l2 o.die line).data (ia % 256) n)
  if !o.cls && homeOf ia < 8 && s.l2Has o.die line mask then out s
  else match s.walkFor ia false with
    | .error g => .error (.fault ia g false)
    | .ok l =>
      if !o.cls && homeOf ia < 8 then out (s.grant o.die line l (sectorsOf (ia % 256) n))
      else if s.homePoisoned ia n l then .error (.poison ia)
      else let (bs, s1) := (s.touch ia l false).homeRead ia n l false; .ok (s1, bs)

/-- Write bytes of one line; the answer is the completion time at the operation's scope (R164, R177). A collective engine's write
reaches the home behind the dirty bytes of the line in the dies (R193, R195). -/
def State.engStore (s : State) (o : EngOp) (ia : Nat) (bs : List Byte) : Except EngStop (State × Nat) :=
  let line := lineOf ia
  let (mask, data) := lineOfBytes (ia % 256) bs
  let x := s.l2 o.die line
  let through := fun (u : State) (t : Nat) =>
    if o.scope.toNat ≥ 3 then
      let (u1, t1) := u.cleanL2 o.die line o.ctx (some (.op o.id))
      let u2 := if o.scope = 4 then (match u1.walk ia with | .leaf l => if l.kind = 2 then u1 else u1.flushSlice line | _ => u1) else u1
      (u2, max t t1)
    else (u, t)
  let accept := fun (u : State) => let (u1, t) := u.l2Write o.die line mask data; through u1 t
  if !o.cls && homeOf ia < 8 && x.permit && decide (s.time < x.lease) then .ok (accept s)
  else match s.walkFor ia true with
    | .error g => .error (.fault ia g true)
    | .ok l =>
      if !o.cls && homeOf ia < 8 then .ok (accept ((s.touch ia l true).grant o.die line l 0))
      else .ok ((s.gather line).1.homeWrite ia l bs)

/-- A global address of a row of an operation: every byte of the row goes through the window that its first byte hits (R67). -/
def EngOp.place (o : EngOp) (row va : Nat) : Option Nat := (hitWindow o.windows row).map fun w => translate w va

/-- Read `n` bytes of a row in global space line by line; `fuel` bounds the lines. -/
def State.engRead (s : State) (o : EngOp) (row va n : Nat) : Nat → Except EngStop (State × List Byte)
  | 0 => .ok (s, [])
  | fuel + 1 =>
    if n = 0 then .ok (s, []) else
    let k := min n (256 - va % 256)
    match o.place row va with
    | none => .error (.window 2)
    | some ia => (s.engLine o ia k).bind fun (s1, bs) =>
        (s1.engRead o row (va + k) (n - k) fuel).map fun (s2, r) => (s2, bs ++ r)

/-- Write bytes of a row in global space line by line: the state with what has been written, the latest completion time, and what
stopped it. -/
def State.engWrite (s : State) (o : EngOp) (row va : Nat) (bs : List Byte) : Nat → State × Nat × Nat × Option EngStop
  | 0 => (s, 0, 0, none)
  | fuel + 1 =>
    if bs.isEmpty then (s, 0, 0, none) else
    let k := 256 - va % 256
    match o.place row va with
    | none => (s, 0, 0, some (.window 2))
    | some ia => match s.engStore o ia (bs.take k) with
      | .error e => (s, 0, 0, some e)
      | .ok (s1, t) =>
        let (s2, t2, n2, e) := s1.engWrite o row (va + k) (bs.drop k) fuel
        (s2, max t t2, (bs.take k).length + n2, e)

/-- Read bytes of a row in a space. -/
def State.engGet (s : State) (o : EngOp) (sp : Space) (row va n : Nat) : Except EngStop (State × List Byte) :=
  match sp with
  | .global => s.engRead o row va n (n / 256 + 2)
  | .vault =>
    let p := o.vaultPlace va
    if s.vaultPoison (p / 2 ^ 25) (p % 2 ^ 25) n then .error (.poison va)
    else .ok (s, readBytes s.mem (vaultAt (p / 2 ^ 25) (p % 2 ^ 25)) n)
  | _ => let (c, b) := o.arrayPlace sp va; .ok (s, readBytes s.mem (arrayAt c b) n)

/-- Write bytes of a row in a space: bytes written, completion time, and what stopped it. -/
def State.engPut (s : State) (o : EngOp) (sp : Space) (row va : Nat) (bs : List Byte) : State × Nat × Nat × Option EngStop :=
  match sp with
  | .global => s.engWrite o row va bs (bs.length / 256 + 2)
  | .vault =>
    let p := o.vaultPlace va
    ((({ s with mem := writeBytes s.mem (vaultAt (p / 2 ^ 25) (p % 2 ^ 25)) bs } : State).clearVaultPoison (p / 2 ^ 25) (p % 2 ^ 25) bs.length),
      s.time, bs.length, none)
  | _ => let (c, b) := o.arrayPlace sp va; ({ s with mem := writeBytes s.mem (arrayAt c b) bs }, s.time, bs.length, none)

/-- Lines of a source that are not present keep an engine waiting (R124); what the operation itself holds does not. -/
def State.engAbsent (s : State) (o : EngOp) (sp : Space) (va n : Nat) : Bool :=
  if sp = .scratch ∨ sp = .tensor then
    let (c, b) := o.arrayPlace sp va
    (List.range ((b + n - 1) / 256 + 1 - b / 256)).any fun i =>
      decide ((s.core c).presence.get 0 (b / 256 + i) > (if o.lines.contains (c * 2048 + b / 256 + i) then 1 else 0))
  else false

/-! ## Progress (R108, R123, R165) -/

/-- Bytes of one destination row, the rows and the distance between them. -/
def EngOp.outRows (o : EngOp) : Nat × Nat × Int :=
  match o.work with
  | .plane b => let n := blockBytes b o.fmt.toNat; (n, o.rows / 16, n)
  | _ => (o.len, o.rows, o.dpitch)
def EngOp.total (o : EngOp) : Nat := let (n, r, _) := o.outRows; n * r

/-- The destination row of byte `p` of an operation, and where the byte goes. -/
def EngOp.outRow (o : EngOp) (p : Nat) : Nat := let (n, _, pitch) := o.outRows; rowAt o.dspace o.dst pitch (p / n)
def EngOp.outAt (o : EngOp) (p : Nat) : Nat := o.outRow p + p % o.outRows.1

/-- One piece of work at the operation's progress: the row that it lies in, where its bytes go, and the bytes. -/
structure Piece where
  space : Space
  row : Nat
  va : Nat
  bytes : List Byte
deriving DecidableEq, Repr

/-- The elements of a block of a PLANE source, as codes (R165). -/
def planeCodes (bs : List Byte) (cont width : Nat) (i : Nat) : Nat := leNat ((bs.drop (i * cont)).take cont) % 2 ^ width

/-- Read the rows of a block of a PLANE. -/
def State.planeRows (s : State) (o : EngOp) (r : Nat) : Nat → Except EngStop (State × List Byte)
  | 0 => .ok (s, [])
  | n + 1 =>
    let a := rowAt o.sspace o.src o.spitch r
    (s.engGet o o.sspace a a o.len).bind fun (s1, bs) =>
      (s1.planeRows o (r + 1) n).map fun (s2, t) => (s2, bs ++ t)

/-- An element address of a list, checked under the windows of the ENG (R71). The cause of a misaligned one is 0 (log 75). -/
def elemCheck (o : EngOp) (va perm : Nat) : Except EngStop Unit :=
  match checkAccess o.windows va o.elem perm with
  | .ok _ => .ok ()
  | .error (_, c) => .error (.window c)

/-- The next piece of an operation that copies (R165), with the state after its reads. -/
def State.nextPiece (s : State) (o : EngOp) : Except EngStop (State × Piece) :=
  let p := o.progress
  let row := o.outRow p
  let at_ := o.outAt p
  let left := o.len - p % max 1 o.len
  match o.work with
  | .fill pat =>
    let k := min left (256 - at_ % 256)
    .ok (s, { space := o.dspace, row := row, va := at_, bytes := (List.range k).map fun i => pat.extractLsb' (8 * ((at_ + i) % 4)) 8 })
  | .gather =>
    let j := p / max 1 o.elem
    (s.engGet o o.sspace o.src (o.src + 8 * j) 8).bind fun (s1, l) =>
      (elemCheck o (leNat l) permR).bind fun _ =>
      (s1.engGet o .global (leNat l) (leNat l) o.elem).map fun (s2, bs) => (s2, { space := o.dspace, row := o.dst, va := o.dst + p, bytes := bs })
  | .scatter =>
    let j := p / max 1 o.elem
    (s.engGet o o.dspace o.dst (o.dst + 8 * j) 8).bind fun (s1, l) =>
      (elemCheck o (leNat l) permW).bind fun _ =>
      (s1.engGet o o.sspace o.src (o.src + p) o.elem).map fun (s2, bs) => (s2, { space := .global, row := leNat l, va := leNat l, bytes := bs })
  | .plane sideB =>
    let n := blockBytes sideB o.fmt.toNat
    let cont := containerBytes o.fmt.toNat
    (s.planeRows o (16 * (p / n)) 16).map fun (s1, bs) =>
      let el := planeCodes bs cont (elemWidth o.fmt.toNat)
      (s1, { space := .tensor, row := row, va := at_, bytes := (List.range n).map (blockByte sideB o.fmt.toNat el) })
  | .unplane sideB =>
    let n := blockBytes sideB o.fmt.toNat
    let cont := containerBytes o.fmt.toNat
    let r := p / o.len
    let k := min left (256 - at_ % 256)
    (s.engGet o .tensor o.src (o.src + n * (r / 16)) n).map fun (s1, bs) =>
      let f := fun (i : Nat) => (bs.getD i 0).toNat
      let cells := (List.range 16).flatMap fun c => leBytes cont (blockCode sideB o.fmt.toNat f (r % 16) c)
      (s1, { space := o.dspace, row := row, va := at_, bytes := (cells.drop (p % o.len)).take k })
  | _ =>
    let first := rowAt o.sspace o.src o.spitch (p / o.len)
    let from_ := first + p % o.len
    let k := min left (min (256 - at_ % 256) (256 - from_ % 256))
    (s.engGet o o.sspace first from_ k).map fun (s1, bs) => (s1, { space := o.dspace, row := row, va := at_, bytes := bs })

/-- Source places that the next piece reads: space, first byte of the row, first byte, bytes. -/
def EngOp.needs (o : EngOp) : List (Space × Nat × Nat × Nat) :=
  let p := o.progress
  match o.work with
  | .fill _ => []
  | .gather => [(o.sspace, o.src, o.src + 8 * (p / max 1 o.elem), 8)]
  | .scatter => [(o.dspace, o.dst, o.dst + 8 * (p / max 1 o.elem), 8), (o.sspace, o.src, o.src + p, o.elem)]
  | .plane b =>
    let r := 16 * (p / blockBytes b o.fmt.toNat)
    (List.range 16).map fun i => let a := rowAt o.sspace o.src o.spitch (r + i); (o.sspace, a, a, o.len)
  | .unplane b => [(.tensor, o.src, o.src + blockBytes b o.fmt.toNat * (p / o.len / 16), blockBytes b o.fmt.toNat)]
  | .send .. | .reduce .. => [(.global, o.src, o.src + o.got.length, 1)]
  | .recv .. => []
  | .copy => let a := rowAt o.sspace o.src o.spitch (p / o.len); [(o.sspace, a, a + p % o.len, min 256 (o.len - p % o.len))]

/-- The element address that a GATHER or SCATTER reaches next, where its list can be read. -/
def State.opElement (s : State) (o : EngOp) : Option (Nat × Bool) :=
  let at_ := fun (sp : Space) (base : Nat) (w : Bool) =>
    match s.engGet o sp base (base + 8 * (o.progress / max 1 o.elem)) 8 with
    | .ok (_, l) => (o.place (leNat l) (leNat l)).map fun ia => (ia, w)
    | .error _ => none
  match o.work with
  | .gather => at_ o.sspace o.src false
  | .scatter => at_ o.dspace o.dst true
  | _ => none

/-- The destination in global space that the next bytes of an operation go to. -/
def EngOp.target (o : EngOp) : Option Nat :=
  match o.work with
  | .send .. | .reduce .. | .scatter => none
  | .recv .. => o.chunk.bind fun c => o.place o.dst (o.dst + c.off + o.progress)
  | _ => if o.dspace = .global then o.place (o.outRow o.progress) (o.outAt o.progress) else none

/-- Intermediate addresses that the next access of an operation reaches, and whether it writes them. -/
def State.opPlaces (s : State) (o : EngOp) : List (Nat × Bool) :=
  (o.needs.filterMap fun (sp, row, va, _) => if sp = .global then (o.place row va).map fun ia => (ia, false) else none) ++
    ((s.opElement o).toList ++ (o.target.map fun ia => (ia, true)).toList)

/-- An access of an operation that its die L2 does not serve reaches the home (R89). -/
def State.opNeedsHome (s : State) (o : EngOp) (ia : Nat) (write : Bool) : Bool :=
  o.cls || decide (homeOf ia ≥ 8) ||
    (if write then !((s.l2 o.die (lineOf ia)).permit && decide (s.time < (s.l2 o.die (lineOf ia)).lease))
      else !s.l2Has o.die (lineOf ia) (lineOfBytes (ia % 256) [0]).1)

/-- Lines that no byte after the progress falls in any more: their counts fall (R123). -/
def EngOp.finished (o : EngOp) : List Nat :=
  let (n, rows, pitch) := o.outRows
  let r0 := o.progress / n
  o.lines.filter fun k => !((List.range (rows - r0)).any fun i =>
    let r := r0 + i
    let skip := if i = 0 then o.progress % n else 0
    let (c, b) := o.arrayPlace o.dspace (rowAt o.dspace o.dst pitch r + skip)
    decide (skip < n) && c == k / 2048 && decide (b / 256 ≤ k % 2048) && decide (k % 2048 ≤ (b + (n - skip) - 1) / 256))

/-- The other operations of an operation's engine. -/
def State.enginePeers (s : State) (id : Nat) (o : EngOp) : List (Nat × EngOp) := (s.engineOps o.cls o.die o.idx).filter fun (k, _) => k != id
/-- The operation's engine holds fewer than four other suspended operations (R108). -/
def State.mayPark (s : State) (id : Nat) (o : EngOp) : Bool :=
  decide (((s.enginePeers id o).filter fun (_, q) => q.mode == .suspended).length < 4)

/-- The engine that an operation stands at may run it: it is running or first of those queued, and no other runs. A halted one keeps
its engine until another resumes (R108). A bound operation waits for its trigger, and a RECV for its chunks. -/
def State.mayRun (s : State) (id : Nat) (o : EngOp) : Bool :=
  let peers := s.enginePeers id o
  let moves := fun (q : EngOp) => match q.work with | .recv .. => false | _ => true
  let takes := fun (q : EngOp) => q.mode == .halted || (moves q && q.mode == .running)
  moves o && (o.mode == .queued || o.mode == .running || (o.mode == .halted && s.mayPark id o)) && decide (o.after < s.time || o.after = 0) &&
    !(peers.any fun (_, q) => takes q) &&
    (o.mode != .queued || !(peers.any fun (k, q) => moves q && q.mode == .queued && decide (k < id)))

/-- The stage of an engine's faults (R99): the die's, or the I/O die's. -/
def engOrigin (o : EngOp) : Origin := if o.cls then { kind := 2, die := 0, unit := 0 } else { kind := 1, die := BitVec.ofNat 3 o.die, unit := 0 }

/-- An operation meets what stops it: suspended on a fault, or halted where its engine holds four suspended ones (R108), ended on a
bad walk or a failed element (R71, R105), or the consumption of a poisoned word (R142). A full stage leaves it where it was (R99). -/
def State.engStop (s : State) (id : Nat) (o : EngOp) (e : EngStop) : Option State :=
  match e with
  | .window c => some (s.endOp id (stWindow c))
  | .poison ia =>
    let tr := { tUncorrectable with addr := ia, pc := some o.pc }
    some (match s.saved.find? o.team with
      | some v => (s.trapKept o.team v o.grp (v.team.groups.get {} o.grp) tr 0 true).breakSaved [(o.team, v)]
      | none => s.take { team := o.team, grp := o.grp } tr)
  | .fault ia g w =>
    match g with
    | .bad c => some (s.endOp id (stPage c))
    | .resp lv wp peer =>
      if !s.mayPark id o then some (s.updOp id fun q => { q with mode := .halted }) else
      let (s1, ok) := s.report (engOrigin o)
        { ctx := o.ctx, page := granuleOf ia, level := lv, wp := wp, peer := peer, access := if w then 0b01010 else 0b01001,
          core := o.idx, pc := o.pc } (.engine id)
      if ok then some ((s1.turnEngine o).updOp id fun q => { q with mode := .suspended }) else none
    | _ => none

/-- The chunk of a SEND or REDUCE leaves for the peer (R168), over the ports of its entry (R442); of each tracked collective that the
operation is part of it is the last so far (R451). -/
def State.chunkLeaves (s : State) (id : Nat) (o : EngOp) (e : W64 × W64) (c : Chunk) : State :=
  let left := fun (p : Power) ((g, n) : Nat × Nat) => { p with leaving := p.leaving.put g (n, s.time, o.launch) }
  let s1 := { (s.updOp id fun q => { q with mode := .running, landed := 1, compl := s.time, got := [] }) with
    net := s.net ++ [.chunk id (peerEndpoint e) (s.portsFor (e.1.extractLsb' 48 8).toNat) c],
    io := { s.io with power := o.skew.foldl left s.io.power } }
  o.skew.foldl (fun (u : State) (g, n) => u.arrived g n) s1

/-- The next line of the source of a SEND or REDUCE is read, and with the last one the chunk leaves (R108, R168). The peer is the one
that its entry named when the operation started (R451). -/
def State.sendChunk (s : State) (id : Nat) (o : EngOp) (slot off : Nat) (red : Option (BitVec 2 × BitVec 6)) : Option State :=
  match o.peer with
  | none => some (s.endOp id stBadPeer)
  | some e =>
    let va := o.src + o.got.length
    match s.engRead o o.src va (min (o.len - o.got.length) (256 - va % 256)) 1 with
    | .error st => s.engStop id o st
    | .ok (s1, bs) =>
      let got := o.got ++ bs
      if got.length < o.len then some (s1.updOp id fun q => { q with mode := .running, got := got, reached := s1.time })
      else some (s1.chunkLeaves id o e { ctx := o.ctx, slot := slot, off := off, data := got, reduce := red })

/-- A home holds a write-back of bytes that an operation has just written through (R77, R164). -/
def State.bytesHeld (s : State) (o : EngOp) (row va n : Nat) : Bool :=
  (List.range (n / 256 + 2)).any fun i => (o.place row (min (va + 256 * i) (va + n - 1))).any fun ia => s.lineHeld (lineOf ia)

/-- What is left once a piece has been written as far as it goes: an element or a block counts once it is whole. -/
def State.putPiece (s : State) (op : Nat) (o : EngOp) (q : Piece) : Option State :=
  let (s2, t, n, stop) := s.engPut o q.space q.row q.va q.bytes
  let late := q.space == .global && decide (o.scope.toNat ≥ 3) && s2.bytesHeld o q.row q.va q.bytes.length
  let o1 : EngOp := { o with
    mode := .running, compl := max o.compl t, reached := s2.time, mark := if late then s2.next else o.mark,
    progress := o.progress + (match o.work with
      | .gather | .scatter => if n = q.bytes.length then n else 0
      | _ => n) }
  let gone := o1.finished
  let s3 := { s2 with ops := s2.ops.put op { o1 with lines := o1.lines.filter fun k => !gone.contains k } }
  let s4 := if gone.isEmpty then s3 else (s3.lowerLines gone).wakeAll (·.wait.onEngine)
  match stop with
  | none => some s4
  | some e => match (s4.ops.find? op).bind fun o2 => s4.engStop op o2 e with
    | some s5 => some s5
    | none => if n = 0 then none else some s4

/-- The next piece of a copy, or the stop that a read of it meets. -/
def State.copyPiece (s : State) (op : Nat) (o : EngOp) : Option State :=
  match s.nextPiece o with
  | .error e => s.engStop op o e
  | .ok (s1, q) => s1.putPiece op o q

/-- The next piece of an operation of either kind. -/
def State.nextProgress (s : State) (op : Nat) (o : EngOp) : Option State :=
  match o.work with
  | .send _ r off => if o.landed = 1 then none else s.sendChunk op o r off none
  | .reduce _ r off f fmt => if o.landed = 1 then none else s.sendChunk op o r off (some (f, fmt))
  | _ => if o.progress ≥ o.total || o.needs.any fun (sp, _, va, n) => s.engAbsent o sp va n then none else s.copyPiece op o

/-- ENGINE_WRITE_PROGRESS: the next piece of an operation. -/
def execEngineWriteProgress (op : Nat) (s : State) : Out :=
  match s.ops.find? op with
  | none => notNow "ENGINE_WRITE_PROGRESS"
  | some o =>
    if !s.mayRun op o then notNow "ENGINE_WRITE_PROGRESS" else
    match s.nextProgress op o with
    | some t => .next t
    | none => notNow "ENGINE_WRITE_PROGRESS"

/-- The operations that move bytes here, and those that send them to a peer. -/
def EngWork.copies : EngWork → Bool
  | .send .. | .reduce .. | .recv .. => false
  | _ => true
def EngWork.sends : EngWork → Bool
  | .send .. | .reduce .. => true
  | _ => false

/-- ENGINE_OPERATION_END: a copy ends once its last byte's completion time has passed (R164, R193), a SEND once its peer
has answered the landing, or that the chunk would pass the buffer's end (R160, R168). The completion time of a SEND or REDUCE is the
time at which that answer is taken (DESIGN CHOICE: the spec does not name it; log 91). -/
def execEngineOperationEnd (op : Nat) (overrun : Bool) (s : State) : Out :=
  match s.ops.find? op with
  | none => notNow "ENGINE_OPERATION_END"
  | some o =>
    match o.work with
    | .recv .. => notNow "ENGINE_OPERATION_END"
    | .send .. | .reduce .. =>
      if o.landed = 1 then
        .next ((s.updOp op fun q => { q with compl := s.time }).endOp op (if overrun then stOverrun else stDone))
      else notNow "ENGINE_OPERATION_END"
    | _ =>
      if o.progress ≥ o.total ∧ s.time > o.compl ∧ s.through o.die o.mark ∧ (o.total = 0 → s.time > o.after) ∧ !overrun then .next (s.endOp op stDone)
      else notNow "ENGINE_OPERATION_END"

/-! ## Chunks (R167 to R169) -/

/-- One element of a REDUCE (R169): the result and its counters. MAX and MIN of floats are those of FMAX and FMIN, with their counts
(DESIGN CHOICE: the spec says of floats only how sums round and count; log 92). -/
def reduceElem (op : BitVec 2) (fmt : Nat) (a b : Nat) : Nat × List Nat :=
  let w := elemWidth fmt
  if isFloatCode fmt then
    if op = 0 then roundTo fmt .rne false 0 (Val.add .rne (elemValue fmt a) (elemValue fmt b))
    else fminmax fmt (op == 1) (BitVec.ofNat 64 a) (BitVec.ofNat 64 b)
  else
    let sg := fun (v : Nat) => if v < 2 ^ (w - 1) then (v : Int) else (v : Int) - 2 ^ w
    if op = 0 then ((a + b) % 2 ^ w, [])
    else if op = 1 then (if sg a < sg b then b else a, []) else (if sg b < sg a then b else a, [])

/-- Combine whole elements; bytes past the last one stay as they are. -/
def reduceBytes (op : BitVec 2) (fmt n : Nat) : Nat → List Byte → List Byte → List Byte × List Nat
  | 0, old, _ => (old, [])
  | k + 1, old, new =>
    if new.length < n then (old, []) else
    let (v, c) := reduceElem op fmt (leNat (old.take n)) (leNat (new.take n))
    let (r, cs) := reduceBytes op fmt n k (old.drop n) (new.drop n)
    (leBytes n v ++ r, c ++ cs)

/-- What keeps an operation from writing bytes of a row: the first of their lines whose walk does not permit it. -/
def State.writeStop (s : State) (o : EngOp) (row va n : Nat) : Option EngStop :=
  (List.range (n / 256 + 2)).findSome? fun i =>
    match o.place row (min (va + 256 * i) (va + n - 1)) with
    | none => some (.window 2)
    | some ia => match s.walkFor ia true with
      | .error g => some (.fault ia g true)
      | .ok _ => none

/-- The lines of bytes of a row at their homes, with what the dies hold of them. -/
def State.gatherRow (s : State) (o : EngOp) (row va n : Nat) : State :=
  (List.range (n / 256 + 2)).foldl (fun (u : State) i => match o.place row (min (va + 256 * i) (va + n - 1)) with
    | some ia => (u.gather (lineOf ia)).1
    | none => u) s

/-- Bytes of a chunk are written at their homes, as far as they go. -/
def State.chunkWrites (s : State) (id : Nat) (o : EngOp) (va : Nat) (bs : List Byte) (cnt : List Nat) : Option State :=
  let (s1, t, n, stop) := s.engWrite { o with scope := 4 } o.dst va bs (bs.length / 256 + 2)
  let s2 := (s1.addCounts o.launch (tally cnt)).updOp id fun q => { q with
    progress := q.progress + n, compl := max q.compl t, reached := s1.time, mode := if q.mode = .halted then .queued else q.mode }
  match stop.bind fun e => (s2.ops.find? id).bind fun q => s2.engStop id q e with
  | some s3 => some s3
  | none => if n = 0 then none else some s2

/-- One element of a REDUCE is combined with what its buffer holds (R169). The buffer's window grants R, else the operation ends on the
element that fails (R63, log 77); the element is written whole. -/
def State.reduceLands (s : State) (id : Nat) (o : EngOp) (va : Nat) (op : BitVec 2) (fmt : Nat) (new : List Byte) : Option State :=
  if !((hitWindow o.windows o.dst).any fun w => winWord w 3 &&& permR == permR) then some (s.endOp id (stWindow 3)) else
  match s.writeStop o o.dst va new.length with
  | some e => s.engStop id o e
  | none =>
    match (s.gatherRow o o.dst va new.length).engRead o o.dst va new.length 4 with
    | .error e => s.engStop id o e
    | .ok (s1, old) =>
      let (bs, cnt) := reduceBytes op fmt new.length 1 old new
      s1.chunkWrites id o va bs cnt

/-- Land the rest of a chunk: lines at their homes, or the next element combined with what the buffer holds. -/
def State.landMore (s : State) (id : Nat) (o : EngOp) (c : Chunk) : Option State :=
  let va := o.dst + c.off + o.progress
  let rest := c.data.drop o.progress
  match c.reduce with
  | none => s.chunkWrites id o va rest []
  | some (op, fmt) =>
    let n := elemWidth fmt.toNat / 8
    if rest.length < n then some (s.updOp id fun q => { q with progress := c.data.length })
    else s.reduceLands id o va op fmt.toNat (rest.take n)

/-- A chunk has landed whole: its sender is answered, the buffer ends with its last byte, and its counter rises by one. Where chunks
overlap, the bytes landed can pass the buffer's length without being equal to it, and the RECV ends then too (DESIGN CHOICE: the spec
says "equal" and does not speak of overlaps; log 93). -/
def State.chunkLanded (s : State) (id : Nat) (o : EngOp) (c : Chunk) (slot cnt : Nat) : State :=
  let landed := o.landed + c.data.length
  let s1 := { s.updOp id fun q => { q with chunk := none, progress := 0, landed := landed } with net := s.net ++ [NetOut.answer c false] }
  let s2 := if landed ≥ o.len then (s1.updCtx c.ctx fun x => { x with recv := x.recv.erase slot }).endOp id stDone else s1
  s2.setCounter c.ctx cnt ((s2.ctx c.ctx).counters.get 0 cnt + 1)

/-- CHUNK_LANDING: a chunk that finds its slot posted lands there piece by piece; once its last byte's completion time has
passed, the counter rises by one and the sender is answered (R167, R168). -/
def execChunkLanding (c : Chunk) (s : State) : Out :=
  match (s.contexts.find? c.ctx).bind fun x => (x.recv.get none c.slot).bind fun id => (s.ops.find? id).map fun o => (id, o) with
  | none => notNow "CHUNK_LANDING"
  | some (id, o) =>
    match o.work with
    | .recv slot cnt =>
      if o.mode = .suspended ∨ (o.mode = .halted ∧ !s.mayPark id o) then notNow "CHUNK_LANDING" else
      match o.chunk with
      | none =>
        if c.off + c.data.length > o.len then .next { s with net := s.net ++ [.answer c true] }
        else .next (s.updOp id fun q => { q with chunk := some c, progress := 0, reached := s.time })
      | some d =>
        if d != c then notNow "CHUNK_LANDING"
        -- the RECV's first write waits for the earlier stores of its group (R192)
        else if !(decide (o.after < s.time) || decide (o.after = 0)) then notNow "CHUNK_LANDING"
        else if o.progress < c.data.length then
          match s.landMore id o c with
          | some t => .next t
          | none => notNow "CHUNK_LANDING"
        else if s.time ≤ o.compl then notNow "CHUNK_LANDING"
        else .next (s.chunkLanded id o c slot cnt)
    | _ => notNow "CHUNK_LANDING"

/-- NO_RECV_TIMEOUT (R168): the chunk found no posted slot for 2^27 ns. They are counted from the chunk's departure, since its first
arrival at the peer is not known here (DESIGN CHOICE: the spec does not say from when; log 94). -/
def execNoRecvTimeout (op : Nat) (s : State) : Out :=
  match s.ops.find? op with
  | some o =>
    if o.landed = 1 ∧ s.time ≥ o.compl + 2 ^ 27 then
      match o.work with
      | .send .. | .reduce .. => .next (s.endOp op stNoRecv)
      | _ => notNow "NO_RECV_TIMEOUT"
    else notNow "NO_RECV_TIMEOUT"
  | none => notNow "NO_RECV_TIMEOUT"

/-- PEER_UNREACHABLE (R160): the peer was unreachable over Ultra Ethernet for 100 ms. -/
def execPeerUnreachable (op : Nat) (s : State) : Out :=
  match s.ops.find? op with
  | some o =>
    if o.landed = 1 ∧ s.time ≥ o.compl + 100000000 then
      match o.work with
      | .send .. | .reduce .. => .next (s.endOp op stUnreachable)
      | _ => notNow "PEER_UNREACHABLE"
    else notNow "PEER_UNREACHABLE"
  | none => notNow "PEER_UNREACHABLE"

end Sys2Proof.Machine
end

