-- ==== Sys2Proof/Machine/Hostmem.lean ====
section
/-! DEFINITION. What is done at a home for hosts and the fault service: replies (R446, R448), the memory-side operations
PT_SET, MIGRATE and RECLAIM (R80 to R83), the fault pool (R480), RMA (R188, R449). -/
namespace Sys2Proof.Machine
open Sys2Proof

/-! ## Replies (R446, R448) -/

def stOk : BitVec 16 := 0
def stNotReady : BitVec 16 := 1
def stNotControlling : BitVec 16 := 2
def stNoSemaphore : BitVec 16 := 3
def stBadMessage : BitVec 16 := 4
def stBusy : BitVec 16 := 5

/-- A reply carries the request's type with bit 15 set, its seq, its context and its tag. -/
def State.reply (s : State) (r : Req) (type : BitVec 16) (status : BitVec 16) (body : List W64) (after : Nat := 0) : State :=
  -- the replies of an endpoint that lost its link are dropped: such a request names endpoint 0 (R452)
  if r.ep = 0 then s else
  s.send { ep := r.ep, type := type ||| 0x8000, seq := r.seq, ctx := r.ctx, status := status, tag := r.tag, body := body, after := after }

/-! ## Entries (R75, R80) -/

/-- The stack address of the entry at a level on the way to an offset, where the walk reaches it (R80). -/
def State.slotAt_ (s : State) (h o target : Nat) : Nat → Nat → Nat → Option Nat
  | 0, _, _ => none
  | n + 1, level, table =>
    let a := table + 8 * ptIndex level o
    if level = target then some a else
    let e := s.entry h a
    if pteType e = 1 && !s.malformed h level e then s.slotAt_ h o target n (level + 1) (pteTable e) else none

def State.entrySlot (s : State) (h o level : Nat) : Option Nat := s.slotAt_ h o level 4 1 (s.ptroot h)

/-- Write zeros over a range of a home's stack. -/
def State.zeroStack (s : State) (h a n : Nat) : State := { s with mem := setCells s.mem (stackAt h a) n [] }

/-! ## RECLAIM (R83) -/

/-- Lines of a home's slice in a span of offsets. -/
def State.spanLines (s : State) (h lo n : Nat) : List Nat :=
  ((s.home h).lines.keys).filter fun k => decide (lo ≤ offsetOf (k * 256)) && decide (offsetOf (k * 256) < lo + n)

/-- Pull every dirty byte of a span from a die. -/
def State.pullSpan (s : State) (h lo n die : Nat) : State :=
  if (s.die die).failed then s else
  ((s.die die).lines.keys.filter fun k => homeOf (k * 256) == h && decide (lo ≤ offsetOf (k * 256)) && decide (offsetOf (k * 256) < lo + n)).foldl
    (fun (u : State) k => (u.cleanL2 die k).1) s

/-- Step 2 on every die, with the latest package lease granted on a line of the span (step 3). -/
def State.reclaimPull (s : State) (h lo n : Nat) : State × Nat :=
  let s1 := allDies.foldl (fun (u : State) d => u.pullSpan h lo n d) s
  (s1, (s1.spanLines h lo n).foldl (fun m k => max m (s1.slice k).lease) 0)

/-- Step 4: what dies wrote under their leases meanwhile is pulled too, and no cache keeps a line of the span. -/
def State.reclaimDrop (s : State) (h lo n : Nat) : State :=
  let (s1, _) := s.reclaimPull h lo n
  let s3 := (s1.spanLines h lo n).foldl (fun (u : State) k => u.flushSlice k) s1
  let inSpan := fun (k : Nat) => homeOf (k * 256) == h && decide (lo ≤ offsetOf (k * 256)) && decide (offsetOf (k * 256) < lo + n)
  let s4 := s3.updHome h fun x => { x with lines := x.lines.filter fun (k, y) => !inSpan k || y.dirty != 0 }
  -- what a die still keeps of the span is a lock or bytes whose lease has run out
  let keep := fun ((k, x) : Nat × L2Line) =>
    if inSpan k && x.dirty = 0 then (if x.lock.isSome then some (k, ({ lock := x.lock } : L2Line)) else none) else some (k, x)
  { s4 with dies := s4.dies.map fun ((i, d) : Nat × Die) => (i, { d with lines := d.lines.filterMap keep }) }

/-! ## PT_SET (R81) -/

def opOk : Nat := 0
def opCmpFail : Nat := 1
def opBadEntry : Nat := 2
def opUseMigrate : Nat := 3
def opBusy : Nat := 4

/-- WP, ACC and DRT. -/
def pteFlags (e : Nat) : Nat := e / 2 ^ 58 % 8
def pteBody (e : Nat) : Nat := e - pteFlags e * 2 ^ 58

/-- PT_SET on the entry at a level for an offset of a home; a present leaf is cleared here, once its span is reclaimed. -/
def State.ptSetAt (s : State) (h o level expect new : Nat) : State × Nat :=
  match s.entrySlot h o level with
  | none => (s, opBadEntry)
  | some a =>
    let e := s.entry h a
    if e != expect then (s, opCmpFail)
    else if s.malformed h level new then (s, opBadEntry)
    else if pteType e = 0 then
      let s1 := if pteType new = 1 then s.zeroStack h (pteTable new) (ptBytes (level + 1)) else s
      (s1.setEntry h a new, opOk)
    else if pteType e = 1 then
      if new = e then (s, opOk)
      else if pteType new = 0 ∧ (List.range (ptBytes (level + 1) / 8)).all fun i => pteType (s.entry h (pteTable e + 8 * i)) == 0 then
        (s.setEntry h a new, opOk)
      else (s, opBadEntry)
    else if pteType new = 0 then (s.setEntry h a new, opOk)
    else if pteBody new = pteBody e then (s.setEntry h a new, opOk)
    else (s, opUseMigrate)

/-- The PT_SET would clear a present leaf. -/
def State.ptSetClears (s : State) (h o level expect new : Nat) : Bool :=
  match s.entrySlot h o level with
  | none => false
  | some a => s.entry h a == expect && decide (pteType expect ≥ 2) && decide (pteType new = 0) && !s.malformed h level new

/-- A leaf whose span has been reclaimed is cleared: its entry was compared before the reclaim, whose own pulls may have set ACC and
DRT in it (R77, R81). -/
def State.ptClear (s : State) (h o level new : Nat) : State :=
  match s.entrySlot h o level with
  | some a => s.setEntry h a new
  | none => s

/-! ## MIGRATE (R82) -/

/-- The poisoned words of a range of bytes, counted in the range, and a list with these words of the range and no other (R142). -/
def flawsIn (l : List Nat) (lo n : Nat) : List Nat :=
  (l.filter fun k => decide (lo ≤ k * 8) && decide (k * 8 < lo + n)).map fun k => k - lo / 8
def putFlaws (l : List Nat) (lo n : Nat) (bad : List Nat) : List Nat :=
  bad.map (lo / 8 + ·) ++ l.filter fun k => !(decide (lo ≤ k * 8) && decide (k * 8 < lo + n))

/-- Contents of a frame, as listed bytes with their poison. -/
def State.frameCells (s : State) (h kind slot frame n : Nat) : Sp Byte × List Nat :=
  if kind = 2 then (cellsOf s.mem (stackAt h frame) n, flawsIn (s.home h).poison frame n)
  else let a := slotAt (s.endpointOf h slot) frame; (cellsOf s.ext a n, flawsIn s.extPoison a n)

def State.putFrame (s : State) (h kind slot frame n : Nat) (c : Sp Byte) (bad : List Nat) : State :=
  if kind = 2 then
    ({ s with mem := setCells s.mem (stackAt h frame) n c } : State).updHome h fun x => { x with poison := putFlaws x.poison frame n bad }
  else
    let a := slotAt (s.endpointOf h slot) frame
    { s with ext := setCells s.ext a n c, extPoison := putFlaws s.extPoison a n bad }

/-- A frame ends the copy of a MIGRATE in a fatal error: a HOST or PEER frame of which some page does (R82). -/
def State.frameFails (s : State) (h e n : Nat) : Bool :=
  pteType e != 2 && s.badFrames.any fun p => p.1 == s.endpointOf h (pteSlot e) && decide (pteFrame e ≤ p.2 * 65536) && decide (p.2 * 65536 < pteFrame e + n)

/-- MIGRATE of the page that the leaf at a level maps. A fatal error of the target leaves the old leaf, once the dirty lines of the
slice have gone to the old frame. -/
def State.migrateAt (s : State) (h o level new : Nat) : State × Nat :=
  match s.entrySlot h o level with
  | none => (s, opBadEntry)
  | some a =>
    let e := s.entry h a
    if s.malformed h level new || s.malformed h level e || decide (pteType e < 2) || decide (pteType new < 2) || (s.home h).failed then (s, opBadEntry) else
    let (lo, n) := spanOf o level
    let s1 := (s.spanLines h lo n).foldl (fun (u : State) k => u.flushSlice k) s
    if s1.frameFails h new n then (s1, opBadEntry) else
    let e1 := s1.entry h a
    let (c, bad) := s1.frameCells h (pteType e1) (pteSlot e1) (pteFrame e1) n
    let s2 := s1.putFrame h (pteType new) (pteSlot new) (pteFrame new) n c bad
    -- ACC and DRT are carried over
    let carried := e1 / 2 ^ 59 % 4
    let own := new / 2 ^ 59 % 4
    (s2.setEntry h a (new - own * 2 ^ 59 + carried * 2 ^ 59), opOk)

/-! ## The fault pool (R480) -/

/-- The lowest free `n` bytes of a home's pool, aligned to `n`: what has been handed out stays so. -/
def Home.grab (h : Home) (n : Nat) : Option (Nat × Home) :=
  let up := fun (a : Nat) => (a + n - 1) / n * n
  let fits := fun (a : Nat) => decide (h.poolb ≤ a) && decide (a + n ≤ h.pooll) && !(h.handed.any fun (b, m) => overlaps a n b m)
  let cands := (up h.poolb :: h.handed.map fun (b, m) => up (b + m)).filter fits
  match cands with
  | [] => none
  | c :: r =>
    let a := r.foldl min c
    some (a, { h with handed := (a, n) :: h.handed })

/-- Take one table of 4 KiB for each missing level. -/
def Home.grabTables (h : Home) : Nat → Option (List Nat × Home)
  | 0 => some ([], h)
  | n + 1 => (h.grab 4096).bind fun (a, h1) => (h1.grabTables n).map fun (l, h2) => (a :: l, h2)

/-- Write the missing tables and then the leaf by PT_SET, from a level down; the status of the first that is refused. -/
def State.mapTables (s : State) (h o : Nat) (leaf : Nat) : Nat → List Nat → State × Nat
  | level, [] =>
    match s.entrySlot h o level with
    | none => (s, opBadEntry)
    | some a => s.ptSetAt h o level (s.entry h a) leaf
  | level, t :: r =>
    match s.entrySlot h o level with
    | none => (s, opBadEntry)
    | some a =>
      let (s1, st) := s.ptSetAt h o level (s.entry h a) (2 ^ 61 + t)
      if st = opOk then s1.mapTables h o leaf (level + 1) r else (s1, st)

/-- The firmware's answer to a NOT_PRESENT record of a page: it maps the granule as a LOCAL level-4 leaf, or refuses. A
page that another record has made present is answered OK (R102). -/
def State.mapGranule (s : State) (h o : Nat) : State × Bool :=
  match s.walkAt h o 4 1 (s.ptroot h) with
  | .leaf _ => (s, true)
  | .peerAbsent _ => (s, false)
  | .bad _ => (s, false)
  | .absent level =>
    match (s.home h).grabTables (4 - level) with
    | none => (s, false)
    | some (ts, h1) =>
      match h1.grab 65536 with
      | none => (s, false)
      | some (f, h2) =>
        let s1 := (s.setHome h h2).zeroStack h f 65536
        let (s2, st) := s1.mapTables h o (2 * 2 ^ 61 + f) level ts
        (s2, st = opOk)

/-! ## RMA (R63, R67, R188, R449) -/

/-- The window checks of an RMA: result and cause of its error body (R68, R450). -/
def rmaCheck (ws : List (List W64)) (va n size perm : Nat) : Except (Nat × Nat) Unit :=
  match checkAccess ws va size perm with
  | .error (_, 0) => .error (2, 0)
  | .error (_, c) => .error (1, c)
  | .ok _ => match hitWindow ws va with
    | some w => if va + n ≤ winWord w 1 then .ok () else .error (1, 4)
    | none => .error (1, 2)

/-- The pieces of a range in one window, each in one line. -/
def linePieces (w : List W64) (va n : Nat) : Nat → List (Nat × Nat)
  | 0 => []
  | fuel + 1 =>
    if n = 0 then [] else
    let k := min n (256 - va % 256)
    (translate w va, k) :: linePieces w (va + k) (n - k) fuel

/-- The pieces of an RMA: the window of its first byte translates them all (R67). -/
def rmaPieces (ws : List (List W64)) (va n fuel : Nat) : List (Nat × Nat) :=
  match hitWindow ws va with
  | some w => linePieces w va n fuel
  | none => []

/-- The first piece whose walk does not permit the access. -/
def State.rmaBlocked (s : State) (write : Bool) (l : List (Nat × Nat)) : Option (Nat × LaneStage) :=
  l.findSome? fun (ia, _) => match s.walkFor ia write with | .error g => some (ia, g) | .ok _ => none

/-- Read pieces at their homes; a read that acquires at SYSTEM scope takes a HOST or PEER page from its frame (R187). -/
def State.rmaReadAll (s : State) (system : Bool) : List (Nat × Nat) → State × List Byte
  | [] => (s, [])
  | (ia, n) :: r =>
    match s.walkFor ia false with
    | .error _ => (s, [])
    | .ok l =>
      let (bs, s1) := (s.touch ia l false).homeRead ia n l system
      let (s2, t) := s1.rmaReadAll system r
      (s2, bs ++ t)

/-- Write pieces at their homes: the answer is the latest completion time (R177). -/
def State.rmaWriteAll (s : State) : List (Nat × Nat) → List Byte → State × Nat
  | [], _ => (s, 0)
  | (ia, n) :: r, bs =>
    let s0 := if homeOf ia < 8 then (s.gather (lineOf ia)).1 else s
    match s0.walkFor ia true with
    | .error _ => (s0, 0)
    | .ok l =>
      let (s1, t) := s0.homeWrite ia l (bs.take n)
      let (s2, u) := s1.rmaWriteAll r (bs.drop n)
      (s2, max t u)

/-- The words of bytes, the last one padded with zeros. -/
def padWords (bs : List Byte) : List W64 := bytesWords ((bs.length + 7) / 8) bs

def rmaBody (result cause : Nat) : W64 := BitVec.ofNat 64 (result + cause * 256)

/-- Hold an RMA at the home of the page that keeps it away (R91), behind an operation on its page (R82), behind a held write-back of
its line (R184) or before a slot that is out of reach (R77), or end it with an error (R105). -/
def State.rmaHold (s : State) (r : Req) (i : RmaOp) (ws : List (List W64)) (type : BitVec 16) (access : BitVec 5) (ia : Nat) (g : LaneStage) : State :=
  match g with
  | .resp lv wp peer => ({ s with next := s.next + 1 } : State).holdAtHome s.next ia r.ctx lv wp peer access (.rma r i ws none s.time)
  | .bad c => s.reply r type stOk [rmaBody 3 c]
  | _ =>
    if s.pageBusy ia then
      { s with next := s.next + 1,
               memOps := s.memOps.map fun m => if m.ends.isSome && m.covers ia then { m with held := m.held ++ [(s.next, r, i, ws)] } else m }
    else ({ s with next := s.next + 1 } : State).keep s.next (.rma r i ws (if s.lineHeld (lineOf ia) then some (lineOf ia) else none) s.time)

/-- The range of an RMA, whether it writes, and its pieces (R449). -/
def RmaOp.writes : RmaOp → Bool
  | .read .. => false
  | _ => true
def rmaPlaces (ws : List (List W64)) : RmaOp → List (Nat × Nat)
  | .read va len => rmaPieces ws va.toNat len (len / 256 + 2)
  | .write va data => rmaPieces ws va.toNat data.length (data.length / 256 + 2)
  | .atomic va _ wide .. => rmaPieces ws va.toNat (if wide then 8 else 4) 2

/-- One RMA, once its message has been accepted, under the windows that translated it (R66). -/
def State.rma (s : State) (r : Req) (i : RmaOp) (ws : List (List W64)) : State :=
  match i with
  | .read va len =>
    match rmaCheck ws va.toNat len 1 (permH ||| permR) with
    | .error (k, c) => s.reply r 0x40 stOk [rmaBody k c]
    | .ok _ =>
      let l := rmaPlaces ws i
      match s.rmaBlocked false l with
      | some (ia, g) => s.rmaHold r i ws 0x40 1 ia g
      | none => let (s1, bs) := s.rmaReadAll false l; s1.reply r 0x40 stOk (rmaBody 0 0 :: padWords bs)
  | .write va data =>
    match rmaCheck ws va.toNat data.length 1 (permH ||| permW) with
    | .error (k, c) => s.reply r 0x41 stOk [rmaBody k c]
    | .ok _ =>
      let l := rmaPlaces ws i
      match s.rmaBlocked true l with
      | some (ia, g) => s.rmaHold r i ws 0x41 2 ia g
      | none => let (s1, t) := s.rmaWriteAll l data; s1.reply r 0x41 stOk [rmaBody 0 0] (t + 1)
  | .atomic va kind wide operand compare =>
    let n := if wide then 8 else 4
    match rmaCheck ws va.toNat n n (permH ||| permR ||| permW ||| permA) with
    | .error (k, c) => s.reply r 0x42 stOk [rmaBody k c]
    | .ok _ =>
      match rmaPlaces ws i with
      | [] => s
      | (ia, _) :: _ =>
        match s.walkFor ia true with
        | .error g => s.rmaHold r i ws 0x42 4 ia g
        | .ok f =>
          let (bs, s1) := (s.gather (lineOf ia)).1.homeRead ia n f true
          let old := leNat bs
          let (new, _) := atomicNew kind.toNat (8 * n) old (operand.toNat % 2 ^ (8 * n)) (compare.toNat % 2 ^ (8 * n))
          (s1.homeWrite ia f (leBytes n new)).1.reply r 0x42 stOk [rmaBody 0 0, BitVec.ofNat 64 old]

/-! ## Memory-side operations in turn (R80) -/

/-- Two operations act on one page. -/
def MemOp.meets (m q : MemOp) : Bool :=
  m.home == q.home && (m.off / ptSpan q.level == q.off / ptSpan q.level || q.off / ptSpan m.level == m.off / ptSpan m.level)

/-- MIGRATE and RECLAIM operations that a home runs: a MIGRATE ends in the step that starts it. -/
def State.msRunning (s : State) (h : Nat) : Nat := (s.memOps.filter fun m => m.ends.isSome && m.home == h && m.op == .reclaim).length

def State.msReply (s : State) (m : MemOp) (st : Nat) : State := s.reply m.req 0x50 stOk [BitVec.ofNat 64 st]

/-- The end of an operation that reclaims: the span leaves the caches, a PT_SET then clears its leaf, and the accesses held
meanwhile go on under the entry in force. -/
def State.msEnd (s : State) (m : MemOp) : State :=
  let (lo, n) := spanOf m.off m.level
  let s1 := s.reclaimDrop m.home lo n
  let s2 := match m.op with
    | .ptSet _ x => (s1.ptClear m.home m.off m.level x.toNat).msReply m opOk
    | _ => s1.msReply m opOk
  m.held.foldl (fun (u : State) (_, r, i, ws) => u.rma r i ws) s2

/-- Steps 1 and 2 of RECLAIM. The operation stays in hand while package time has not passed the latest lease. -/
def State.msReclaim (s : State) (m : MemOp) : State :=
  let (lo, n) := spanOf m.off m.level
  let (s1, t) := s.reclaimPull m.home lo n
  if t < s1.time then s1.msEnd m else { s1 with memOps := s1.memOps ++ [{ m with ends := some t }] }

/-- An operation whose turn has come. -/
def State.msStart (s : State) (m : MemOp) : State :=
  match m.op with
  | .ptSet e x =>
    if s.ptSetClears m.home m.off m.level e.toNat x.toNat then s.msReclaim m
    else let (u, st) := s.ptSetAt m.home m.off m.level e.toNat x.toNat; u.msReply m st
  | .migrate x =>
    if s.msRunning m.home ≥ 16 then s.msReply m opBusy
    else let (u, st) := s.migrateAt m.home m.off m.level x.toNat; u.msReply m st
  | .reclaim => s.msReclaim m

/-- An operation may start after those before it in hand: none acts on its page, and a RECLAIM has a free slot. -/
def State.msTurn (s : State) (before : List MemOp) (m : MemOp) : Bool :=
  !(before.any m.meets) && !(s.memOps.any fun q => q.ends.isSome && m.meets q) && (m.op != .reclaim || decide (s.msRunning m.home < 16))

/-- An operation reaches its home. -/
def State.msArrive (s : State) (m : MemOp) : State :=
  if s.msTurn s.memOps m then s.msStart m else { s with memOps := s.memOps ++ [m] }

/-- Start every waiting operation whose turn has come; `before` holds those that still wait ahead of the rest. -/
def State.msWake (s : State) (before : List MemOp) : List MemOp → State
  | [] => s
  | m :: r =>
    if m.ends.isNone && s.msTurn before m then
      (({ s with memOps := s.memOps.erase m } : State).msStart m).msWake before r
    else s.msWake (if m.ends.isNone then before ++ [m] else before) r

/-- An operation has waited past the latest lease of its span (R83): it ends, and those that waited for it start. -/
def State.msPassed (s : State) (n : Nat) : Option State :=
  match s.memOps[n]? with
  | none => none
  | some m =>
    match m.ends with
    | none => none
    | some t =>
      if t < s.time then
        let s1 := ({ s with memOps := s.memOps.eraseIdx n } : State).msEnd m
        some (s1.msWake [] s1.memOps)
      else none

/-- The type of an RMA message. -/
def rmaType : RmaOp → BitVec 16
  | .read .. => 0x40
  | .write .. => 0x41
  | .atomic .. => 0x42

end Sys2Proof.Machine
end

