-- ==== Sys2Proof/Machine/Launch.lean ====
section
/-! DEFINITION. Launch packets (R389 to R391), shares of a grid (R392), queues and launch slots (R393), refusals (R395,
R429). -/
namespace Sys2Proof.Machine
open Sys2Proof

/-! ## The packet (R389) -/

/-- A packet's fields beyond the kernel descriptor. -/
structure Packet where
  queue : Nat
  part : Nat
  teams : Nat
  seed : W64
  k : Kernel
  thresholds : Sp Nat
  pos : Nat
  ndev : Nat
  weights : List Nat
deriving DecidableEq, Repr

/-- Bits `lo + n - 1` to `lo` of word `i` of a list. -/
def wordBits (ws : List W64) (i lo n : Nat) : Nat := (ws.getD i 0).toNat / 2 ^ lo % 2 ^ n

def roleOf (n : Nat) : Role := if n = 1 then .copy else if n = 2 then .matrix else .vector

/-- The kernel descriptor: offsets 0x08 and 0x20 to 0x67. -/
def packetKernel (ws : List W64) : Kernel :=
  let f := wordBits ws 4
  let W := if f 62 2 = 0 then 16 else if f 62 2 = 1 then 32 else 64
  let N := f 37 11 + 1
  { entry := wordBits ws 1 0 57, width := W, v := f 55 7 + 1, s := f 48 7 + 1, threads := N, gang := f 32 4 + 1,
    gclass := BitVec.ofNat 2 (f 30 2), cls := f 28 2, rcore := f 27 1 == 1, rkeys := f 24 3 + 1,
    merge := f 23 1 == 1, autoburn := f 22 1 == 1, checkpoint := f 21 1 == 1, paired := f 20 1 == 1,
    plane := f 19 1 == 1, ring := f 18 1 == 1, tensor := wordBits ws 5 32 32, scratch := wordBits ws 5 0 32,
    vault := wordBits ws 6 0 32,
    roles := (List.range (N / W)).map fun g => roleOf (wordBits ws (7 + g / 32) (2 * (g % 32)) 2),
    stages := (List.range 8).map fun k =>
      let e := wordBits ws (9 + k / 2) (32 * (k % 2)) 32
      { slots := e / 2 ^ 20 % 16, bytes := (e % 4096 + 1) * 16 } }

/-- Bits that R389 does not list, and fields outside their range (R56, R389). -/
def packetBad (ws : List W64) : Bool :=
  let z := fun i lo n => wordBits ws i lo n != 0
  let stage := fun (k : Nat) =>
    let e := wordBits ws (9 + k / 2) (32 * (k % 2)) 32
    e / 2 ^ 24 != 0 || e / 2 ^ 12 % 256 != 0 || e / 2 ^ 20 % 16 == 1 || decide (e / 2 ^ 20 % 16 > 8)
  ws.length != 32 || wordBits ws 0 56 8 != 1 || decide (wordBits ws 0 52 4 > 8) || z 0 0 49 || z 1 57 7 ||
    wordBits ws 1 0 2 != 0 || z 2 32 32 || wordBits ws 2 0 32 == 0 || wordBits ws 4 62 2 == 3 || z 4 36 1 || z 4 0 18 ||
    z 6 32 32 || decide (wordBits ws 6 0 32 > 2 ^ 25) ||
    (List.range 64).any (fun g => wordBits ws (7 + g / 32) (2 * (g % 32)) 2 == 3) || (List.range 8).any stage ||
    (List.range 16).any (fun j => z (13 + j) 48 7 || decide (wordBits ws (13 + j) 55 9 > 383)) ||
    z 29 16 48 || wordBits ws 29 0 8 == 0 || decide (wordBits ws 29 0 8 > 16)

/-- The rules of R390 and R429 on a packet whose fields are in range. -/
def packetRules (ws : List W64) (p : Packet) : Bool :=
  let k := p.k
  let G := k.threads / k.width
  let nz := ((List.range 16).filter fun j => wordBits ws (13 + j) 0 48 != 0).map fun j => wordBits ws (13 + j) 55 9
  k.threads % k.width == 0 && decide ((k.threads + (k.rkeys - 1) * k.width) * k.v ≤ 131072) && decide (G + k.rkeys - 1 ≤ 64) &&
    (List.range 64).all (fun g => decide (g < G) || wordBits ws (7 + g / 32) (2 * (g % 32)) 2 == 0) &&
    (if k.gclass = 0 then k.gang == 1 else p.teams % k.gang == 0) && decide (p.pos < p.ndev) &&
    (p.weights.drop p.ndev).all (· == 0) && decide ((p.weights.take p.ndev).sum ≥ 1) && nz.Nodup &&
    (p.queue != 8 || k.cls == 3) && !((k.checkpoint || k.paired) && k.gclass != 0) && !(k.paired && k.rcore)

/-- A packet that the front end takes (R390, R391, R429); the child of a team takes the parent's queue where its own is
faster, and is for one device. -/
def parsePacket (ws : List W64) (parent : Option Launch) : Option Packet :=
  if packetBad ws then none else
  let q := wordBits ws 0 52 4
  let p : Packet :=
    { queue := match parent with | some l => max q l.queue | none => q,
      part := match parent with | some l => l.part | none => wordBits ws 0 49 3,
      teams := wordBits ws 2 0 32, seed := ws.getD 3 0, k := packetKernel ws,
      thresholds := (List.range 16).foldl (fun m j =>
        let t := wordBits ws (13 + j) 0 48
        if t = 0 then m else Sp.put m (wordBits ws (13 + j) 55 9) t) (match parent with | some l => l.thresholds | none => []),
      pos := wordBits ws 29 8 8, ndev := wordBits ws 29 0 8,
      weights := (List.range 16).map fun j => wordBits ws (30 + j / 8) (8 * (j % 8)) 8 }
  if packetRules ws p && (parent.isNone || p.ndev == 1) then some p else none

/-- This device's share of the teams (R392). -/
def Packet.share (p : Packet) : Nat × Nat :=
  let u := if p.k.gclass = 0 then 1 else p.k.gang
  let S := (p.weights.take p.ndev).sum
  let Sj := (p.weights.take p.pos).sum
  let U := p.teams / u
  (u * (U * Sj / S), u * (U * (Sj + p.weights.getD p.pos 0) / S))

/-! ## Acceptance (R393, R395) -/

/-- A launch gives up its queue entry once every team of its share has started (R393). -/
def State.allStarted (s : State) (launch : Nat) (l : Launch) : Bool :=
  decide (l.hi ≤ l.next) && !(s.teams.any fun (_, t) => t.launch == launch && decide (t.mode = .placed))
/-- Launches that hold an entry of a queue. -/
def State.queued (s : State) (q : Nat) : Nat := (s.launches.filter fun (i, l) => l.queue == q && !s.allStarted i l).length
/-- The lowest free launch slot of 4,096. -/
def State.freeLaunch (s : State) : Option Nat := (List.range 4096).find? fun i => (s.launches.find? i).isNone

/-- Accept a launch into a slot and its queue; none where either is full. -/
def State.accept (s : State) (ctx : Nat) (p : Packet) (parent : Option (Nat × Nat)) (depth : Nat) (graph : Option (Nat × Nat)) :
    Option (Nat × State) :=
  if s.queued p.queue ≥ 512 then none else
  s.freeLaunch.map fun i =>
    let (lo, hi) := p.share
    let l : Launch := { ctx := ctx, k := p.k, queue := p.queue, part := p.part, seed := p.seed, lo := lo, hi := hi, next := lo,
                        order := s.next, thresholds := p.thresholds, parent := parent, depth := depth, graph := graph }
    let s1 := { s with launches := s.launches.put i l, next := s.next + 1 }
    (i, match parent with
      | some (u, _) => s1.updLaunch u fun l => { l with children := l.children + 1 }
      | none => s1)

/-- The 32 words of a packet at a line of global memory as a die reads it, the line brought into its L2. -/
def State.readPacket (s : State) (die ia : Nat) : Option (List W64 × State) :=
  if homeOf ia ≥ 8 then
    match s.walk ia with
    | .leaf l => some (bytesWords 32 (s.frameBytes ia l 256), s.touch ia l false)
    | _ => none
  else (s.fetchLine die (lineOf ia)).map fun s1 => (bytesWords 32 (lineBytes (s1.l2 die (lineOf ia)).data 0 256), s1)

/-- The word that LAUNCH writes (R381). -/
def launchWord (handle status : Nat) : W32 := BitVec.ofNat 32 (handle * 256 + status)

/-- What LAUNCH asks for (R55). -/
def launchPlan (o : Alu) : Plan :=
  { u := true, h := o.h, illegal := fun _ => aluForm o [] false false noVar, srcs := [(o.a, 2)],
      dsts := if o.w then [] else [(o.d.toNat, 1)] }

/-- The word of a LAUNCH in its register. -/
def launchAnswer (o : Alu) (x : Issue) (s : State) (w : W32) : State := s.updGroup x.g fun g => g.writeU o.w true o.d.toNat 1 [w]

/-- How a LAUNCH whose packet's line is at hand ends (R381, R391): refused with a status, or accepted into a slot. -/
inductive Launched where
  | refused (status : Nat) (s : State)
  | held
  | accepted (slot handle : Nat) (s : State)
deriving DecidableEq, Repr

/-- The leader, the depth, the packet and the queue, in this order (R391). -/
def launchTry (x : Issue) (ia : Nat) : Launched :=
  match x.s.launches.find? x.team.launch with
  | none => .refused 4 x.s
  | some parent =>
    if !(x.grp.active.any fun t => t.tid == 0) then .refused 3 x.s
    else if parent.depth ≥ 9 then .refused 1 x.s
    else
      let h := x.context.nextHandle
      match x.s.readPacket x.die ia with
      | none => if x.s.pageHeld ia then .held else .refused 4 x.s
      | some (ws, s1) =>
        match parsePacket ws (some parent) with
        | none => .refused 4 s1
        | some p =>
          match (if h < 2 ^ 24 then s1.accept x.team.ctx p (some (x.team.launch, h)) (parent.depth + 1) none else none) with
          | none => .refused 2 s1
          | some (slot, s2) => .accepted slot h (s2.updCtx x.team.ctx fun c => { c with grids := c.grids.put h (some slot, 0), nextHandle := h + 1 })

/-- LAUNCH (R381, R391): only an accepted launch is a release toward the child (R189), so its waits come before it takes
effect. -/
def execLaunch (o : Alu) : State → Out :=
  program (.launch o) (launchPlan o) fun x =>
    if !x.selected then .ok (x.seq (wroteWords o x 1 [])) else
    if x.team.k.paired then .error (.trap tPairedForbidden) else
    match checkGlobal x.context.windows (x.read64 groupThread o.a).toNat 256 permR with
    | .error (_, t) => .error (.trap t)
    | .ok ia =>
      match launchTry x ia with
      | .refused st s => .ok (x.seq (launchAnswer o x s (launchWord 0 st)))
      | .held => .error (.wait .stalled (.time x.s.time))
      | .accepted _ h s => (x.releaseGate 3).bind fun _ => (x.writeThrough false).map fun _ => x.seq (launchAnswer o x s (launchWord h 0))

end Sys2Proof.Machine
end

