-- ==== Sys2Proof/Machine/System.lean ====
section
/-! DEFINITION. Barriers and stage rings (R370 to R374), the watchdog (R375, R376), control and status registers (R364 to
R369), current and class (R377 to R380), child grids (R382), TRAP (R383). -/
namespace Sys2Proof.Machine
open Sys2Proof

/-! ## Team barriers (R370, R371) -/

def Team.bar (t : Team) (b : Nat) : Barrier := t.bars.get {} b

/-- A group's wait at a barrier ends: it runs on, unless its arrival was a safe point of a team that is to stop (R242). -/
def Group.depart (g : Group) (stopping : Bool) (now : Nat) : Group :=
  if stopping && g.mode == .barrier && g.stopMask.isSome then { g with mode := .saving, wait := .none, stoppedAt := some true }
  else { g.wake now with stopMask := if g.mode = .saving then g.stopMask else none }

/-- What a completion does to one group: its flag clears, and a wait at the barrier ends (R371). -/
def Group.cross (g : Group) (gang : Bool) (b gen : Nat) (stopping : Bool) (now : Nat) : Group :=
  let g1 : Group :=
    if gang then (if g.outG.get none b = some gen then { g with outG := g.outG.set none b none } else g)
    else if g.outB.get none b = some gen then { g with outB := g.outB.set none b none } else g
  if g.wait = (if gang then .gbar b gen else .bar b gen) || g.wait = (if gang then .gbarNext b gen else .barNext b gen)
  then g1.depart stopping now else g1

def Team.cross (t : Team) (gang : Bool) (b gen now : Nat) : Team :=
  { t with groups := t.groups.map fun ((k, g) : Nat × Group) => (k, g.cross gang b gen t.mode.isStopping now) }

/-- The next generation, with nobody arrived. -/
def Barrier.next (B : Barrier) : Barrier := { gen := (B.gen + 1) % 256, count := 0, arrived := [], first := B.first }

/-- Complete(B) of a team barrier (R371). -/
def State.passBar (s : State) (id b : Nat) : State :=
  s.updTeam id fun t =>
    let t1 := t.cross false b (t.bar b).gen s.time
    { t1 with bars := t1.bars.put b (t.bar b).next }

/-- A completion of a checkpointed team is a boundary: the buffer drains before any group departs and the copy is written
as it departs (R431); a paired team waits for its twin (R437). -/
def State.completeBar (s : State) (id b : Nat) : State :=
  match s.teams.find? id, s.intervals.find? id with
  | some t, some _ =>
    if t.k.paired then { s with intervals := s.intervals.adjust id fun iv => { iv with atBoundary := true } }
    else ((s.drainTeam id).passBar id b).openInterval id
  | _, _ => s.passBar id b

/-! ## Gang barriers (R372, R373) -/

/-- The gang of a team; a team in no gang is a gang of one (R372). -/
def gangKey (id : Nat) (t : Team) : Nat := match t.gang with | some (g, _) => g | none => 2 ^ 64 + id
def State.gangAt (s : State) (id : Nat) (t : Team) : Gang := s.gangs.get { members := [id], expected := t.k.threads } (gangKey id t)

/-- Complete(B) of a gang barrier, in every team of the gang, saved ones included (R372). -/
def State.completeGbar (s : State) (key : Nat) (gg : Gang) (b : Nat) : State :=
  let B := gg.bars.get {} b
  let s1 := gg.members.foldl (fun (u : State) m => u.updTeam m fun t => t.cross true b B.gen s.time) s
  let saved := gg.members.foldl (fun (m : Sp Saved) k => m.adjust k fun v => { v with team := v.team.cross true b B.gen s.time }) s1.saved
  { s1 with saved := saved, gangs := s1.gangs.put key { gg with bars := gg.bars.put b B.next } }

/-- GBAR_COMPLETE (R372): the I/O die decides the completion of a gang that lies on several dies; one that is pending as the gang
returns to a single die completes there. -/
def execGbarComplete (gang b : Nat) (s : State) : Out :=
  match s.gangs.find? gang with
  | none => notNow "GBAR_COMPLETE"
  | some gg =>
    if gg.broken.isSome || b ≥ 4 || (gg.bars.get {} b).count != gg.expected then notNow "GBAR_COMPLETE"
    else .next (s.completeGbar gang gg b)

/-! ## Arrival -/

/-- The group enters a wait whose arrival has been made; the switch point is that of R239, and of S = 1: the group then counts as
stopped where it waits (R242). -/
def State.enterBarrier (s : State) (r : GrpRef) (sp : Option Mask) (w : Wait) : State :=
  match s.group? r with
  | none => s
  | some (t, g) =>
    if g.mode != .ready then s else
    let here := fun (g : Group) => { g with mode := .barrier, wait := w, since := s.time, mark := s.teamCycle t }
    match s.nextReadsLatch t g with
    | some true => s.setGroup r (here g)
    | none => s.setGroup r { here g with switchDue := some sp }
    | some false => s.setGroup r { here g.rotate with stopMask := sp }

/-- The flow of an instruction whose switch point its own wait takes (R239). -/
def Issue.seqWaiting (x : Issue) (s : State) (w : Wait) : State :=
  (x.plain.seq s).enterBarrier x.g x.h.sp w

/-- Fields of BAR, GBAR, STGW and STGA: modes up to `top`, and no destination (R43, R370, R374); source fields that they do not use are
ignored (R23). -/
def modeIllegal (o : Mode) (top : Nat) : Bool := decide (o.mode.toNat > top) || o.w || o.d != 0

def barPlan (o : Mode) (arriveOrWait : Bool) : Plan :=
  { u := true, h := o.h,
    illegal := fun x => modeIllegal o 2 || o.scope != 0 || (arriveOrWait && (x.team.k.checkpoint || x.team.k.paired)),
    operand := fun _ => decide (o.b.code.toNat > 15) }

/-- A barrier after the threads named arrived at once (R371). -/
def Barrier.arrive (B : Barrier) (tids : List Nat) (now : Nat) (marks : Sp Nat) : Barrier :=
  { B with count := B.count + tids.length, arrived := tids ++ B.arrived, first := if B.count = 0 then now else B.first,
           marks := if B.count = 0 then marks else B.marks }

/-- The core cycles of teams now, from which their watchdogs count (R375). -/
def State.marksOf (s : State) (ids : List Nat) : Sp Nat :=
  ids.foldl (fun m i => match s.teams.find? i with | some t => Sp.put m i (s.teamCycle t) | none => m) []

/-- The unexited threads of the issuing group, which arrive at a team barrier together. -/
def Issue.arrivals (x : Issue) : List Nat := x.grp.unexited.map (·.tid)

/-- The arrival of R371 and what it completes; the group stands past the BAR before the completion (R237). The arrival that completes
the barrier has no wait, unless its team's twin is to complete it too (R437). -/
def barArrived (b : Nat) (sync : Bool) (x : Issue) : State :=
  let B := x.team.bar b
  let B1 := B.arrive x.arrivals x.s.time (x.s.marksOf [x.g.team])
  let last := decide (B1.count = x.team.k.threads)
  let s1 := (x.s.updTeam x.g.team fun t => { t with bars := t.bars.put b B1 }).updGroup x.g fun g => { g with outB := g.outB.set none b (some B.gen) }
  let s2 := if sync && (!last || x.team.k.paired) then x.seqWaiting s1 (.bar b B.gen) else x.seq s1
  (if last then s2.completeBar x.g.team b else s2).meet x.g.team

/-- Arrive(b) of R371: a converged group, its earlier accesses done, that has not arrived in this generation. -/
def barArrive (x : Issue) (b : Nat) (sync : Bool) : Except Stop State :=
  if !x.grp.converged then .error (.trap tUniformViolation) else
  (x.releaseGate 0).bind fun _ =>
    if x.arrivals.any ((x.team.bar b).arrived.contains ·) then .error (.wait .barrier (.barNext b (x.team.bar b).gen))
    else .ok (barArrived b sync x)

/-- The wait of WAIT for an outstanding arrival (R371). -/
def barAwait (x : Issue) (b : Nat) : State :=
  match x.grp.outB.get none b with
  | none => x.seq x.s
  | some gen => (x.seqWaiting x.s (.bar b gen)).meet x.g.team

/-- BAR.SYNC (R371). -/
def execBarSync (o : Mode) : State → Out :=
  program (.barSync o) (barPlan o false) fun x => if !x.selected then .ok (x.seq x.s) else barArrive x o.b.code.toNat true
/-- BAR.ARRIVE (R371, R429). -/
def execBarArrive (o : Mode) : State → Out :=
  program (.barArrive o) (barPlan o true) fun x => if !x.selected then .ok (x.seq x.s) else barArrive x o.b.code.toNat false
/-- BAR.WAIT (R371, R429). -/
def execBarWait (o : Mode) : State → Out :=
  program (.barWait o) (barPlan o true) fun x =>
    if !x.selected then .ok (x.seq x.s) else x.settledEntries.map fun _ => barAwait x o.b.code.toNat

/-- BARRIER_BROKEN with its diagnostic (R373, R387). -/
def brokenTrap (x : Issue) (gg : Gang) (b cause : Nat) : Trap :=
  let B := gg.bars.get {} b
  { tBarrierBroken cause with
    ext := 2, words := diagBarrier true b B gg.expected (if B.count = 0 then x.pre.time else B.first)
      (fun tid => B.arrived.contains (x.g.team * 2048 + tid)) x.team.groups }

/-- The threads that arrive at a gang barrier together, named across the gang's teams. -/
def Issue.gangArrivals (x : Issue) : List Nat := x.grp.unexited.map fun t => x.g.team * 2048 + t.tid
/-- The gang whose barriers the issuing group uses. -/
def Issue.gangBars (x : Issue) : Gang := x.s.gangAt x.g.team x.team

/-- The arrival of a GBAR and what it completes on one die (R372); the arrival that completes it has no wait. -/
def gbarArrived (b : Nat) (sync : Bool) (x : Issue) : State :=
  let key := gangKey x.g.team x.team
  let B := x.gangBars.bars.get {} b
  let B1 := B.arrive x.gangArrivals x.s.time (x.s.marksOf x.gangBars.members)
  let gg1 := { x.gangBars with bars := x.gangBars.bars.put b B1 }
  let last := decide (B1.count = gg1.expected) && gg1.oneDie
  let s1 : State := ({ x.s with gangs := x.s.gangs.put key gg1 } : State).updGroup x.g fun g => { g with outG := g.outG.set none b (some B.gen) }
  let s2 := if sync && !last then x.seqWaiting s1 (.gbar b B.gen) else x.seq s1
  (if last then s2.completeGbar key gg1 b else s2).meet x.g.team

/-- The wait of GBAR.WAIT for an outstanding arrival. -/
def gbarAwait (x : Issue) (b : Nat) : State :=
  match x.grp.outG.get none b with
  | none => x.seq x.s
  | some gen => (x.seqWaiting x.s (.gbar b gen)).meet x.g.team

/-- The waits of an arrival: those of a release; at PACKAGE and SYSTEM it writes through (R196). -/
def gbarWaits (o : Mode) (x : Issue) : Except Stop Unit :=
  let scope := x.scope (Mode.scopeOf o 1)
  (x.releaseGate scope).bind fun _ => if scope ≥ 3 then x.writeThrough (scope == 4) else .ok ()

/-- GBAR (R372): the checks and effect of BAR at the gang's barriers. -/
def gbarBody (o : Mode) : Body := fun x =>
  let b := o.b.code.toNat
  if !x.selected then .ok (x.seq x.s) else
  match x.gangBars.broken with
  | some cause =>
    if o.mode = 2 && (x.grp.outG.get none b).isNone then .ok (x.seq x.s) else .error (.trap (brokenTrap x x.gangBars b cause))
  | none =>
    if o.mode = 2 then x.settledEntries.map fun _ => gbarAwait x b
    else if !x.grp.converged then .error (.trap tUniformViolation) else
    (gbarWaits o x).bind fun _ =>
      if x.gangArrivals.any ((x.gangBars.bars.get {} b).arrived.contains ·) then
        .error (.wait .barrier (.gbarNext b (x.gangBars.bars.get {} b).gen))
      else .ok (gbarArrived b (o.mode = 0) x)

/-- What GBAR asks for (R55). -/
def gbarPlan (o : Mode) : Plan :=
  { u := true, h := o.h,
      illegal := fun _ => modeIllegal o 2 || !([1, 3, 4].contains (Mode.scopeOf o 1).toNat),
      operand := fun _ => decide (o.b.code.toNat > 3) }

/-- GBAR (R372, R373). -/
def execGbar (o : Mode) : State → Out :=
  program (.gbar o) (gbarPlan o) (gbarBody o)

/-! ## Stage rings (R374) -/

/-- Slots of the ring that an instruction names, and the slot that it names: at or above the ring's count it is ILLEGAL_OPERAND (R374). -/
def stageSlots (x : Issue) (o : Mode) : Nat := (x.team.k.stages.getD o.a.code.toNat {}).slots
def stageSlot (x : Issue) (o : Mode) : Nat := (x.read groupThread o.b 0).toNat

def stagePlan (o : Mode) : Plan :=
  { u := true, h := o.h, illegal := fun _ => modeIllegal o 1 || o.scope != 0, srcs := [(o.b, 1)],
    operand := fun x => decide (o.a.code.toNat > 7) || stageSlots x o == 0,
    judged := [{ src := (o.b, 1), operand := fun x => decide (stageSlots x o ≤ stageSlot x o) }] }

/-- Slot j of ring k as a phase bit. -/
def stageBit (k j : Nat) : Nat := 8 * k + j

/-- Slot j of ring k takes the state that the mode names, and the groups that wait for it wake (R374). -/
def stgwEffect (o : Mode) (x : Issue) (j : Nat) : State :=
  let k := o.a.code.toNat
  let full := o.mode == 0
  let bit : W64 := 1 <<< stageBit k j
  let s1 := x.s.updTeam x.g.team fun t => { t with stage := if full then t.stage ||| bit else t.stage &&& ~~~bit }
  s1.updTeam x.g.team fun t => { t with groups := t.groups.map fun (i, g) =>
    (i, if g.wait = .stage k j full then g.decided x.s.time else g) }

/-- STGW (R374). -/
def execStgw (o : Mode) : State → Out :=
  program (.stgw o) (stagePlan o) fun x =>
    if !x.selected then .ok (x.seq x.s) else (x.releaseGate 0).map fun _ => x.seq (stgwEffect o x (stageSlot x o))

/-- Slot j of the ring that STGA names stands as its mode asks (R374). -/
def stageReady (o : Mode) (x : Issue) (j : Nat) : Bool := x.team.stage.getLsbD (stageBit o.a.code.toNat j) == (o.mode == 0)

/-- STGA (R374): a wait that an STGW has ended is over, whatever the slot holds by the time at which the group goes on. -/
def execStga (o : Mode) : State → Out :=
  program (.stga o) (stagePlan o) fun x =>
    if !x.selected || x.grp.agreed == some x.grp.pc || stageReady o x (stageSlot x o) then .ok (x.seq x.s)
    else .error (.wait .barrier (.stage o.a.code.toNat (stageSlot x o) (o.mode == 0)))

/-! ## The watchdog (R375, R376, R387) -/

/-- The core cycles of its team at which the watchdog of a group's wait started, and the wait's diagnostic. -/
def State.watch (s : State) (id : Nat) (t : Team) (slot : Nat) (g : Group) : Option (Nat × List W64) :=
  let team := fun (b : Nat) =>
    let B := t.bar b
    some (B.marks.get 0 id, diagBarrier false b B t.k.threads B.first (B.arrived.contains ·) t.groups)
  let gang := fun (b : Nat) =>
    let gg := s.gangAt id t
    let B := gg.bars.get {} b
    some (B.marks.get 0 id, diagBarrier true b B gg.expected B.first (fun tid => B.arrived.contains (id * 2048 + tid)) t.groups)
  if g.mode != .barrier then none else
  match g.wait with
  | .bar b _ | .barNext b _ => team b
  | .gbar b _ | .gbarNext b _ => gang b
  | .stage k j _ => some (g.mark, diagWait 2 (8 * k + j) 0 0 1 g.since slot g)
  | .muster n _ =>
    let m := t.muster n
    some (g.mark, diagWait 3 n m.gen.toNat m.count m.expected g.since slot g)
  | .twin => some (g.mark, diagWait 0 ((Config.freeWord s.fresh).toNat % 256) 0 0 1 g.since slot g)
  | _ => none

/-- The waits of a team whose watchdog has run out: some cycle of the present nanosecond is more than WDOG_LIMIT cycles after it started,
the cycles of every residency together (R375). -/
def State.expired (s : State) (id : Nat) (t : Team) : Option (Nat × List W64) :=
  let now := t.cycles + cycleTo (s.classOf t.core) (s.time - t.started)
  t.groups.findSome? fun ((k, g) : Nat × Group) =>
    (s.watch id t k g).bind fun (start, ws) => if now > start + t.wdog then some (k, ws) else none

/-- BARRIER_TIMEOUT (R375, R376): the lowest group slot among the waits that expired. -/
def execBarrierTimeout (team : Nat) (s : State) : Out :=
  match s.teams.find? team with
  | none => notNow "BARRIER_TIMEOUT"
  | some t =>
    if t.mode = .stopped then notNow "BARRIER_TIMEOUT" else
    match s.expired team t with
    | some (slot, ws) =>
      .next (({ s with fresh := s.fresh + 1 } : State).raiseTrap { team := team, grp := slot } { tBarrierTimeout with ext := 2, words := ws })
    | none => notNow "BARRIER_TIMEOUT"

/-- The operand a of a U-set instruction as a number. -/
def Issue.ua (x : Issue) (o : Alu) : Nat := (x.read groupThread o.a 0).toNat
def Issue.ub (x : Issue) (o : Alu) : Nat := (x.read groupThread o.b 0).toNat

/-- A judged operand of one register (R55). -/
def judge (a : Src) (bad : Issue → Bool) : Judged := { src := (a, 1), operand := bad }

/-- What WDOG asks for (R55). -/
def wdogPlan (o : Alu) : Plan :=
  { u := true, h := o.h, illegal := fun _ => aluForm o [] false false noVar || o.d != 0 || o.w, srcs := [(o.a, 1)],
    judged := [judge o.a fun x => decide (0 < x.ua o ∧ x.ua o < 1024)] }

/-- The limit that WDOG sets. -/
def wdogLimit (x : Issue) (o : Alu) : Nat := if x.ua o = 0 then 2 ^ 26 else x.ua o

/-- WDOG (R375). -/
def execWdog (o : Alu) : State → Out :=
  program (.wdog o) (wdogPlan o) fun x =>
    .ok (x.seq (if x.selected then x.s.updTeam x.g.team fun t => { t with wdog := wdogLimit x o } else x.s))

/-! ## Control and status registers (R364 to R367) -/

/-- The CSR numbers of R364. -/
def csrListed (n : Nat) : Bool := decide (n ≤ 0x0D) || (decide (0x10 ≤ n) && decide (n ≤ 0x17))

def opclass (s : State) (t : Team) : Nat :=
  t.opreq.isSome.toNat * 64 + t.opreqLast * 16 + t.k.cls * 4 + s.classOf t.core

/-- BANK_ROLE as a team sees it (R115). -/
def bankRole (c : Core) (t : Team) : W64 :=
  packWord [(if c.ut = 0 then 0 else 32 - (t.slice + 1) * 4 * c.ut, 32), (if c.us = 0 then 0 else t.slice * c.us, 24), (c.ut, 21),
    (c.us, 16), (c.cacheBanks, 8), (c.k * c.ut, 5), (c.k * c.us, 0)]

/-- The value of a CSR (R60, R115, R231, R260, R262, R365). -/
def csrValue (x : Issue) (n w : Nat) : W64 :=
  let t := x.team
  if n = 0x00 then BitVec.ofNat 64 (t.ctx % 2 ^ 16)
  else if n = 0x01 then BitVec.ofNat 64 t.index
  else if n = 0x02 then BitVec.ofNat 64 (x.g.grp % 64)
  else if n = 0x03 then (match t.gang with | some (_, r) => BitVec.ofNat 64 (16 + r % 16) | none => 0)
  else if n = 0x04 then BitVec.ofNat 64 ((x.grp.lead.map (·.lane)).getD 0)
  else if n = 0x05 then (match t.vault with | some (o, _) => BitVec.ofNat 64 (clusterInDie t.core * 2 ^ 25 + o) | none => 0)
  else if n = 0x06 then bankRole x.unit t
  else if n = 0x07 then t.stage
  else if n = 0x08 then BitVec.ofNat 64 (opclass x.s t)
  else if n = 0x09 then x.unit.estWord.setWidth 64
  else if n = 0x0A then BitVec.ofNat 64 t.leaseLen
  else if n = 0x0B then t.fpmode.setWidth 64
  else if n = 0x0C then t.seed
  else if n = 0x0D then BitVec.ofNat 64 t.wdog
  else (x.context.window (n - 0x10)).getD w 0

/-- What CSRR asks for (R55). -/
def csrrPlan (o : Alu) : Plan :=
  let n := o.a.code.toNat
  let w := o.b.code.toNat
  { u := true, h := o.h, illegal := fun _ => aluForm o [] false false noVar, dsts := if o.w then [] else [(o.d.toNat, 2)],
      operand := fun _ => !csrListed n || decide (w > if n ≥ 0x10 then 3 else 0) }

/-- CSRR (R366). -/
def execCsrr (o : Alu) : State → Out :=
  program (.csrr o) (csrrPlan o) fun x => .ok (x.seq (wroteWords o x 2 (pairOf (csrValue x o.a.code.toNat o.b.code.toNat))))

/-- The team after a CSRW, where the value lies in the limits (R260, R365). -/
def csrSet (t : Team) (n : Nat) (v : W64) : Option Team :=
  let a := v.toNat
  if n = 0x0A then (if 64 ≤ a ∧ a ≤ 16384 then some { t with leaseLen := a } else none)
  else if n = 0x0B then (if a ≤ 4 then some { t with fpmode := v.setWidth 3 } else none)
  else if n = 0x0C then some { t with seed := v }
  else if 1024 ≤ a ∧ a < 2 ^ 32 then some { t with wdog := a } else none

/-- The four registers that CSRW may write. -/
def csrWritable (n : Nat) : Bool := [0x0A, 0x0B, 0x0C, 0x0D].contains n

/-- What CSRW asks for (R55). -/
def csrwPlan (o : Alu) : Plan :=
  let n := o.a.code.toNat
  { u := true, h := o.h, illegal := fun _ => aluForm o [] false false noVar || o.d != 0 || o.w, srcs := [(o.b, 2)],
      operand := fun _ => !csrListed n,
      judged := [{ src := (o.b, 2), operand := fun x => csrWritable n && (csrSet x.team n (x.read64 groupThread o.b)).isNone }] }

/-- CSRW (R367). -/
def execCsrw (o : Alu) : State → Out :=
  program (.csrw o) (csrwPlan o) fun x =>
    let n := o.a.code.toNat
    if !x.selected then .ok (x.seq x.s)
    else if !csrWritable n then .error (.trap tPrivilege)
    else match csrSet x.team n (x.read64 groupThread o.b) with
      | none => .error (.trap tIllegalOperand)
      | some t => .ok (x.seq (x.s.updTeam x.g.team fun u => { u with leaseLen := t.leaseLen, fpmode := t.fpmode, seed := t.seed, wdog := t.wdog }))

/-- What CLK asks for (R55). -/
def clkPlan (o : Alu) : Plan :=
  let m := o.b.code.toNat
  { u := true, h := o.h, illegal := fun _ => aluForm o [] false false noVar, dsts := if o.w then [] else [(o.d.toNat, 2)],
      operand := fun _ => decide (m > 1) }

/-- The clock that CLK reads: package time, or the cycles of its team (R368). -/
def clkValue (o : Alu) (x : Issue) : Nat :=
  if o.b.code.toNat = 0 then x.s.time else x.team.cycles + cyclesOf (x.s.classOf x.team.core) (x.s.time - x.team.started)

/-- CLK (R368). -/
def execClk (o : Alu) : State → Out :=
  program (.clk o) (clkPlan o) fun x => .ok (x.seq (wroteWords o x 2 (pairOf (BitVec.ofNat 64 (clkValue o x)))))

/-- What FCNT asks for (R55). -/
def fcntPlan (o : Alu) : Plan :=
  { u := true, h := o.h, illegal := fun _ => aluForm o [] false false noVar, srcs := [(o.a, 1)],
      dsts := if o.w then [] else [(o.d.toNat, 2)], judged := [judge o.a fun x => decide (x.ua o > 383)] }

/-- Operations of the team that add to the counters once they complete, and are not complete (R265, R267): FADD atomics of the issuing
group, and what its core's plane array has in hand. -/
def TileWork.counts : TileWork → Bool
  | .mma .. | .tcvt .. | .tamax .. => true
  | _ => false
def Issue.countsDue (x : Issue) : Option Wait :=
  if x.entries.any fun e => e.isAtomic && e.akind == 10 then some .entries
  else if x.s.cores.any fun (_, c) => c.tileOps.any fun o => o.work.counts && (x.s.teams.find? o.team).any (fun t => t.launch == x.team.launch) then some .tile
  else none

/-- Counter n of the launch of the issuing team, with what the team's open interval still holds (R266, R267). -/
def fcntValue (x : Issue) (n : Nat) : Nat :=
  let held := match x.s.intervals.find? x.g.team with | some iv => iv.counts.get 0 n | none => 0
  match x.s.launches.find? x.team.launch with | some l => min (2 ^ 48 - 1) (l.counters.get 0 n + held) | none => 0

/-- FCNT (R369). -/
def execFcnt (o : Alu) : State → Out :=
  program (.fcnt o) (fcntPlan o) fun x =>
    match if x.selected then x.countsDue else none with
    | some w => .error (.wait .stalled w)
    | none => .ok (x.seq (wroteWords o x 2 (pairOf (BitVec.ofNat 64 (fcntValue x (x.ua o))))))

/-! ## Current and class (R377 to R380) -/

/-- What BURN asks for (R55). -/
def burnPlan (o : Alu) : Plan :=
  { u := true, h := o.h, illegal := fun _ => aluForm o [] false false noVar || o.d != 0 || o.w, srcs := [(o.a, 1)],
    judged := [judge o.a fun x => decide (x.ua o > 255)] }

/-- BURN (R377). -/
def execBurn (o : Alu) : State → Out :=
  program (.burn o) (burnPlan o) fun x =>
    .ok (x.seq (if x.selected then x.s.updTeam x.g.team fun t => { t with burn := x.ua o } else x.s))

/-- What CURR asks for (R55). -/
def currPlan (o : Alu) : Plan :=
  { u := true, h := o.h, illegal := fun _ => aluForm o [] false false noVar, dsts := if o.w then [] else [(o.d.toNat, 1)] }

/-- CURR (R378). -/
def execCurr (o : Alu) : State → Out :=
  program (.curr o) (currPlan o) fun x => .ok (x.seq (wroteWords o x 1 [x.unit.estWord]))

/-- A team's grants leave its column, and their remainders return to the budget (R379, R420). -/
def Column.cancel (c : Column) (team : Nat) : Column :=
  { c with budget := min 65536 (c.budget + ((c.grants.filter (·.team == team)).map fun g => g.ceu * g.left).sum),
           grants := c.grants.filter (·.team != team) }

/-- Grant(team, a, b) (R420): the ceu and the windows granted. -/
def Column.grant (c : Column) (team a b : Nat) : Column × Nat × Nat :=
  let free := 96 - (c.grants.map (·.ceu)).sum
  let g := min a free
  let n := if g = 0 then 0 else min b (c.budget / g)
  if n = 0 then (c, 0, 0)
  else ({ c with budget := c.budget - g * n, grants := c.grants ++ [{ team := team, ceu := g, left := n }] }, g, n)

/-- What SHUNT asks for (R55). -/
def shuntPlan (o : Alu) : Plan :=
  { u := true, h := o.h, illegal := fun _ => aluForm o [] false false noVar, srcs := [(o.a, 1), (o.b, 1)],
      dsts := if o.w then [] else [(o.d.toNat, 1)],
      judged := [judge o.a fun x => decide (x.ua o > 255), judge o.b fun x => decide (x.ub o = 0 ∨ x.ub o > 4095)] }

/-- The column of the issuing core after a SHUNT, and what was granted (R379, R420). -/
def shuntGrant (x : Issue) (o : Alu) : Column × Nat × Nat :=
  ((x.s.column (columnOf x.team.core)).cancel x.g.team).grant x.g.team (x.ua o) (x.ub o)

def shuntEffect (o : Alu) (x : Issue) : State :=
  let (c, g, n) := shuntGrant x o
  (x.s.setColumn (columnOf x.team.core) c).updGroup x.g fun q => q.writeU o.w true o.d.toNat 1 [BitVec.ofNat 32 (n * 256 + g)]

/-- SHUNT (R379, R420). -/
def execShunt (o : Alu) : State → Out :=
  program (.shunt o) (shuntPlan o) fun x =>
    .ok (x.seq (if x.selected then shuntEffect o x else wroteWords o x 1 []))

/-- Whether a pool of a partition runs a class (R421). -/
def State.hasPool (s : State) (part cls : Nat) : Bool :=
  (List.range 128).any fun c => (s.cluster c).part == part && (s.cluster c).cls == cls && (s.cluster c).phys.isSome

/-! ## Stops (R232, R242, R340, R438) -/

/-- The matrix signature of a team that waits for its mate is withdrawn, and with it the operation that it signed for (R340). -/
def Core.withdraw (c : Core) (id : Nat) : Core :=
  match c.mate with
  | some (_, g, uid) => if g.team = id then { c with mate := none, tileOps := c.tileOps.filter fun o => o.uid != uid } else c
  | none => c
def State.withdrawMate (s : State) (id core : Nat) : State := s.updCore core fun c => c.withdraw id

/-- Those that are stopped, saved and restored with a team: its gang, or its twin (R232, R438). -/
def State.companions (s : State) (id : Nat) (t : Team) : List Nat :=
  match t.gang, t.twin with
  | some (g, _), _ => ((s.gangs.find? g).map (·.members)).getD [id]
  | none, some (u, _) => [id, u]
  | none, none => [id]

/-- Ask a team, and those that go with it, to stop. -/
def State.requestStop (s : State) (id : Nat) (why : Option Nat) : State :=
  match s.teams.find? id with
  | none => s
  | some t => (s.companions id t).foldl (fun (u : State) k => match u.teams.find? k with
      | some x => if x.mode = .running then
          (u.setTeam k { x with mode := .stopping u.time, forLaunch := why }).withdrawMate k x.core else u
      | none => u) s

/-- What OPCL asks for (R55). -/
def opclPlan (o : Alu) : Plan :=
  { u := true, h := o.h, illegal := fun _ => aluForm o [] false false noVar, srcs := [(o.a, 1)],
      dsts := if o.w then [] else [(o.d.toNat, 1)], judged := [judge o.a fun x => decide (x.ua o / 4 % 2 ^ 29 ≠ 0)] }

/-- A request for a class is refused (R380): faster than the launch allows, the one in force, or one that no pool runs. -/
def opclRefused (x : Issue) (c : Nat) : Bool :=
  decide (c < x.team.k.cls) || c == x.s.classOf x.team.core || !x.s.hasPool (x.s.cluster (clusterOf x.team.core)).part c

/-- The team after an OPCL with operand v: bit 31 only reads. -/
def opclTeam (x : Issue) (v : Nat) (t : Team) : Team :=
  if v ≥ 2 ^ 31 then t else if opclRefused x (v % 4) then { t with opreq := none } else { t with opreq := some (v % 4), opreqLast := v % 4 }

/-- The state after an OPCL: a request that is not refused stops the team at its next safe point (R242, R380). -/
def opclEffect (o : Alu) (x : Issue) : State :=
  let v := x.ua o
  let s0 := x.s.updTeam x.g.team (opclTeam x v)
  let s1 := if v < 2 ^ 31 ∧ !opclRefused x (v % 4) then s0.requestStop x.g.team none else s0
  s1.updGroup x.g fun g => g.writeU o.w true o.d.toNat 1 [BitVec.ofNat 32 (opclass s1 (opclTeam x v x.team))]

/-- OPCL (R380). -/
def execOpcl (o : Alu) : State → Out :=
  program (.opcl o) (opclPlan o) fun x =>
    .ok (x.seq (if x.selected then opclEffect o x else wroteWords o x 1 []))

/-! ## Child grids and traps (R382, R383) -/

/-- What GWAIT asks for (R55). -/
def gwaitPlan (o : Alu) : Plan :=
  { u := true, h := o.h, illegal := fun _ => aluForm o [] false false noVar, srcs := [(o.a, 1)],
      dsts := if o.w then [] else [(o.d.toNat, 1)] }

/-- What GWAIT answers for a handle: none while the grid has not retired (R382). -/
def gwaitStatus (x : Issue) (h : Nat) : Option Nat :=
  match x.context.grids.find? h with
  | none => some 2
  | some (some _, _) => none
  | some (none, st) => some st

/-- GWAIT (R382). -/
def execGwait (o : Alu) : State → Out :=
  program (.gwait o) (gwaitPlan o) fun x =>
    if !x.selected then .ok (x.seq (wroteWords o x 1 [])) else
    match gwaitStatus x (x.ua o) with
    | none => .error (.wait .parked (.grid (x.ua o)))
    | some st => .ok (x.seq (wroteWords o x 1 [BitVec.ofNat 32 st]))

/-- What TRAP asks for (R55). -/
def trapPlan (o : Alu) : Plan :=
  { u := true, h := o.h, illegal := fun _ => aluForm o [] false false noVar || o.d != 0 || o.w, srcs := [(o.a, 1)] }

/-- TRAP (R383). -/
def execTrap (o : Alu) : State → Out :=
  program (.trap o) (trapPlan o) fun x => if x.selected then .error (.trap (tSoftware (x.ua o))) else .ok (x.seq x.s)

end Sys2Proof.Machine
end

