-- ==== Sys2Proof/Machine/Place.lean ====
section
/-! DEFINITION. Placement of teams (R113, R114, R134, R232, R312, R394, R400 to R404, R430, R469): the shape of a kernel,
the cores that take a team, the order of the front end's grants, and what a team finds when it arrives or leaves behind. -/
namespace Sys2Proof.Machine
open Sys2Proof

/-! ## Shapes (R113, R114, R229, R430) -/

def upTo (n b : Nat) : Nat := (n + b - 1) / b

/-- Scratch banks and quads of tensor banks of one slice (R113). -/
def Kernel.us (k : Kernel) : Nat := upTo k.scratch 10240
def Kernel.ut (k : Kernel) : Nat := upTo k.tensor 40960
/-- Group slots and vector words of one team, spare slots included (R229). -/
def Kernel.groups (k : Kernel) : Nat := k.threads / k.width + k.rkeys - 1
def Kernel.words (k : Kernel) : Nat := (k.threads + (k.rkeys - 1) * k.width) * k.v
/-- Slices of a core configured for this shape (R114). -/
def Kernel.slices (k : Kernel) : Nat :=
  let b := k.us + 4 * k.ut
  let m := min 16 (min (64 / k.groups) (131072 / k.words))
  if b = 0 then m else min m (30 / b)
/-- Bytes of the vault allocation (R134) and of the shadow region (R430). -/
def Kernel.vaultBytes (k : Kernel) : Nat := upTo k.vault 65536 * 65536
def Kernel.copyBytes (k : Kernel) : Nat :=
  upTo (4 * k.threads * k.v + 1024 * k.groups + k.us * 10240 + 4096 + 32768 * k.plane.toNat) 65536 * 65536
def Kernel.shadowBytes (k : Kernel) : Nat := if k.checkpoint || k.paired then 2 * k.copyBytes else 0

/-- Teams of a launch that one core takes (R114, R322, R344). -/
def Kernel.perCore (k : Kernel) : Nat := if k.plane || k.ring then 1 else k.slices

/-- Teams of a kernel that the cores of an empty cluster hold; its vault refuses no launch (R113, R134, R322, R344). -/
def State.clusterHolds (s : State) (k : Kernel) (c : Nat) : Nat :=
  k.perCore * ((List.range 16).filter fun n => !s.colRetired (columnOf (c * 16 + n))).length

/-- The clusters given can never hold a gang (R232): no cluster, no die, or not the dies in turn. -/
def State.gangImpossible (s : State) (k : Kernel) (mine : List Nat) : Bool :=
  let die := fun (d : Nat) => ((mine.filter fun c => c / 16 == d).map (s.clusterHolds k)).sum
  let dies := inOrder (fun a b => decide (b ≤ a)) ((List.range 8).map die)
  if k.gclass = 1 then !(mine.any fun c => decide (k.gang ≤ s.clusterHolds k c))
  else if k.gclass = 2 then !(dies.any fun n => decide (k.gang ≤ n))
  else k.gclass = 3 && (dies.zipIdx.any fun (n, i) => decide (n < (k.gang + 7 - i) / 8))

/-- The refusal of the first dispatch attempt (R113, R231, R232, R395). -/
def Kernel.refusal (s : State) (k : Kernel) (part : Nat) : Option Nat :=
  let mine := (List.range 128).filter fun c => (s.cluster c).part == part && (s.cluster c).phys.isSome
  if 4 * k.ut > 28 then some 0x11
  else if k.us + 4 * k.ut > 30 ∨ (k.stages.map fun r => r.slots * r.bytes).sum > k.scratch then some 0x10
  else if mine.isEmpty then some 0x13
  else if s.gangImpossible k mine then some 0x12
  else none

/-! ## Cores that take a team (R114, R134, R312, R322, R344, R400 to R402, R409) -/

/-- What is to be placed. -/
structure Want where
  launch : Nat
  k : Kernel
  part : Nat
  twilight : Bool
  /-- The class asked for; a TWILIGHT team that has not asked for one takes any pool (R380, R400). -/
  cls : Nat
  anyPool : Bool := false
  /-- Log entries that a restored team brings (R110). -/
  entries : Nat := 0
deriving DecidableEq, Repr

def State.residents (s : State) (core : Nat) : List (Nat × Team) := s.teams.filter fun (_, t) => t.core == core
def State.columnTeams (s : State) (col : Nat) : List (Nat × Team) := s.teams.filter fun (_, t) => columnOf t.core == col
/-- A team of a launch in the TWILIGHT queue (R393). -/
def State.twilight (s : State) (t : Team) : Bool := (s.launches.find? t.launch).any fun l => l.queue == 8

/-- The lowest offset at which bytes fit in a vault, and whether they do (R134). -/
def firstFit (used : List (Nat × Nat)) (n : Nat) : Option Nat :=
  let fits := fun (a : Nat) => decide (a + n ≤ 2 ^ 25) && !(used.any fun (b, m) => overlaps a n b m)
  match (0 :: used.map fun (b, m) => b + m).filter fits with
  | [] => none
  | c :: r => some (r.foldl min c)

/-- Allocation and shadow region of a team in the vault of a cluster. -/
def State.vaultFit (s : State) (cl : Nat) (k : Kernel) : Option (Option (Nat × Nat) × Option (Nat × Nat)) :=
  let used := (s.clusterTeams cl).flatMap fun (_, t) => t.vault.toList ++ t.shadow.toList
  let alloc := fun (used : List (Nat × Nat)) (n : Nat) =>
    if n = 0 then some none else (firstFit used n).map fun a => some (a, n)
  (alloc used k.vaultBytes).bind fun v => (alloc (v.toList ++ used) k.shadowBytes).map fun w => (v, w)

/-- The class that a pool runs, or changes to. -/
def Cluster.target (c : Cluster) : Nat := match c.changing with | some (_, n) => n | none => c.cls

/-- A cluster that receives teams of the partition and class (R400, R410, R439, R443). -/
def State.clusterOpen (s : State) (w : Want) (cl : Nat) : Bool :=
  let c := s.cluster cl
  c.phys.isSome && c.part == w.part && !s.moving cl && c.remap.isNone && c.stepTo.isNone && !(s.die (cl / 16)).failed &&
    (w.anyPool || c.target == w.cls)

/-- Log entries that teams bring which have come to a core and are not put back yet (R110). -/
def State.coming (s : State) (core : Nat) : Nat :=
  ((s.residents core).map fun (id, _) => ((s.saved.find? id).map (·.entries.length)).getD 0).sum

/-- A matching core, or one with no resident team, that nothing keeps the team from. -/
def State.coreTakes (s : State) (w : Want) (core : Nat) : Bool :=
  let c := s.core core
  let ts := s.residents core
  !s.colRetired (columnOf core) && !(s.column (columnOf core)).retiring && (c.heldFor.all fun l => l == w.launch) && decide (c.log.length + s.coming core + w.entries ≤ 64) &&
    (s.vaultFit (clusterOf core) w.k).isSome &&
    (ts.isEmpty ||
      (decide (c.us = w.k.us) && decide (c.ut = w.k.ut) && decide (ts.length < c.k) && decide (ts.length < 16) &&
        decide ((ts.map fun (_, t) => t.k.groups).sum + w.k.groups ≤ 64) &&
        decide ((ts.map fun (_, t) => t.k.words).sum + w.k.words ≤ 131072) &&
        ts.all fun (_, t) =>
          !(t.k.plane && w.k.plane) && !(t.k.ring && w.k.ring) &&
            (!(t.k.rcore || w.k.rcore) || (w.k.rcore && t.launch == w.launch && (decide (t.mode = .placed) || decide (t.mode = .saving))))))

/-- A column for a team of a priority queue: only its own launch's (R401). -/
def State.columnFor (s : State) (w : Want) (core : Nat) : Bool :=
  w.twilight || (s.columnTeams (columnOf core)).all fun (_, t) => t.launch == w.launch || s.twilight t

/-- Every unexited group waits on ENG.WAIT, GWAIT or a gang barrier (R404). -/
def Team.waits (t : Team) : Bool :=
  t.groups.all fun (_, g) => g.mode == .done || match g.wait with
    | .token _ | .grid _ => g.mode == .parked
    | .gbar _ _ | .gbarNext _ _ => g.mode == .barrier
    | _ => false

/-- The first core of a list that takes a team. -/
def State.firstCore (s : State) (w : Want) (l : List Nat) : Option Nat := l.find? fun c => s.coreTakes w c && s.columnFor w c

/-- Item 1 of R401: a core of a column that already holds teams of the launch, by the fewest of its teams and then the
lowest layer; `only` names the cores that may be taken. -/
def State.openCore (s : State) (w : Want) (only : Nat → Bool) (cls : List Nat) : Option Nat :=
  let mine := fun (l : List (Nat × Team)) => (l.filter fun (_, t) => t.launch == w.launch).length
  let cores := cls.flatMap fun cl => (List.range 16).map fun n => cl * 16 + n
  let good := cores.filter fun c =>
    decide (mine (s.columnTeams (columnOf c)) > 0) && only c && s.coreTakes w c && s.columnFor w c &&
      (!w.twilight || (s.residents c).all fun (_, t) => s.twilight t)
  let key := fun (c : Nat) => [mine (s.residents c), coreInCluster c / 4, c / 16, c % 4]
  good.foldl (fun (o : Option Nat) c => match o with | none => some c | some b => if lexLess (key c) (key b) then some c else some b) none

/-- Item 2 of R401, a core of an empty column, layer 0 first and then by cluster and column (log 48); a TWILIGHT team may also take an
empty core of another launch's column. -/
def State.freshCore (s : State) (w : Want) (only : Nat → Bool) (cls : List Nat) : Option Nat :=
  let layers := (List.range 4).flatMap fun l => cls.flatMap fun cl => (List.range 4).map fun n => cl * 16 + 4 * l + n
  (s.firstCore w (layers.filter fun c => only c && (s.columnTeams (columnOf c)).isEmpty)).orElse fun _ =>
    if w.twilight then
      s.firstCore w ((cls.flatMap fun cl => (List.range 16).map fun n => cl * 16 + n).filter fun c => only c && (s.residents c).isEmpty)
    else none

/-- Waiting clusters of a die, for a TWILIGHT team: a matching core whose other teams wait, and else an empty core under R401 (R404,
R469). -/
def State.waitingCore (s : State) (w : Want) (cls : List Nat) : Option Nat :=
  cls.findSome? fun cl =>
    if (s.cluster cl).waitRun < 4 then none else
    let cores := (List.range 16).map fun n => cl * 16 + n
    let held := cores.filter fun c => !(s.residents c).isEmpty && (s.residents c).all fun (_, t) => s.twilight t || t.waits
    let empty := fun (c : Nat) => (s.residents c).isEmpty
    (s.firstCore w held).orElse fun _ => (s.openCore w empty [cl]).orElse fun _ => s.freshCore w empty [cl]

/-- Dies in rotating order after the one granted last (R400). -/
def State.rotating (s : State) : List Nat :=
  let d := match s.io.lastDie with | some d => d + 1 | none => 0
  (List.range 8).map fun i => (d + i) % 8

/-- The core of the next grant, and whether it is taken under the waiting rule. -/
def State.findCore (s : State) (w : Want) (ok : Nat → Bool) : Option (Nat × Bool) :=
  let cls := fun (d : Nat) => ((List.range 16).map fun i => d * 16 + i).filter fun cl => ok cl && s.clusterOpen w cl
  let waiting := if w.twilight then s.rotating.findSome? fun d => s.waitingCore w (cls d) else none
  match waiting with
  | some c => some (c, true)
  | none => (((List.range 8).findSome? fun d => s.openCore w (fun _ => true) (cls d)).orElse fun _ =>
      s.rotating.findSome? fun d => s.freshCore w (fun _ => true) (cls d)).map fun c => (c, false)

/-- A partition with no pool of the class gives one with no resident team to it (R400). -/
def State.reassign (s : State) (w : Want) (ok : Nat → Bool) : Option State :=
  let mine := (List.range 128).filter fun c => (s.cluster c).part == w.part && (s.cluster c).phys.isSome
  if w.anyPool || mine.any (fun c => (s.cluster c).target == w.cls) then none else
  let free := mine.filter fun c =>
    ok c && (s.clusterTeams c).isEmpty && s.clusterOpen { w with anyPool := true } c && (s.cluster c).changing.isNone
  let die := s.rotating.headD 0
  match (free.filter fun c => c / 16 == die) ++ free with
  | [] => none
  | c :: _ => some (s.changeClass c w.cls)

/-! ## Arrival at a core (R114, R116, R134) -/

/-- Banks change their role for a new shape: L1 keeps the lines of the banks that stay CACHE (R116). -/
def Core.shape (c : Core) (k : Kernel) : Core :=
  let c1 := { c with k := k.slices, us := k.us, ut := k.ut }
  { c1 with l1 := c.l1.filter fun x => c1.isCache x.bank }

/-- The lowest number not in a list. -/
def lowestFree (l : List Nat) : Nat := ((List.range (l.length + 1)).find? fun i => !l.contains i).getD 0

/-- Put a team on a core: slot, slice and vault are the lowest free ones; the vault allocation is zero-filled. -/
def State.arrive (s : State) (id : Nat) (t : Team) (core : Nat) (waiting : Bool) : State :=
  let ts := s.residents core
  let (v, sh) := (s.vaultFit (clusterOf core) t.k).getD (none, none)
  let s1 := if ts.isEmpty then s.updCore core fun c => c.shape t.k else s
  let zero := fun (m : List Host.Cell) => match v with | some (o, n) => setCells m (vaultAt (clusterOf core) o) n [] | none => m
  let t1 := { t with
    core := core, slot := lowestFree (ts.map fun (_, u) => u.slot), slice := lowestFree (ts.map fun (_, u) => u.slice),
    vault := v, shadow := sh, onWaiting := waiting }
  let s2 := match v with | some (o, n) => s1.clearVaultPoison (clusterOf core) o n | none => s1
  ({ s2 with mem := zero s2.mem, teams := s2.teams.put id t1, io := { s2.io with lastDie := some (dieOf core) } } : State).updLaunch
    t.launch fun l => { l with dies := l.dies ||| (1 <<< dieOf core) }

/-! ## Leaving (R234, R235, R442) -/

/-- A column whose retirement waits is retired once it is empty (R442): the physical one, whatever stands for it later (R443). -/
def State.columnBoundary (s : State) (col : Nat) : State :=
  if !((s.column col).retiring && (s.columnTeams col).isEmpty) then s else
  let s1 := s.updColumn col fun c => { c with retiring := false }
  match (s.cluster (col / 4)).phys with
  | some q => { s1 with io := { s1.io with deadCols := (col / 64 * 64 + q * 4 + col % 4) :: s1.io.deadCols } }
  | none => s1

/-- The cores held for a launch are free once no team stops for it any more (R409). -/
def State.freeHeld (s : State) (launch : Nat) : State :=
  if s.teams.any fun (_, t) => t.forLaunch == some launch && t.mode.isStopping then s
  else { s with cores := s.cores.map fun ((k, c) : Nat × Core) => (k, if c.heldFor = some launch then { c with heldFor := none } else c) }

/-- A team's place on its core is free. -/
def State.leave (s : State) (id : Nat) (t : Team) : State :=
  let s1 := ({ s with teams := s.teams.erase id } : State).updColumn (columnOf t.core) fun c => c.cancel id
  let s2 := match t.forLaunch with | some l => s1.freeHeld l | none => s1
  (s2.clusterBoundary (clusterOf t.core)).columnBoundary (columnOf t.core)

/-! ## Stops (R242, R340, R408, R409) -/

/-- Withdraw the stops asked for a launch that has been placed elsewhere: teams already stopped go on to be saved, a gang or a pair where
all of it has stopped (R232, R409, R438). -/
def State.withdrawStops (s : State) (launch : Nat) : State :=
  let stopped := fun (t : Team) => t.groups.all fun ((_, g) : Nat × Group) =>
    g.mode == .saving || g.mode == .done || (g.mode == .barrier && g.stopMask.isSome)
  let whole := fun (id : Nat) (t : Team) => (s.companions id t).all fun k => (s.teams.find? k).all stopped
  -- a group whose signature has been withdrawn signs again
  let free := fun (g : Group) =>
    if g.mode = .saving || g.wait == .mate then
      { g with mode := .ready, wait := .none, stopMask := none, stoppedAt := none, readySince := s.time } else g
  let one := fun ((id, t) : Nat × Team) =>
    if t.forLaunch = some launch && t.mode.isStopping && !whole id t then
      (id, { t with mode := .running, forLaunch := none, saveFence := none, groups := t.groups.map fun ((k, g) : Nat × Group) => (k, free g) })
    else (id, t)
  ({ s with teams := s.teams.map one } : State).freeHeld launch

/-! ## Units of dispatch (R232, R312, R394, R402, R403) -/

/-- What stands or falls as a whole (R232, R402): saved teams that return together, or the fresh teams of `n` indices from one on. -/
inductive Clump where
  | saved (ids : List Nat)
  | fresh (index n : Nat)
deriving DecidableEq, Repr

/-- Fresh teams of a gang, or one. -/
def Kernel.clump (k : Kernel) : Nat := if k.gclass != 0 then k.gang else 1
/-- Clumps of a launch that go to their cores together: one, but as many as its cores allow under `.regroup core` (R312). -/
def Kernel.batch (k : Kernel) : Nat :=
  if k.rcore then max 1 (k.perCore / (if k.gclass = 3 then (k.gang + 7) / 8 else k.clump)) else 1

/-- Saved teams of a launch that may return, from the head of its unstarted teams on: a gang or a pair as a whole, once all of it has been
saved (R403). -/
def State.returning (s : State) : List Nat → List Clump
  | [] => []
  | id :: r =>
    match s.saved.find? id with
    | none => s.returning r
    | some v =>
      let all := s.companions id v.team
      if all.any fun k => (s.teams.find? k).isSome then [] else
      let ids := all.filter fun k => (s.saved.find? k).isSome
      if ids.head? = some id then .saved ids :: s.returning r else s.returning r

/-- Fresh clumps of a launch. -/
def Launch.freshClumps (l : Launch) : List Clump :=
  (List.range (min l.k.batch ((l.hi - l.next) / l.k.clump))).map fun i => .fresh (l.next + i * l.k.clump) l.k.clump

/-- What a launch has next: saved teams before fresh ones. Under `.regroup core` both go to one core, once no team of the launch is being
stopped any more (R312, log 48). -/
def State.unitOf (s : State) (slot : Nat) (l : Launch) : List Clump :=
  let back := s.returning l.requeued
  if l.k.rcore then
    if s.teams.any fun (_, t) => t.launch == slot && t.mode.isStopping then [] else (back ++ l.freshClumps).take l.k.batch
  else if l.requeued.isEmpty then l.freshClumps else back.take 1

/-- SEED at team start (R262). -/
def seedOf (l : Launch) (index : Nat) : W64 := l.seed ^^^ BitVec.ofNat 64 (index * 0x9E3779B97F4A7C15)

/-- A team as it is placed. -/
def freshTeam (slot : Nat) (l : Launch) (index order : Nat) : Team :=
  { index := index, ctx := l.ctx, launch := slot, k := l.k, depth := l.depth, seed := seedOf l index, order := order }

def Launch.want (l : Launch) (slot : Nat) : Want :=
  { launch := slot, k := l.k, part := l.part, twilight := l.queue == 8, cls := l.k.cls, anyPool := l.queue == 8 }

/-- What a saved team asks of its core: the class that it has requested (R380), and room for its entries (R110). -/
def Launch.wantSaved (l : Launch) (slot : Nat) (req : Option Nat) (v : Saved) : Want :=
  { l.want slot with cls := req.getD l.k.cls, anyPool := l.queue == 8 && req.isNone, entries := v.entries.length }

/-- Where a team of a unit may go: cores of the unit that teams of a `.regroup core` launch fill before another opens, and whether another
may be opened (R312). -/
structure Reach where
  near : List Nat := []
  opens : Bool := true
  /-- The clusters that may be taken at all. -/
  within : Nat → Bool := fun _ => true

/-- Place one team where `ok` allows the cluster. -/
def State.placeOne (s : State) (h : Reach) (w : Want) (id : Nat) (t : Team) (ok0 : Nat → Bool) : Option State :=
  -- a thermal move keeps to its targets while one of them receives teams (R426)
  let free := t.targets.all fun l => !(l.any fun c => s.clusterOpen w c)
  let ok := fun (cl : Nat) => h.within cl && ok0 cl && (free || t.targets.all fun l => l.contains cl)
  match h.near.find? fun c => ok (clusterOf c) && s.clusterOpen w (clusterOf c) && s.coreTakes w c with
  | some c => some (s.arrive id t c ((s.residents c).any fun (_, x) => x.onWaiting))
  | none =>
    if !h.opens then none else
    match s.findCore w ok with
    | some (c, wt) => some (s.arrive id t c wt)
    | none => (s.reassign w ok).bind fun s1 => (s1.findCore w ok).map fun (c, wt) => s1.arrive id t c wt

def State.coreOf (s : State) (id : Nat) : Nat := ((s.teams.find? id).map (·.core)).getD 0

/-- Place the members of a clump in order, each where `ok` allows it after the ones before. -/
def State.placeAll (s : State) (h : Reach) (ok : State → List Nat → Nat → Bool) (done : List Nat) : List (Want × Nat × Team) → Option State
  | [] => some s
  | (w, id, t) :: r =>
    let h1 := if w.k.rcore then { h with near := h.near ++ done.map s.coreOf } else h
    (s.placeOne h1 w id t (ok s done)).bind fun s1 => s1.placeAll h ok (done ++ [id]) r

/-- Where the next member of a gang may stand (R232): beside the others in a cluster or a die, or on the dies in turn. -/
def gangOk (cls : BitVec 2) (s : State) (done : List Nat) (cl : Nat) : Bool :=
  match done with
  | [] => true
  | a :: _ =>
    if cls = 1 then cl == clusterOf (s.coreOf a)
    else if cls = 2 then cl / 16 == dieOf (s.coreOf a)
    else if done.length ≥ 8 then cl / 16 == dieOf (s.coreOf (done.getD (done.length % 8) 0))
    else !(done.any fun d => dieOf (s.coreOf d) == cl / 16)

/-- Try the first member on each cluster (NEAR) or die (CLUSTER) until the whole gang stands. -/
def State.placeGang (s : State) (h : Reach) (cls : BitVec 2) (l : List (Want × Nat × Team)) : Option State :=
  let go := fun (first : Nat → Bool) => s.placeAll h (fun u done cl => (!done.isEmpty || first cl) && gangOk cls u done cl) [] l
  let clusters := s.rotating.flatMap fun d => (List.range 16).map fun i => d * 16 + i
  if cls = 1 then (go fun _ => true).orElse fun _ => clusters.findSome? fun c => go (· == c)
  else if cls = 2 then (go fun _ => true).orElse fun _ => s.rotating.findSome? fun d => go (· / 16 == d)
  else go fun _ => true

/-- A pair stands on different clusters, and on different dies where the partition spans several (R402). -/
def pairOk (s : State) (part : Nat) (u : State) (done : List Nat) (cl : Nat) : Bool :=
  match done with
  | [] => true
  | a :: _ =>
    let dies := ((List.range 128).filter fun c => (s.cluster c).part == part && (s.cluster c).phys.isSome).map (· / 16)
    if dies.any fun d => d != dies.headD 0 then cl / 16 != dieOf (u.coreOf a) else cl != clusterOf (u.coreOf a)

/-- Arrange a placed gang: its members in order of rank (R232, R372). -/
def State.formGang (s : State) (gid : Nat) (k : Kernel) (ids : List Nat) : State :=
  let dies := ids.map fun i => dieOf (s.coreOf i)
  let s1 := ids.zipIdx.foldl (fun (u : State) (i, r) => u.updTeam i fun t => { t with gang := some (gid, r) }) s
  { s1 with gangs := s1.gangs.put gid { members := ids, expected := ids.length * k.threads, oneDie := dies.all (· == dies.headD 0) } }

/-- Tell the twins apart: the primary is the one on the lower die, or the lower cluster (R435). -/
def State.formPair (s : State) (a b : Nat) : State :=
  let first := decide (clusterOf (s.coreOf a) < clusterOf (s.coreOf b))
  (s.updTeam a fun t => { t with twin := some (b, first) }).updTeam b fun t => { t with twin := some (a, !first) }

/-- The teams of a clump as they are to be placed, with their identifiers. The members of a NEAR gang go to the class that one of them has
requested, the others each to its own (R380). -/
def State.clumpTeams (s : State) (slot : Nat) (l : Launch) : Clump → List (Want × Nat × Team)
  | .fresh i n => (List.range (if l.k.paired then 2 else n)).map fun j =>
      (l.want slot, s.next + j, freshTeam slot l (if l.k.paired then i else i + j) (s.next + j))
  | .saved ids =>
    let one := ids.findSome? fun id => (s.saved.find? id).bind fun v => v.team.opreq
    ids.filterMap fun id => (s.saved.find? id).map fun v =>
      (l.wantSaved slot (if l.k.gclass = 1 then one else v.team.opreq) v, id, { v.team with order := s.next })

/-- Place a clump: the state with its teams at their cores, and who they are. -/
def State.placeClump (s : State) (slot : Nat) (l : Launch) (h : Reach) (c : Clump) : Option (State × List Nat) :=
  let ts := s.clumpTeams slot l c
  let s1 := { s with next := s.next + ts.length + 1 }
  let placed :=
    if l.k.gclass != 0 then s1.placeGang h l.k.gclass ts
    else if l.k.paired then s1.placeAll h (pairOk s l.part) [] ts
    else s1.placeAll h (fun _ _ _ => true) [] ts
  placed.map fun u => (u, ts.map fun x => x.2.1)

/-- Place the clumps of a unit one after another: those behind the first fill the cores that it has opened (R312). -/
def State.placeClumps (s : State) (slot : Nat) (l : Launch) (h : Reach) : List Clump → Option (State × List (Clump × List Nat))
  | [] => some (s, [])
  | c :: r => (s.placeClump slot l h c).bind fun (u, ids) =>
      (u.placeClumps slot l { h with near := h.near ++ ids.map u.coreOf, opens := false } r).map fun (v, x) => (v, (c, ids) :: x)

/-! ## Saved teams return (R88, R110, R116, R243, R375, R403) -/

/-- A saved group takes up the state it was saved in (R240); one that waits past an arrival with S = 1 still counts as stopped there
(R242). -/
def Group.restored (g : Group) (now : Nat) : Group :=
  let g1 : Group := { g with stopMask := none, stoppedAt := none, run := 0, readySince := now }
  if g.mode = .done then g1 else
  match g.wait with
  | .bar .. | .gbar .. => { g1 with mode := .barrier, stopMask := g.stopMask }
  | .barNext .. | .gbarNext .. | .stage .. | .muster .. | .twin => { g1 with mode := .barrier }
  | .regroup => { g1 with mode := .meeting }
  -- every other instruction that waited issues again and checks its wait anew
  | _ => { g1 with mode := .ready, wait := .none }

/-- An entry is sent again on the receiving core (R110): it is REPLAYING, and this sending is no replay that counts (log 75). -/
def LogEntry.resent (e : LogEntry) (now lease : Nat) : LogEntry :=
  let fill := if e.kind = .load then some lease else none
  { e with mode := if e.mode = .chained then .chained else .replaying,
           lanes := e.lanes.map fun x => if x.waiting then { x with stage := .sent, replay := 0, again := true, sent := now, fill := fill } else x }

/-- The tile operation behind a global TLD or TST of the log: its tile is in use until the entry is free (R326, R343). -/
def LogEntry.tileOps (id : Nat) (e : LogEntry) : List TileOp :=
  if e.isTile then [{ uid := e.uid, team := id, grp := e.grps.headD 0, work := .logged e.d (e.kind == .tst) }] else []

/-- Put entries into the lowest free places of a log. -/
def placeEntries (log : Sp LogEntry) : List LogEntry → Sp LogEntry
  | [] => log
  | e :: r => placeEntries (log.put (lowestFree log.keys) e) r

/-- A saved team runs again where it has been placed. -/
def State.revive (s : State) (id : Nat) (v : Saved) : State :=
  match s.teams.find? id with
  | none => s
  | some t =>
    let t1 := { t with mode := .running, opreq := none, forLaunch := none, started := s.time, burnNow := t.burn,
                       targets := none, settled := if t.targets.isSome then s.time + 10000000 else t.settled,
                       groups := t.groups.map fun ((k, g) : Nat × Group) => (k, g.restored s.time) }
    let s1 := (s.setTeam id t1).putBack t1 v
    let s2 := s1.updCore t1.core fun c => { c with
      log := placeEntries c.log (v.entries.map (·.resent s.time t1.leaseLen)), tileOps := c.tileOps ++ v.entries.flatMap (LogEntry.tileOps id) }
    { s2 with saved := s2.saved.erase id }

/-- The gang of restored teams: where its members stand now (R372). -/
def State.regang (s : State) (ids : List Nat) : State :=
  match (ids.head?.bind fun i => s.teams.find? i).bind (·.gang) with
  | none => s
  | some (g, _) =>
    let dies := ids.map fun i => dieOf (s.coreOf i)
    { s with gangs := s.gangs.adjust g fun x => { x with oneDie := dies.all (· == dies.headD 0) } }

/-- What a clump becomes once all of its unit stands: fresh teams a gang or a pair, saved teams running again. -/
def State.clumpStands (s : State) (slot : Nat) (l : Launch) : Clump × List Nat → State
  | (.fresh _ n, ids) =>
    let s1 := if l.k.gclass != 0 then ({ s with next := s.next + 1 } : State).formGang s.next l.k ids
      else match ids with | [a, b] => if l.k.paired then s.formPair a b else s | _ => s
    s1.updLaunch slot fun x => { x with next := x.next + n }
  | (.saved _, ids) =>
    let s1 := ids.foldl (fun (u : State) id => match s.saved.find? id with | some v => u.revive id v | none => u) s
    let s2 := match ids with | [a, b] => if l.k.paired then s1.formPair a b else s1 | _ => s1
    (s2.regang ids).updLaunch slot fun x => { x with requeued := x.requeued.filter fun i => !ids.contains i }

/-- Place as many clumps of a list as stand together, the first at least. -/
def State.placeSome (s : State) (slot : Nat) (l : Launch) (h : Reach) (cs : List Clump) : Option State :=
  (List.range cs.length).findSome? fun i => (s.placeClumps slot l h (cs.take (cs.length - i))).map fun (u, placed) =>
    placed.foldl (fun (v : State) p => v.clumpStands slot l p) u

/-! ## The front end's next grant (R394, R400) -/

/-- What the front end does next. -/
inductive DispatchGrant where
  /-- The first dispatch attempt of a launch, which ends in a refusal or finds no core yet (R113). -/
  | attempt (slot : Nat) (s : State)
  | start (slot : Nat) (s : State)
  | restore (slot : Nat) (first : Nat) (s : State)
deriving DecidableEq, Repr

/-- Launches with teams to place, in order of service. -/
def State.serving (s : State) : List (Nat × Launch) :=
  let l := s.launches.filter fun (_, l) => decide (l.next < l.hi) || !l.requeued.isEmpty
  inOrder (fun (a b : Nat × Launch) => decide (a.2.queue < b.2.queue) || (a.2.queue == b.2.queue && decide (a.2.order ≤ b.2.order))) l

/-- The running measurements of the power controller's interval `k`, up to now (R423). -/
def State.readings (s : State) (k : Nat) : List (Nat × Nat) := s.draws.filter fun p => p.1 / 1000000 == k && decide (p.1 ≤ s.time)
/-- The running measurement of an interval has not stayed below its bound for starts (R423). -/
def State.rose (s : State) (k last : Nat) : Bool :=
  decide (last > 0) && (s.readings k).any fun p => decide (4 * p.2 ≥ 4 * last + 3 * (s.io.power.limits.ramp * 1000))
def State.risesHeld (s : State) : Bool := s.rose (s.time / 1000000) s.io.power.last

/-- The controller holds team starts: of all partitions, or of one above its ceiling (R423, R424). -/
def State.startsHeld (s : State) (part : Nat) : Bool :=
  s.risesHeld || decide (s.io.power.level ≥ 1) || decide (s.io.power.levels.get 0 part ≥ 1)

/-- Place a unit of a launch. -/
def State.placeUnit (s : State) (slot : Nat) (l : Launch) : Option DispatchGrant :=
  if s.startsHeld l.part then none else
  let cs := s.unitOf slot l
  (s.placeSome slot l {} cs).map fun u => match cs with
    | .saved ids :: _ => .restore slot (ids.headD 0) (u.withdrawStops slot)
    | _ => .start slot (u.withdrawStops slot)

/-- A refused launch starts no team: each is listed REFUSED (R113, R395, R441). -/
def State.refuseLaunch (s : State) (slot code : Nat) : State :=
  (s.endLaunch slot 3 0).updLaunch slot fun l => { l with refused := some code, checked := true }

def State.nextGrant (s : State) : List (Nat × Launch) → Option DispatchGrant
  | [] => none
  | (slot, l) :: r =>
    if !l.checked then
      match l.k.refusal s l.part with
      | some code => some (.attempt slot (s.refuseLaunch slot code))
      | none =>
        let s1 := s.updLaunch slot fun x => { x with checked := true }
        match s1.placeUnit slot { l with checked := true } with
        | some g => some g
        | none => some (.attempt slot s1)
    else match s.placeUnit slot l with
      | some g => some g
      | none => s.nextGrant r

end Sys2Proof.Machine
end

