-- ==== Sys2Proof/Machine/Graph.lean ====
section
/-! DEFINITION. Task graphs (R396 to R399): edges with tokens and reserved slots, the firing of nodes, runs and reports. -/
namespace Sys2Proof.Machine
open Sys2Proof

/-! ## Nodes and edges (R396) -/

/-- The `i`-th 16-bit field of a node word. -/
def nodeField (w : W64) (i : Nat) : Nat := w.toNat / 2 ^ (16 * i) % 2 ^ 16
/-- Edges that the first `n` fields of a word name. -/
def nodeEdges (w : W64) (n : Nat) : List Nat := ((List.range n).map (nodeField w)).filter (· != 0xFFFF)

def nodeKind (n : List W64) : Nat := (n.getD 0 0).toNat / 2 ^ 62
def nodeAddr (n : List W64) : Nat := (n.getD 0 0).toNat % 2 ^ 57
def nodeInputs (n : List W64) : List Nat := nodeEdges (n.getD 1 0) (if nodeKind n = 2 then 2 else 4)
def nodeLimit (n : List W64) : Nat := (n.getD 1 0).toNat / 2 ^ 32
def nodeOut (n : List W64) (second : Bool) : List Nat := nodeEdges (n.getD (if second then 3 else 2) 0) 4
/-- Outputs that a node may push to. -/
def nodeOuts (n : List W64) : List Nat := if nodeKind n = 0 then nodeOut n false else nodeOut n false ++ nodeOut n true

/-- Records that R396 admits: a node of 32 bytes that names edges of its graph. -/
def nodeOk (edges : Nat) (n : List W64) : Bool :=
  n.length == 4 && nodeKind n != 3 && (n.getD 0 0).toNat / 2 ^ 57 % 32 == 0 && (nodeInputs n ++ nodeOut n false ++ nodeOut n true).all (decide <| · < edges) &&
    (nodeKind n != 0 || n.getD 3 0 == BitVec.ofNat 64 (2 ^ 64 - 1)) && (nodeKind n == 0 || nodeAddr n % 4 == 0)

def edgeOk (w : W64) : Bool :=
  let c := w.toNat % 256
  decide (1 ≤ c) && decide (c ≤ 64) && decide (w.toNat / 256 % 256 ≤ c) && decide (w.toNat / 65536 = 0)
def edgeOf (w : W64) : Edge := { cap := w.toNat % 256, tokens := w.toNat / 256 % 256 }

def Graph.edge (g : Graph) (e : Nat) : Edge := g.edges.getD e { cap := 0, tokens := 0 }
def Edge.free (e : Edge) : Nat := e.cap - e.tokens - e.reserved
def Graph.updEdge (g : Graph) (e : Nat) (f : Edge → Edge) : Graph := { g with edges := g.edges.modify e f }

def Graph.take (g : Graph) (l : List Nat) : Graph := l.foldl (fun g e => g.updEdge e fun x => { x with tokens := x.tokens - 1 }) g
def Graph.reserve (g : Graph) (l : List Nat) : Graph := l.foldl (fun g e => g.updEdge e fun x => { x with reserved := x.reserved + 1 }) g
def Graph.unreserve (g : Graph) (l : List Nat) : Graph := l.foldl (fun g e => g.updEdge e fun x => { x with reserved := x.reserved - 1 }) g
/-- A push into a reserved slot always succeeds (R397). -/
def Graph.fill (g : Graph) (l : List Nat) : Graph :=
  l.foldl (fun g e => g.updEdge e fun x => { x with reserved := x.reserved - 1, tokens := x.tokens + 1 }) g

/-- A node is ready (R397). -/
def Graph.ready (g : Graph) (n : List W64) : Bool :=
  let ins := nodeInputs n
  let outs := nodeOuts n
  ins.all (fun e => decide (ins.count e ≤ (g.edge e).tokens)) && outs.all fun e => decide (outs.count e ≤ (g.edge e).free)

/-- The lowest ready node. -/
def Graph.next (g : Graph) : Option Nat := (List.range g.nodes.length).find? fun i => g.ready (g.nodes.getD i [])

def Graph.fail (g : Graph) (node : Nat) : Graph := { g with failed := some (g.failed.getD node) }

/-! ## Reports (R398, R450) -/

def Graph.report (g : Graph) (id : Nat) : List W64 :=
  packWord [(id, 0), (g.failed.isSome.toNat, 8), (g.failed.getD 0, 16), (g.fired.length % 1024, 32)] ::
    g.fired.flatMap fun (n, st, l, it, t) => [packWord [(n, 0), (st % 256, 8), (l, 16), (it % 2 ^ 32, 32)], BitVec.ofNat 64 t]

/-- A run ends when no node is ready, no grid of the graph is running and no push is pending (R398). -/
def State.graphEnd (s : State) (id : Nat) : State :=
  match s.graphs.find? id with
  | none => s
  | some g =>
    if !g.running || g.pushing || g.next.isSome || s.launches.any (fun (_, l) => l.graph.any fun p => p.1 == id) then s else
    ({ s with graphs := s.graphs.put id { g with running := false, fired := [], iters := [], failed := none } } : State).notify 0x9005 g.ctx (g.report id)

/-! ## Firing (R397, R399) -/

/-- What the front end finds where it reads at the homes with a SYSTEM-scope acquire: the bytes, the cause that keeps them
away, records that must settle first, or a page that keeps the read at its home (R91, R183, R399). -/
inductive FrontRead where
  | bytes (s : State) (bs : List Byte)
  | error (cause : Nat)
  | settling (s : State)
  | wait
  | held (ia : Nat) (g : LaneStage)

def State.frontRead (s : State) (ctx va n size : Nat) : FrontRead :=
  let ws := (s.ctx ctx).windows
  match rmaCheck ws va n size permR with
  | .error (_, c) => .error c
  | .ok _ =>
    let l := rmaPieces ws va n (n / 256 + 2)
    match s.rmaBlocked false l with
    | some (_, .bad c) => .error c
    | some (ia, g) => .held ia g
    | none =>
      let lines := l.map fun (ia, _) => lineOf ia
      if lines.any fun k => (s.slice k).recs.any fun (d, q) => (q.now s d).asks then
        .settling (lines.foldl (fun (u : State) k => u.settle k allDies) s)
      else if lines.any fun k => !s.settledNow k then .wait
      else let (s1, bs) := s.rmaReadAll true l; .bytes s1 bs

/-- Note a firing: its status, launch slot, iteration and time (R397). -/
def Graph.note (g : Graph) (i st l it t : Nat) : Graph := { g with fired := g.fired ++ [(i, st, l, it, t)] }
/-- The tokens that node `i` takes, and the slots that it reserves, as it fires (R397). -/
def Graph.began (g : Graph) (i : Nat) : Graph := (g.take (nodeInputs (g.nodes.getD i []))).reserve (nodeOuts (g.nodes.getD i []))
/-- A graph after a step of its run, which may end the run. -/
def State.withGraph (s : State) (id : Nat) (x : Graph) : State := ({ s with graphs := s.graphs.put id x } : State).graphEnd id

/-- A node fails at its firing. -/
def State.nodeFails (s : State) (id : Nat) (g : Graph) (i st : Nat) : State :=
  s.withGraph id ((((g.began i).note i st 0 (g.iters.get 0 i) s.time).unreserve (nodeOuts (g.nodes.getD i []))).fail i)

/-- What a node reads cannot be read: a kernel's launch is refused, as LAUNCH refuses a packet that it cannot read, and a condition's
cause is reported (R381, R399; log 52). -/
def State.nodeUnread (s : State) (id : Nat) (g : Graph) (i cause : Nat) : State :=
  s.nodeFails id g i (if nodeKind (g.nodes.getD i []) = 0 then 4 else cause)

/-- A kernel node fires: its packet is parsed and its grid launched. -/
def State.kernelFires (s s1 : State) (id : Nat) (g : Graph) (i : Nat) (bs : List Byte) : State :=
  match parsePacket (bytesWords 32 bs) none with
  | none => s.nodeFails id g i 4
  | some p => match s1.accept g.ctx p none 0 (some (id, i)) with
    | none => s.nodeFails id g i 2
    | some (slot, s2) => s2.withGraph id ((g.began i).note i 0 slot 0 0)

/-- A conditional or a loop node fires: the word that it reads chooses its edge (R399). -/
def State.choiceFires (s1 : State) (id : Nat) (g : Graph) (i : Nat) (bs : List Byte) : State :=
  let n := g.nodes.getD i []
  let it := g.iters.get 0 i
  let spent := nodeKind n == 2 && nodeLimit n != 0 && decide (nodeLimit n ≤ it)
  let yes := leNat bs != 0 && !spent
  let it1 := if nodeKind n = 2 then (if yes then it + 1 else it) else 0
  let g2 := { (g.began i).note i 0 0 it1 s1.time with iters := if nodeKind n = 2 then g.iters.set 0 i (if yes then it1 else 0) else g.iters }
  s1.withGraph id ((g2.fill (nodeOut n (!yes))).unreserve (nodeOut n yes))

/-- What a node reads as it fires: a packet, or the word of a condition. -/
def State.nodeRead (s : State) (g : Graph) (i : Nat) : FrontRead :=
  let n := g.nodes.getD i []
  if nodeKind n = 0 then s.frontRead g.ctx (nodeAddr n) 256 256 else s.frontRead g.ctx (nodeAddr n) 4 4

/-- A node fires on the bytes that it has read. -/
def State.nodeFires (s s1 : State) (id : Nat) (g : Graph) (i : Nat) (bs : List Byte) : State :=
  if nodeKind (g.nodes.getD i []) = 0 then s.kernelFires s1 id g i bs else s1.choiceFires id g i bs

/-- A home holds the read of a node of this graph. -/
def State.nodeIsHeld (s : State) (id : Nat) : Bool := s.held.any fun (_, a) => match a with | .node g .. => g == id | _ => false

/-- The read of a node is held at the home of its page: behind a record, or until what keeps its page is over (R77, R82, R91). -/
def State.nodeHeld (s : State) (id : Nat) (g : Graph) (i ia : Nat) (why : LaneStage) : State :=
  let a : HeldAccess := .node id i ia s.time
  let s1 : State := { s with next := s.next + 1 }
  match why with
  | .resp lv wp peer => s1.holdAtHome s.next ia g.ctx lv wp peer 1 a
  | _ => s1.keep s.next a

/-- GRAPH_NODE_FIRE: the lowest ready node of a running graph fires, once the records of the lines it reads have settled; a read that
its home holds comes before the next firing. -/
def execGraphNodeFire (id : Nat) (s : State) : Out :=
  match s.graphs.find? id with
  | none => notNow "GRAPH_NODE_FIRE"
  | some g =>
    match (if g.running && !s.nodeIsHeld id then g.next else none) with
    | none => notNow "GRAPH_NODE_FIRE"
    | some i =>
      match s.nodeRead g i with
      | .error c => .next (s.nodeUnread id g i c)
      | .held ia why => .next (s.nodeHeld id g i ia why)
      | .wait => notNow "GRAPH_NODE_FIRE"
      | .settling s1 => .next s1
      | .bytes s1 bs => .next (s.nodeFires s1 id g i bs)

/-- The grid of a kernel node has ended: it pushes into its reserved slots, or fails (R397, R399). -/
def State.nodeEnded (s : State) (id node slot status : Nat) : State :=
  match s.graphs.find? id with
  | none => s
  | some g =>
    let n := g.nodes.getD node []
    let mark := fun (e : Nat × Nat × Nat × Nat × Nat) =>
      let (a, _, l, it, t) := e
      if a = node ∧ l = slot ∧ t = 0 then (a, status, l, it, s.time) else e
    let g1 := { g with fired := g.fired.map mark }
    let g2 := if status = 0 then g1.fill (nodeOut n false) else (g1.unreserve (nodeOut n false)).fail node
    ({ s with graphs := s.graphs.put id g2 } : State).graphEnd id

end Sys2Proof.Machine
end

