-- ==== Sys2Proof/Machine/Teams.lean ====
section
/-! DEFINITION. The life of teams and grids: dispatch (R400), start (R228), retirement and reports (R234, R441), pre-emption
(R242, R408, R409), save (R110, R197, R243) and restore. -/
namespace Sys2Proof.Machine
open Sys2Proof

/-! ## Dispatch (R394, R400) -/

/-- DISPATCH_REQUEST: a die asks for the next team, and the front end grants it; the first attempt of a launch that cannot fit
refuses it (R113). -/
def execDispatchRequest (die : Nat) (s : State) : Out :=
  match s.nextGrant s.serving with
  | some (.attempt _ s1) => if die < 8 then .next s1 else notNow "DISPATCH_REQUEST"
  | some (.start _ s1) => if s1.io.lastDie = some die then .next s1 else notNow "DISPATCH_REQUEST"
  | _ => notNow "DISPATCH_REQUEST"

/-- TEAM_RESTORE: the next grant returns saved teams to cores (R403); one that finds too few free log entries waits (R110). -/
def execTeamRestore (team core : Nat) (s : State) : Out :=
  match s.nextGrant s.serving with
  | some (.restore _ first s1) =>
    if first = team ∧ s1.coreOf team = core then .next s1 else notNow "TEAM_RESTORE"
  | _ => notNow "TEAM_RESTORE"

/-! ## Start (R117, R228, R322, R345) -/

/-- The groups of a team at its start. -/
def startGroups (k : Kernel) (time : Nat) : Sp Group :=
  (List.range (k.threads / k.width)).map fun g =>
    (g, { threads := (List.range k.width).map fun l => { tid := g * k.width + l, lane := l, pc := k.entry },
          role := k.roles.getD g .vector, pc := k.entry, readySince := time, since := time })

/-- The slices of a team are zero, every line present (R117). -/
def State.clearSlices (s : State) (t : Team) : State :=
  let c := s.core t.core
  let m1 := setCells s.mem (arrayAt t.core (c.scratchBase t.slice)) c.scratchBytes []
  let m2 := setCells m1 (arrayAt t.core (c.tensorBase t.slice)) c.tensorBytes []
  let mine := fun (line : Nat) =>
    overlaps (line * 256) 256 (c.scratchBase t.slice) c.scratchBytes || overlaps (line * 256) 256 (c.tensorBase t.slice) c.tensorBytes
  ({ s with mem := m2 } : State).updCore t.core fun c => { c with presence := c.presence.filter fun (k, _) => !mine k }

/-- One placed team starts. -/
def State.startTeam (s : State) (id : Nat) : State :=
  match s.teams.find? id with
  | none => s
  | some t =>
    let t1 := { t with mode := .running, groups := startGroups t.k s.time, started := s.time }
    let s1 := (s.setTeam id t1).clearSlices t1
    let s2 := s1.updCore t.core fun c =>
      { c with tiles := if t.k.plane then [] else c.tiles, codebooks := if t.k.plane then [] else c.codebooks,
               rings := if t.k.ring then [] else c.rings }
    if t.k.checkpoint || t.k.paired then
      { s2 with intervals := s2.intervals.put id { copies := [s2.snapshot t1 []] } }
    else s2

/-- The teams that start with a team: those of a `.regroup core` launch on one core (R312), the rest of its gang, and twins. -/
def State.startSet (s : State) (team : Nat) (t : Team) : List Nat :=
  if t.k.rcore then ((s.residents t.core).filter fun (_, u) => u.launch == t.launch && decide (u.mode = .placed)).flatMap fun (k, u) => s.companions k u
  else s.companions team t

/-- Every placed team of a list starts. -/
def State.startAll (s : State) (ids : List Nat) : State :=
  ids.foldl (fun (u : State) i => if (u.teams.find? i).any fun x => decide (x.mode = .placed) then u.startTeam i else u) s

/-- The pools of some teams' cores change their class (R400). -/
def State.poolsChanging (s : State) (ids : List Nat) : Bool := ids.any fun i => (s.cluster (clusterOf (s.coreOf i))).changing.isSome

/-- TEAM_START: a placed team is initialised, once a pool that changes its class has finished (R400). -/
def execTeamStart (team : Nat) (s : State) : Out :=
  match s.teams.find? team with
  | none => notNow "TEAM_START"
  | some t =>
    if t.mode != .placed || s.poolsChanging (s.startSet team t) then notNow "TEAM_START" else .next (s.startAll (s.startSet team t))

/-! ## Retirement (R234) -/

/-- Every thread of the team has exited. -/
def Team.exited (t : Team) : Bool := !t.groups.isEmpty && t.groups.all fun (_, g) => g.unexited.isEmpty

/-- A presence count above 0 in the team's slices (R125). -/
def State.busySlices (s : State) (t : Team) : Bool :=
  let c := s.core t.core
  c.presence.any fun (line, n) => n != 0 &&
    (overlaps (line * 256) 256 (c.scratchBase t.slice) c.scratchBytes || overlaps (line * 256) 256 (c.tensorBase t.slice) c.tensorBytes)

/-- A store is on its way from or to a scratchpad of the team. -/
def State.padComes (s : State) (id : Nat) : Bool := s.held.any fun p => match p.2 with | .pad t _ m _ _ => t == id || m == id | _ => false

/-- Nothing of the team is in flight (R234). -/
def State.quiet (s : State) (id : Nat) (t : Team) : Bool :=
  !((s.core t.core).log.any fun (_, e) => e.team == id) && !(s.ops.any fun (_, o) => o.team == id && !o.cls) && !s.busySlices t &&
    !s.padComes id

/-- A checkpointed team's last interval ends with the team: its stores are performed and its counts applied (R266, R431). -/
def State.lastInterval (s : State) (id : Nat) (t : Team) : State :=
  match s.intervals.find? id with
  | none => s
  | some iv =>
    let s1 := s.drainTeam id
    let s2 := if t.twin.any (fun x => !x.2) then s1 else s1.addCounts t.launch iv.counts
    { s2 with intervals := s2.intervals.erase id }

/-- A gang whose members are all gone is forgotten. -/
def State.pruneGang (s : State) (t : Team) : State :=
  match t.gang with
  | none => s
  | some (g, _) =>
    match s.gangs.find? g with
    | some gg => if gg.members.any fun m => (s.teams.find? m).isSome || (s.saved.find? m).isSome then s else { s with gangs := s.gangs.erase g }
    | none => s

/-- The completion times of a team's groups count toward the release of its grid (R186, R189). -/
def State.noteHorizon (s : State) (t : Team) : State :=
  s.updLaunch t.launch fun l => { l with horizon := t.groups.foldl (fun m (_, g) => max m g.horizon) l.horizon }

/-- The team's place is free, and nothing keeps its interval, its gang or its matrix state any longer: tile operations that it left
behind are dropped before another matrix team comes (R322). -/
def State.vacate (s : State) (id : Nat) (t : Team) : State :=
  let s1 := ((s.noteHorizon t).dropTiles t.core id).updCore t.core fun c => c.withdraw id
  (({ s1 with gangs := s1.gangs.erase (2 ^ 64 + id), intervals := s1.intervals.erase id } : State).leave id t).pruneGang t

/-- Every thread has exited and nothing of the team is in flight; a paired team's last interval has matched (R437). -/
def State.retires (s : State) (id : Nat) (t : Team) : Bool :=
  t.exited && s.quiet id t && !(t.k.paired && (s.intervals.find? id).isSome)

/-- TEAM_RETIRE (R234); a terminated team, whose record has been written, frees its core in the same way (R235, R240). -/
def execTeamRetire (team : Nat) (s : State) : Out :=
  match s.teams.find? team with
  | none => notNow "TEAM_RETIRE"
  | some t =>
    if t.mode = .stopped then
      if s.busySlices t then notNow "TEAM_RETIRE" else .next (s.vacate team t)
    else if !s.retires team t then notNow "TEAM_RETIRE"
    else
      let s1 := s.lastInterval team t
      .next ((s1.reportItem t 0 0).vacate team ((s1.teams.find? team).getD t))

/-! ## Grids (R189, R234, R441) -/

/-- The items of a report, two words each (R441). -/
def itemWords (i : Item) : List W64 :=
  [packWord [(i.team, 0), (i.status, 32), (i.code, 40), (i.rollbacks, 48), (i.mismatches, 56)], BitVec.ofNat 64 i.time]

/-- COMPLETION's body (R450): items by team index. -/
def completionBody (slot : Nat) (l : Launch) : List W64 :=
  let cs := l.counters.filter fun (_, v) => v != 0
  let items := inOrder (fun a b => decide (a.team ≤ b.team)) l.items
  [packWord [(slot, 0), (items.length, 32)], BitVec.ofNat 64 cs.length] ++
    cs.flatMap (fun (n, v) => [BitVec.ofNat 64 n, BitVec.ofNat 64 v]) ++ items.flatMap itemWords

/-- A SYSTEM-scope release by every die of a set, with its completion time (R186, R189). -/
def State.releaseDies (s : State) (dies : BitVec 8) : State × Nat :=
  (allDies.filter fun d => dies.getLsbD d && !(s.die d).failed).foldl (fun ((u, m) : State × Nat) d =>
    let (v, t) := u.drain d true; (v, max m t)) (s, 0)

/-- The release of a set of dies is complete: package time has passed its completion time, and every write-back that a home held
before `mark` for one of them has gone through (R177, R186). -/
def State.released (s : State) (dies : BitVec 8) (t mark : Nat) : Bool :=
  decide (t < s.time) && allDies.all fun d => !dies.getLsbD d || s.through d mark

/-- A grid has retired after its release: the report, and what waits for it (R189, R382, R393, R397). A launch that was refused is
reported under its status, which the header's status field carries (R395, R446; log 13). -/
def State.retireGrid (s : State) (slot : Nat) : State :=
  match s.launches.find? slot with
  | none => s
  | some l =>
    let status := if l.refused.isNone && l.items.all fun i => i.status == 0 then 0 else 1
    let s2 := ({ s with launches := s.launches.erase slot } : State).notify 0x9000 l.ctx (completionBody slot l) (BitVec.ofNat 16 (l.refused.getD 0))
    let s3 := match l.parent with
      | some (p, h) =>
        let u := (s2.updLaunch p fun x => { x with children := x.children - 1 }).updCtx l.ctx fun c => { c with grids := c.grids.put h (none, status) }
        u.wakeAll fun (g : Group) => decide (g.wait = Wait.grid h)
      | none => s2
    let s4 := s3.withdrawStops slot
    match l.graph with
    | some (g, n) => s4.nodeEnded g n slot (l.refused.getD status)
    | none => s4

/-- Every team of a launch's share and every child grid has retired, and no interrupt of it is still due. -/
def State.gridOver (s : State) (launch : Nat) (l : Launch) : Bool :=
  decide (l.hi ≤ l.next) && l.requeued.isEmpty && l.children == 0 && !(s.teams.any fun (_, t) => t.launch == launch) &&
    !(s.saved.any fun (_, v) => v.team.launch == launch) && !(s.io.irqs.any fun (k, _) => k == launch)

/-- The dies of a grid release, for its retired groups' horizons too; it retires at once where that is complete already (R186, R189). -/
def State.releaseGrid (s : State) (launch : Nat) (l : Launch) : State :=
  let (s1, t0) := s.releaseDies l.dies
  let t := max t0 l.horizon
  if s1.released l.dies t s1.next then s1.retireGrid launch else s1.updLaunch launch fun l => { l with releasing := some (t, s1.next) }

/-- GRID_RETIRE (R234): the dies release first, and the grid retires once the release is complete (R189). -/
def execGridRetire (launch : Nat) (s : State) : Out :=
  match s.launches.find? launch with
  | none => notNow "GRID_RETIRE"
  | some l =>
    if !s.gridOver launch l then notNow "GRID_RETIRE"
    else match l.releasing with
      | some (t, mark) => if s.released l.dies t mark then .next (s.retireGrid launch) else notNow "GRID_RETIRE"
      | none => .next (s.releaseGrid launch l)

/-! ## Pre-emption for placement (R408) -/

/-- Choices of `n` elements of a list, in its order. -/
def choices {α : Type} : Nat → List α → List (List α)
  | 0, _ => [[]]
  | _ + 1, [] => []
  | n + 1, a :: r => (choices n r).map (a :: ·) ++ choices (n + 1) r

/-- The queue of a team's launch. -/
def State.queueOf (s : State) (t : Team) : Nat := ((s.launches.find? t.launch).map (·.queue)).getD 0

/-- A running team that may be pre-empted for a launch of a queue (R408). -/
def State.below (s : State) (queue : Nat) (t : Team) : Bool := decide (s.queueOf t > queue) && decide (t.mode = .running)

/-- Teams of a core that may be pre-empted for a queue, lowest priority first and then the latest dispatched (R408). -/
def State.victims (s : State) (queue core : Nat) : List Nat :=
  let l := (s.residents core).filter fun (_, t) => s.below queue t
  (inOrder (fun a b => !lexLess [s.queueOf a.2, a.2.order] [s.queueOf b.2, b.2.order]) l).map (·.1)

/-- The package without some teams. -/
def State.without (s : State) (p : Nat → Team → Bool) : State := { s with teams := s.teams.filter fun (k, t) => !p k t }

/-- The teams that stop with those of a list: whole gangs and pairs (R408, R438). -/
def State.wholes (s : State) (l : List Nat) : List Nat :=
  (l.flatMap fun id => match s.teams.find? id with | some t => (s.companions id t).filter fun k => (s.teams.find? k).isSome | none => []).eraseDups

/-- How a choice of teams ranks: the fewest, then those of the lowest priority, then the latest dispatched (R408). -/
def State.rank (s : State) (l : List Nat) : Nat × List Nat :=
  let ts := inOrder (fun a b => !lexLess [a.1, a.2] [b.1, b.2]) (l.filterMap fun id => (s.teams.find? id).map fun t => (s.queueOf t, t.order))
  (l.length, ts.flatMap fun (q, o) => [q, o])
def betterRank (a b : Nat × List Nat) : Bool := decide (a.1 < b.1) || (a.1 == b.1 && lexLess b.2 a.2)

/-- The better of two choices for a core. -/
def State.better (s : State) (o : Option (Nat × List Nat)) (c : Nat × List Nat) : Option (Nat × List Nat) :=
  match o with
  | none => some c
  | some b => if betterRank (s.rank c.2) (s.rank b.2) then some c else o

/-- The best teams of a list whose removal, with all that stop with them, a test accepts. -/
def State.fewest (s : State) (core : Nat) (ok : List Nat → Bool) (l : List Nat) : Option (Nat × List Nat) :=
  (List.range l.length).foldl (fun o n =>
    if o.any fun b => decide (b.2.length ≤ n) then o
    else (((choices (n + 1) l).map s.wholes).filter ok).foldl (fun o w => s.better o (core, w)) o) none

/-- The core that the fewest pre-emptions make ready for a launch: it or its column takes the team then (R401). -/
def State.preemptFor (s : State) (w : Want) (queue : Nat) (within : Nat → Bool) : Option (Nat × List Nat) :=
  let cores := ((List.range 128).filter fun cl => within cl && s.clusterOpen w cl).flatMap fun cl => (List.range 16).map fun n => cl * 16 + n
  let ok := fun (c : Nat) (out : List Nat) =>
    let u := s.without fun k _ => out.contains k
    let col := u.columnTeams (columnOf c)
    u.coreTakes w c && u.columnFor w c && (col.isEmpty || col.any fun (_, t) => t.launch == w.launch)
  cores.foldl (fun (o : Option (Nat × List Nat)) c =>
    if (s.core c).heldFor.isSome then o else
    match s.fewest c (ok c) (s.victims queue c) with
    | none => o
    | some l => s.better o l) none

/-- The teams that stop for a launch are gone: what the cores held for it will take. -/
def State.cleared (s : State) (launch : Nat) : State := s.without fun _ t => t.forLaunch == some launch && t.mode.isStopping

/-- A launch may ask for pre-emption: its first attempt is over, it is not a TWILIGHT launch, its partition's starts are not
held, and the stops asked for already do not make room for its next unit. -/
def State.mayPreempt (s : State) (launch : Nat) (l : Launch) : Bool :=
  l.checked && l.queue != 8 && !s.startsHeld l.part && !(s.unitOf launch l).isEmpty && (s.placeUnit launch l).isNone &&
    ((s.cores.all fun (_, c) => c.heldFor != some launch) || ((s.cleared launch).placeSome launch l {} (s.unitOf launch l)).isNone)

/-- What the next unit of a launch asks of a core. -/
def State.wantOf (s : State) (launch : Nat) (l : Launch) : Want :=
  match (s.unitOf launch l).head?.map (s.clumpTeams launch l) with
  | some ((w, _, _) :: _) => w
  | _ => l.want launch

/-- Clusters in which room may be made for a launch: where a gang of one cluster or die could stand were every team below it gone, and
beside the cores already held for it; a gang of several dies on further dies, and twins on another cluster (R232, R402, R408). -/
def State.roomIn (s : State) (launch : Nat) (l : Launch) (cl : Nat) : Bool :=
  let held := (s.cores.filter fun (_, c) => c.heldFor == some launch).map fun (k, _) => clusterOf k
  let empty := s.without fun _ t => s.below l.queue t || (t.forLaunch == some launch && t.mode.isStopping)
  let fits := fun (within : Nat → Bool) => (empty.placeSome launch l { within := within } (s.unitOf launch l)).isSome
  if l.k.gclass = 1 then held.all (· == cl) && fits (· == cl)
  else if l.k.gclass = 2 then held.all (· / 16 == cl / 16) && fits (· / 16 == cl / 16)
  else if l.k.gclass = 3 then decide (l.k.gang > 8) || held.all fun c => c / 16 != cl / 16
  else !l.k.paired || held.all (· != cl)

/-- Teams are asked to stop for a launch, and a core is held for it (R409). -/
def State.preempt (s : State) (launch core : Nat) (ids : List Nat) : State :=
  (ids.foldl (fun (u : State) i => u.requestStop i (some launch)) s).updCore core fun c => { c with heldFor := some launch }

/-- PREEMPTION_REQUEST (R408): the next team of a launch waits, and fewer teams below it would leave it a core, which is
then held for it (R409). -/
def execPreemptionRequest (launch : Nat) (s : State) : Out :=
  match s.launches.find? launch with
  | none => notNow "PREEMPTION_REQUEST"
  | some l =>
    if !s.mayPreempt launch l then notNow "PREEMPTION_REQUEST" else
    match s.preemptFor (s.wantOf launch l) l.queue (s.roomIn launch l) with
    | some (core, ids) => .next (s.preempt launch core ids)
    | none => notNow "PREEMPTION_REQUEST"

/-! ## Stops (R242) -/

/-- The group has stopped: at a safe point, by force, at an arrival with S = 1, or because it is DONE. -/
def Group.hasStopped (g : Group) : Bool := g.mode == .saving || g.mode == .done || (g.mode == .barrier && g.stopMask.isSome)

/-- The cycles within which a team's groups stop by themselves. -/
def State.stopLimit (s : State) (t : Team) : Nat := if s.twilight t then 2 ^ 14 else 2 ^ 20

/-- Every group of a team that has not stopped stops at the instruction boundary where it is. -/
def State.forceStop (s : State) (team : Nat) (t : Team) : State :=
  let s1 := t.groups.foldl (fun (u : State) ((k, g) : Nat × Group) => if g.formed.isEmpty then u else u.dissolve { team := team, grp := k }) s
  let stop := fun ((k, g) : Nat × Group) => (k, if g.hasStopped then g else { g with mode := .saving, stoppedAt := some false, stopMask := none })
  ((s1.updTeam team fun t => { t with groups := t.groups.map stop }).withdrawMate team t.core).wakeLogs t.core

/-- FORCED_STOP: the limit has passed, and some group has not stopped. -/
def execForcedStop (team : Nat) (s : State) : Out :=
  match s.teams.find? team with
  | none => notNow "FORCED_STOP"
  | some t =>
    match t.mode with
    | .stopping since =>
      if cyclesOf (s.classOf t.core) (s.time - since) < s.stopLimit t || t.groups.all (fun (_, g) => g.hasStopped) then notNow "FORCED_STOP"
      else .next (s.forceStop team t)
    | _ => notNow "FORCED_STOP"

/-! ## Save (R48, R88, R110, R125, R172, R197, R243, R343) -/

/-- Words with no value of their own are free ones. -/
def freeWords (fresh lo hi : Nat) (m : Sp W32) : Sp W32 :=
  (List.range (hi - lo)).foldl (fun m i => Sp.set 0 m (lo + i) (Config.freeWord (fresh + i))) m

/-- A tag with no value of its own is still one that a register may carry (R247). -/
def freeTag (n : Nat) : Tag :=
  let ok := (List.range 1024).filter tagAllowed
  BitVec.ofNat 10 (ok.getD ((Config.freeWord n).toNat % ok.length) 0)

/-- A group as a stop at a safe point with this mask keeps it; `fresh` numbers its free values. -/
def Group.kept (g : Group) (k : Kernel) (m : Mask) (fresh : Nat) : Group :=
  let n := m.vec.toNat
  let live := fun (i : Nat) => m.lcs.getLsbD i
  let g1 := g.clearLatches
  { g1 with
    threads := g1.threads.map fun t => t.scramble (fresh + t.lane * k.v) n k.v,
    tags := (List.range (k.v - n)).foldl (fun (l : Sp Tag) i =>
      Sp.set tagB32 l (n + i) (freeTag (fresh + 8192 + i))) g1.tags,
    s := freeWords (fresh + 8320) m.uni.toNat k.s g1.s,
    levels := g1.levels.filter fun v => live v.ctr,
    lc := (List.range 3).foldl (fun (l : Sp Nat) i => if live i then l else Sp.set 0 l i (Config.freeWord (fresh + 8448 + i)).toNat) g1.lc,
    g := if m.grp then g1.g else [] }

/-- Free values of one group's save. -/
def groupFresh : Nat := 8451

/-- A group as its stop keeps it: all of it after a forced stop, and a DONE group as it is. -/
def Group.saved (g : Group) (k : Kernel) (fresh : Nat) : Group :=
  let g1 := match g.stopMask with
    | some m => if g.mode = GroupMode.done || g.stoppedAt = some false then g else g.kept k m fresh
    | none => g
  { g1 with mode := if g.mode = GroupMode.done then .done else .saving }

/-- The team items that stops keep: all after a forced stop; else what any group's stopping mask names. -/
def Team.masks (t : Team) : List Mask := t.groups.filterMap fun ((_, g) : Nat × Group) => if g.mode = GroupMode.done then none else g.stopMask
def Team.forced (t : Team) : Bool := t.groups.any fun ((_, g) : Nat × Group) => g.stoppedAt == some false

/-- A tile register whose content is not kept. -/
def freeTile (fresh : Nat) : Tile :=
  { data := (List.range 1024).foldl (fun (m : Sp Byte) i =>
      (leBytes 4 (Config.freeWord (fresh + i)).toNat).zipIdx.foldl (fun m (b, j) => Sp.set 0 m (4 * i + j) b) m) [],
    tag := freeTag (fresh + 1024), kc := 1 + (Config.freeWord (fresh + 1025)).toNat % 16 }

/-- A muster register that is not kept is unarmed (R328); the rest of it has no value of its own. -/
def freeMuster (fresh : Nat) : Muster :=
  { expected := 0, count := (Config.freeWord (fresh + 1)).toNat % 64,
    signers := (Config.freeWord (fresh + 2)) ++ (Config.freeWord (fresh + 3)), gen := (Config.freeWord (fresh + 4)).setWidth 8 }

/-- The copy of a stopped team: groups by their own masks, team items by their union. -/
def State.saveCopy (s : State) (t : Team) (entries : List LogEntry) : Saved × Nat :=
  let ms := t.masks
  let all := t.forced
  let nG := t.groups.length
  let groups := t.groups.zipIdx.map fun (((k, g), i) : (Nat × Group) × Nat) => (k, g.saved t.k (s.fresh + i * groupFresh))
  let f1 := s.fresh + nG * groupFresh
  let rings := ms.foldl (fun m x => max m x.sets.toNat) 0
  let musters := if all || ms.any (·.mus) then t.musters else (List.range 16).map fun i => (i, freeMuster (f1 + 5 * i))
  let f2 := f1 + 80
  let stage : BitVec 64 := if all then t.stage else t.stage &&& BitVec.ofNat 64 (2 ^ (8 * rings) - 1)
  let t1 := { t with groups := groups, musters := musters, stage := stage }
  let v := s.snapshot t1 entries
  let tiles := if all || !t.k.plane then v.tiles else
    (List.range 8).foldl (fun (m : Sp Tile) i => if ms.any (·.tiles.getLsbD i) then m else m.put i (freeTile (f2 + 1026 * i))) v.tiles
  ({ v with tiles := tiles }, f2 + 8 * 1026)

/-- A lane that does not hold up a save: it has been answered, or it has faulted, whether its fault is reported or its filter or stage has
no place for it (R99, R110). -/
def State.laneSettled (s : State) (core : Nat) (i : Nat) (e : LogEntry) (x : LogLane) : Bool :=
  !x.waiting || x.stage == .reported || match x.stage with
    | .resp .. => (s.responds { core := core, entry := i, lane := x.lane } e x).isNone
    | _ => false
/-- Entries that a save takes along: FAULTED and CHAINED ones (R110). -/
def State.entrySettled (s : State) (core i : Nat) (e : LogEntry) : Bool :=
  e.mode == .chained || (!e.lanes.isEmpty && e.lanes.all (s.laneSettled core i e))
/-- As the save keeps it. -/
def LogEntry.forSave (e : LogEntry) : LogEntry := if e.mode = .chained then e else { e with mode := .faulted }

/-- The log entries of a team on its core. -/
def State.entriesOf (s : State) (id core : Nat) : List LogEntry := ((s.core core).log.map (·.2)).filter fun e => e.team == id

/-- A team can be saved: every group has stopped and its other work has ended (R243). -/
def State.saveReady (s : State) (id : Nat) (t : Team) : Bool :=
  t.mode.isStopping && !t.exited && t.groups.all (fun (_, g) => g.hasStopped) && ((s.core t.core).log.all fun (i, e) => e.team != id || s.entrySettled t.core i e) &&
    !s.busySlices t && !(s.ops.any fun (_, o) => o.team == id && !o.cls) && !s.padComes id &&
    !((s.core t.core).tileOps.any fun o => o.team == id && (match o.work with | .logged .. => false | _ => true))

/-- The release fence at PACKAGE scope that precedes the save begins: every dirty byte of the die leaves for its home (R197). -/
def State.fenceSave (s : State) (team : Nat) (t : Team) : State :=
  let (s1, tc) := s.drain (dieOf t.core) false
  s1.updTeam team fun t => { t with saveFence := some (tc, s1.next) }

/-- That fence is complete: its completion time, and those of the team's own accesses, have passed, and every write-back that a home
held for the die before it has gone through (R177, R197). -/
def State.saveFenced (s : State) (t : Team) : Bool :=
  t.saveFence.any fun (tc, mark) =>
    decide (tc < s.time) && s.through (dieOf t.core) mark && t.groups.all fun (_, g) => decide (g.horizon < s.time)

/-- A team is saved and leaves its core (R243); it comes to the head of its launch's unstarted teams (R403). -/
def State.saveTeam (s : State) (team : Nat) (t : Team) : State :=
  let mine := s.entriesOf team t.core
  let t1 := { t with cycles := s.teamCycle t, started := s.time, mode := .saving, saveFence := none }
  let (v, fresh) := s.saveCopy t1 ((inOrder (fun a b => decide (a.uid ≤ b.uid)) mine).map (·.forSave))
  let s1 := { s with saved := s.saved.put team v, fresh := fresh }
  let s2 := s1.updCore t.core fun c =>
    refilter { c.withdraw team with log := c.log.filter fun (_, e) => e.team != team, tileOps := c.tileOps.filter fun o => o.team != team }
  let s3 := s2.dropWaiters fun w => match w with
    | .lanes core _ uid _ => core == t.core && mine.any fun e => e.uid == uid
    | .fetch g => g.team == team
    | _ => false
  ((s3.leave team t).wakeLogs t.core).updLaunch t.launch fun l => { l with requeued := team :: l.requeued }

/-- Those that are saved with a team (R232, R438): the residents of its gang or pair that have not exited, by rank. -/
def State.saveSet (s : State) (team : Nat) (t : Team) : List (Nat × Team) :=
  (s.companions team t).filterMap fun k => (s.teams.find? k).bind fun x => if x.exited then none else some (k, x)

/-- TEAM_SAVE_END (R243): the fence of the save, and the save once that is complete; a gang or a pair is saved as a whole (R232, R438). -/
def execTeamSaveEnd (team : Nat) (s : State) : Out :=
  match s.teams.find? team with
  | none => notNow "TEAM_SAVE_END"
  | some t =>
    let all := s.saveSet team t
    if !s.saveReady team t || !(all.all fun p => s.saveReady p.1 p.2) then notNow "TEAM_SAVE_END"
    else if all.any fun p => p.2.saveFence.isNone then
      .next (all.foldl (fun (u : State) p => if p.2.saveFence.isNone then u.fenceSave p.1 p.2 else u) s)
    else if all.all fun p => s.saveFenced p.2 then .next (all.reverse.foldl (fun (u : State) p => u.saveTeam p.1 p.2) s)
    else notNow "TEAM_SAVE_END"

end Sys2Proof.Machine
end

