-- ==== Sys2Proof/Machine/Power.lean ====
section
/-! DEFINITION. Stacked current and package power (R404, R411 to R427): the estimator's windows, classes of pools, the
limits of the power controller, arrival skew, hot spots and telemetry. -/
namespace Sys2Proof.Machine
open Sys2Proof

/-! ## Windows of the estimator (R412 to R420) -/

/-- The end of the next window of a cluster: 256 cycles of its clock after the last, since that clock began (R412). -/
def Cluster.windowEnd (c : Cluster) : Nat := c.base + nsAt c.cls (256 * (c.windows + 1))

def zoneCode : Zone → Nat
  | .day => 0
  | .dusk => 1
  | .midnight => 2

/-- The word of CURR and EST_CUR (R378). -/
def currWord (z : Zone) (d : Int) (cur : Nat) : W32 :=
  BitVec.ofNat 32 (zoneCode z * 2 ^ 28 + ((max (-2047) (min 2047 d)) % 4096).toNat * 2 ^ 16 + min cur 4095)

/-- Shunt ceu that a core's teams hold in the window that ends (R420). -/
def State.shuntOf (s : State) (core : Nat) : Nat :=
  (((s.column (columnOf core)).grants.filter fun g => !g.pending && ((s.teams.find? g.team).any fun t => t.core == core)).map (·.ceu)).sum

/-- CUR of a core (R412): 0 with no resident team; the burn level is the largest of those of its teams (R377), and the auto level counts
while one of them asks for it (R418). -/
def State.windowCur (s : State) (core : Nat) : Nat :=
  let e := (s.core core).est
  let ts := s.residents core
  let burn := ts.foldl (fun m (_, t) => max m t.burnNow) 0
  let auto_ := if ts.any fun (_, t) => t.k.autoburn then e.auto_ else 0
  if ts.isEmpty then 0 else 16 + e.sw / 256 + max (max burn auto_) (min 4079 (e.ballast + e.ctlBallast)) + s.shuntOf core

/-- Counters, zone and what follows from them for a core in R (R415, R416, R418). -/
def Estimator.next (e : Estimator) (cur : Nat) (d : Int) (autoburn : Bool) : Estimator :=
  let a := d.natAbs
  let dusk := if a ≥ 32 then min 255 (e.dusk + 1) else 0
  let mid := if a ≥ 64 then min 255 (e.mid + 1) else 0
  let calm := if a < 24 then min 255 (e.calm + 1) else 0
  let zone := if mid ≥ 4 then .midnight else match e.zone with
    | .day => if dusk ≥ 4 then .dusk else .day
    | .dusk => if calm ≥ 8 then .day else .dusk
    | .midnight => .midnight
  let auto_ := if !autoburn then 0 else match zone with
    | .dusk => (min 255 (max 0 ((e.auto_ : Int) - d))).toNat
    | .day => 0
    | .midnight => e.auto_
  { e with cur := cur, dev := d, zone := zone, dusk := dusk, mid := mid, calm := calm, auto_ := auto_, throttled := zone == .dusk && decide (d > 0) }

/-- A core of an idle column, or outside R (R414). -/
def Estimator.outside (e : Estimator) (cur regulator : Nat) : Estimator :=
  { e with cur := cur, dev := 0, zone := .day, dusk := 0, mid := 0, calm := 0, auto_ := 0, ballast := 0, held := 0, regulator := regulator, throttled := false }

/-- Groups that wait in BARRIER or PARKED on GWAIT (R419). -/
def Team.atRest (t : Team) : Bool :=
  t.groups.all fun ((_, g) : Nat × Group) => g.mode == GroupMode.done || g.mode == GroupMode.barrier ||
    (g.mode == GroupMode.parked && match g.wait with | .grid _ => true | _ => false)

/-- A team that is being saved (R242, R419). -/
def Team.inSave (t : Team) : Bool := t.mode.isStopping && t.groups.all fun ((_, g) : Nat × Group) => g.hasStopped

/-- Some group's wait has begun after a time. -/
def Team.waitsSince (t : Team) (time : Nat) : Bool := t.groups.any fun ((_, g) : Nat × Group) => g.mode != .done && decide (g.since > time)

/-- Hardware ballast of the next window at the target of the one that ends (R419); `anew` tells that a group has left its wait since the
last window ended. -/
def Estimator.rest (e : Estimator) (target : Nat) (saving waits anew : Bool) : Estimator :=
  let n := if waits then (if anew then 1 else e.held + 1) else 0
  { e with held := n, ballast := if saving || (waits && decide (n ≤ 256)) then min 4079 (target - 16 - e.sw / 256) else 0 }

/-- A cap or a partition's ceiling throttles the core (R424). -/
def State.capThrottles (s : State) (core : Nat) : Bool :=
  decide (s.io.power.level ≥ 3) || decide (s.io.power.levels.get 0 (s.cluster (clusterOf core)).part ≥ 3)

/-- The end of a window for one core: `target` is its column's. -/
def State.windowCore (s : State) (core target : Nat) (idle : Bool) : State :=
  let ts := s.residents core
  let cur := s.windowCur core
  let e := (s.core core).est
  let d : Int := (cur : Int) - target
  let auto_ := ts.any fun (_, t) => t.k.autoburn
  let anew := ts.any fun (_, t) => t.waitsSince (s.cluster (clusterOf core)).sampled
  -- the cores of a retired column are held at 16 ceu (R442)
  let e1 := if ts.isEmpty then e.outside cur (if s.colRetired (columnOf core) then 16 else if idle then 0 else target)
    else ((e.next cur d auto_).rest target (ts.any fun (_, t) => t.inSave) (ts.all fun (_, t) => t.atRest) anew)
  s.updCore core fun c => { c with estWord := currWord e1.zone e1.dev e1.cur, est := { e1 with
    sw := 0, regulator := if ts.isEmpty then e1.regulator else 0, throttled := e1.throttled || s.capThrottles core } }

/-- Grants of a column after a window: those in force have one window less, those that waited begin (R379, R420). -/
def Column.windowGrants (c : Column) : Column :=
  let step := fun (g : Grant) => if g.pending then some { g with pending := false } else if g.left ≤ 1 then none else some { g with left := g.left - 1 }
  { c with budget := min 65536 (c.budget + 64), grants := c.grants.filterMap step }

def columnCores (col : Nat) : List Nat := (List.range 4).map fun l => col / 4 * 16 + l * 4 + col % 4

/-- The core of a column that traps: of those in midnight the one with the largest deviation, a tie to the lower layer
(R417). -/
def State.midnight (s : State) (col : Nat) : Option Nat :=
  (columnCores col).foldl (fun (o : Option Nat) c =>
    if (s.core c).est.zone != .midnight then o else
    match o with
    | none => some c
    | some b => if (s.core c).est.dev.natAbs > (s.core b).est.dev.natAbs then some c else some b) none

/-- CURRENT_MIDNIGHT on every team resident on a core (R417); the trap ends each one's launch (R385). -/
def State.trapMidnight (s : State) (core : Nat) : State :=
  let w := (s.core core).estWord.toNat
  let clear := fun (c : Core) => { c with est := { c.est with zone := .day, dusk := 0, mid := 0, calm := 0, auto_ := 0, throttled := s.capThrottles core } }
  (s.residents core).foldl (fun (u : State) ((id, t) : Nat × Team) =>
    if (u.teams.find? id).all fun x => decide (x.mode = .stopped) then u else
    let (slot, _) := lowestGroup t
    let mates := ((u.residents core).filter fun (k, x) => k != id && x.launch == t.launch && !decide (x.mode = .stopped)).map (·.1)
    let v := u.raiseTrap { team := id, grp := slot } { tCurrentMidnight w with also := mates }
    { v with io := { v.io with power := { v.io.power with mids := v.io.power.mids + 1 + mates.length } } }) (s.updCore core clear)

/-- One column at the end of a window (R414 to R420). -/
def State.windowColumn (s : State) (col : Nat) : State :=
  let cores := columnCores col
  let R := cores.filter fun c => !(s.residents c).isEmpty
  let target := if R.isEmpty then 0 else (R.map s.windowCur).sum / R.length
  let s1 := cores.foldl (fun (u : State) c => u.windowCore c target R.isEmpty) s
  let s2 := s1.updColumn col fun c => { c.windowGrants with target := target }
  match s2.midnight col with
  | some c => s2.trapMidnight c
  | none => s2

/-- Every team of a cluster outside the TWILIGHT queue waits, and there is one (R404). -/
def State.allWait (s : State) (cl : Nat) : Bool :=
  let mine := (s.clusterTeams cl).filter fun (_, t) => !s.twilight t
  !mine.isEmpty && mine.all fun (_, t) => t.waits

/-- A cluster that stops waiting sends the TWILIGHT teams away that came because it waited (R404). -/
def State.stopsWaiting (s : State) (cl : Nat) : State :=
  let s1 := s.updCluster cl fun c => { c with waitRun := 0 }
  if (s.cluster cl).waitRun < 4 then s1
  else ((s.clusterTeams cl).filter fun (_, t) => t.onWaiting).foldl (fun (u : State) ((id, _) : Nat × Team) => u.requestStop id none) s1

/-- The waiting state of a cluster at the end of a window (R404). -/
def State.windowWaits (s : State) (cl : Nat) : State :=
  if s.allWait cl then s.updCluster cl fun c => { c with waitRun := c.waitRun + 1 } else s.stopsWaiting cl

/-- A group of a cluster outside the TWILIGHT queue has left its wait since the last window ended, whether or not it waits again. -/
def State.leftWait (s : State) (cl : Nat) : Bool :=
  !s.allWait cl || (s.clusterTeams cl).any fun (_, t) => !s.twilight t && t.waitsSince (s.cluster cl).sampled

/-- Some cluster has stopped waiting since its last window ended (R404). -/
def State.waitOver (s : State) : Option State :=
  s.clusters.findSome? fun (cl, c) => if decide (c.waitRun ≥ 4) && s.leftWait cl then some (s.stopsWaiting cl) else none

/-- A window ends for the columns of a cluster, and its waiting state with it (R414, R404); the pass cycles of the window are weighed
in it (R320, R413). -/
def State.windowDone (s : State) (cluster : Nat) : State :=
  let s0 := ((List.range 16).map fun i => cluster * 16 + i).foldl (fun (u : State) core => u.chargePasses core) s
  let s1 := ((List.range 4).map fun i => cluster * 4 + i).foldl (fun (u : State) col => u.windowColumn col) s0
  -- the level of BURN governs from the next window on (R377)
  let burns := fun ((k, x) : Nat × Team) => (k, if clusterOf x.core == cluster then { x with burnNow := x.burn } else x)
  (({ s1 with teams := s1.teams.map burns } : State).windowWaits cluster).updCluster cluster fun c =>
    { c with windows := c.windows + 1, sampled := s.time }

/-- ESTIMATOR_WINDOW_END (R412): a window of the cluster's clock has passed. -/
def execEstimatorWindowEnd (cluster : Nat) (s : State) : Out :=
  let c := s.cluster cluster
  if cluster ≥ 128 || s.io.dawn != 0x80 || c.changing.isSome || s.time < c.windowEnd then notNow "ESTIMATOR_WINDOW_END"
  else .next (s.windowDone cluster)

/-- The pool runs its new class; its windows begin with the new clock (R412), and cycles counted at the old one are kept (R368). -/
def State.classChanged (s : State) (cluster cls : Nat) : State :=
  let fold := fun ((k, x) : Nat × Team) => (k, if clusterOf x.core == cluster then
    { x with cycles := s.teamCycle x, started := s.time } else x)
  let clear := fun (c : Core) => { c with est := { c.est with sw := 0 }, last := none, special := 0 }
  let s1 := ((List.range 16).map fun i => cluster * 16 + i).foldl (fun (u : State) k => u.updCore k clear) { s with teams := s.teams.map fold }
  s1.updCluster cluster fun c => { c with cls := cls, changing := none, base := s.time, windows := 0, waitRun := 0, sampled := s.time }

/-- CLASS_CHANGE_END (R421). -/
def execClassChangeEnd (cluster : Nat) (s : State) : Out :=
  match (s.cluster cluster).changing with
  | none => notNow "CLASS_CHANGE_END"
  | some (t, cls) =>
    if s.time < t then notNow "CLASS_CHANGE_END" else .next (s.classChanged cluster cls)

/-! ## Package power (R422 to R424, R427) -/

/-- Ask for a step of a pool's class by one at its next team boundary; a thermal or a skew step is noted (R427). -/
def State.stepDown (s : State) (cl : Nat) (noted : Bool := false) : State :=
  let c := s.cluster cl
  if c.target ≥ 3 || c.stepTo.isSome then s else (s.setCluster cl { c with stepTo := some (c.target + 1), stepNoted := noted }).clusterBoundary cl

/-- The clusters of a partition. -/
def State.partClusters (s : State) (part : Nat) : List Nat :=
  (List.range 128).filter fun c => (s.cluster c).part == part && (s.cluster c).phys.isSome

/-- A partition's draw in mW: of each die the share of its clusters (log 30). -/
def State.partDraw (s : State) (m : Measure) (part : Nat) : Nat :=
  ((s.partClusters part).map fun c => m.dies.getD (c / 16) 0 * 100).sum / 16

def Power.effectiveCap (p : Power) : Nat := min 4800 (p.limits.cap + p.borrowed)

/-- One step of R424 for clusters whose draw is over a limit, or none where it is within. -/
def nextLevel (level : Nat) (high : Bool) : Nat := if high then min 3 (level + 1) else 0

/-- The classes step when a limit's second step is taken. -/
def State.enforce (s : State) (old new : Nat) (cls : List Nat) : State :=
  if new = 2 ∧ old < 2 then cls.foldl (fun (u : State) c => u.stepDown c) s else s

/-- Cores of every non-idle column of some clusters. -/
def State.busyCores (s : State) (cls : List Nat) : List Nat :=
  (cls.flatMap fun c => (List.range 16).map fun i => c * 16 + i).filter fun k => !(s.columnTeams (columnOf k)).isEmpty

/-- Controller ballast of every core of the columns given (R423): how much of it brings the draw to its bound is not in the manual (log 30). -/
def State.holdUp (s : State) (cores : List Nat) (ceu : Nat) : State :=
  { s with cores := s.cores.map fun ((k, c) : Nat × Core) => (k, { c with est := { c.est with ctlBallast := if cores.contains k then ceu else 0 } }) }

/-- The telemetry frame (R427) of the interval that ends at `time`. -/
def State.frame (s : State) (time : Nat) (m : Measure) (p : Power) (prev rstate : Nat) : List W64 :=
  let at_ := fun (l : List Nat) (i : Nat) => l.getD i 0 % 65536
  let die := fun (i : Nat) => (at_ m.dies i, 16 * (i % 4))
  let high := (prev / 1000 + p.limits.ramp) % 65536
  let low := (prev / 1000 - p.limits.ramp) % 65536
  let lent := ((p.lent : Int) - p.borrowed) % 65536
  let dusk := (s.cores.filter fun ((_, c) : Nat × Core) => c.est.zone == .dusk).length
  [BitVec.ofNat 64 time, packWord [(p.seq % 2 ^ 32, 0), (m.pkg % 2 ^ 32, 32)], packWord ((List.range 4).map die),
   packWord ((List.range 4).map fun i => die (i + 4)), packWord [(at_ m.parts 0, 48), (at_ m.parts 1, 32), (at_ m.parts 2, 16), (at_ m.parts 3, 0)],
   packWord [(p.limits.ramp, 48), (high, 32), (low, 16), (rstate, 0)],
   packWord [(p.effectiveCap, 48), (p.idle / 1000 % 65536, 32), (lent.toNat, 16), (dusk, 0)],
   packWord [(min 65535 p.mids, 48), (min 65535 p.steps, 32)]]

/-- An interval of the power controller ends, on what it has measured: its limits, its ballast and its frame. -/
def State.powerInterval (s : State) (m : Measure) : State :=
  let now := s.time / 1000000
  let p := s.io.power
  let limit := p.limits.ramp * 1000
  let high := decide (m.pkg > p.effectiveCap * 1000)
  let level := nextLevel p.level high
  let parts := List.range 8
  let levels := parts.foldl (fun (l : Sp Nat) i =>
    Sp.set 0 l i (nextLevel (p.levels.get 0 i) (decide (s.partDraw m i > p.limits.ceilings.getD i 4800 * 1000)))) []
  -- the ramp limiter yields to the cap, and so does every floor
  let falls := !high && (decide (m.pkg + limit < p.last) || (s.readings (now - 1)).any fun r => decide (r.2 + limit < p.last))
  let low := parts.filter fun i => !high && decide (s.partDraw m i < p.limits.floors.getD i 0 * 1000)
  let rstate := if high then 3 else if falls then 2 else if s.rose (now - 1) p.last then 1 else 0
  let idle := if s.teams.isEmpty then m.pkg else p.idle
  let p1 : Power := { p with last := m.pkg, idle := idle, seq := p.seq + 1, level := level, levels := levels, mark := now }
  let s1 := { s with io := { s.io with power := { p1 with mids := 0, steps := 0 } } }
  let s2 := s1.enforce p.level level ((List.range 128).filter fun c => (s.cluster c).phys.isSome)
  let s3 := parts.foldl (fun (u : State) i => u.enforce (p.levels.get 0 i) (levels.get 0 i) (s.partClusters i)) s2
  -- the bound has moved; a partition below its floor is held up over the interval to come
  let held := s3.busyCores (low.flatMap s.partClusters)
  let s4 := { s3.holdUp held ((Config.freeWord s3.fresh).toNat % 256) with fresh := s3.fresh + 1 }
  s4.notify 0x9006 0 (s4.frame (now * 1000000) m p1 p.last rstate)

/-- The fall actions of R423: the running measurement has fallen below its bound. TWILIGHT work that can be dispatched comes first, and
then every core of every non-idle column takes ballast. -/
def State.powerFall (s : State) : Option State :=
  let p := s.io.power
  match (s.readings (s.time / 1000000)).getLast? with
  | none => none
  | some (t, d) =>
    if t ≤ p.fallAt || decide (p.level ≥ 1) || decide (d + p.limits.ramp * 1000 ≥ p.last) || (s.nextGrant s.serving).isSome then none else
    some { s.holdUp (s.busyCores (List.range 128)) ((Config.freeWord s.fresh).toNat % 256) with
      fresh := s.fresh + 1, io := { s.io with power := { p with fallAt := t } } }

/-- POWER_INTERVAL_END (R422 to R424, R427): a millisecond of package time has passed. -/
def execPowerIntervalEnd (m : Measure) (s : State) : Out :=
  if s.io.dawn != 0x80 || s.time / 1000000 ≤ s.io.power.mark then notNow "POWER_INTERVAL_END" else .next (s.powerInterval m)

/-! ## Arrival skew (R425, R451) -/

/-- Peers of a skew group, by endpoint. -/
def State.groupPeers (s : State) (g : Nat) : List Nat :=
  (s.io.peers.filter fun (_, q) => q.1.getLsbD 63 && peerGroup q == g).map fun (_, q) => (q.1 &&& 0xFFFFFFFFFFFF).toNat

/-- The device was earlier than the latest peer by more than the threshold: its launch's pools step down, and it lends the
power saved. -/
def State.lend (s : State) (launch peer saved : Nat) : State :=
  let cls := ((s.teams.filter fun (_, t) => t.launch == launch).map fun (_, t) => clusterOf t.core).eraseDups
  let s1 := cls.foldl (fun (u : State) c =>
    let x := u.cluster c
    if x.target ≥ 3 || x.stepTo.isSome then u
    else (u.setCluster c { x with skewFrom := some (x.skewFrom.getD x.target) }).stepDown c true) s
  { s1 with io := { s1.io with power := { s1.io.power with lent := s1.io.power.lent + saved } },
            net := s1.net ++ [NetOut.budget (BitVec.ofNat 64 peer) saved] }

/-- A peer's arrival for a numbered collective of a group joins those before it. Once every peer of the group has reported,
the latest is compared with this device's own; `saved` is the measured drop that a step would bring, in W. -/
def State.arrivalNoted (s : State) (peer grp number time saved : Nat) : State :=
  let p := s.io.power
  let peers := s.groupPeers grp
  let (n, t, e, l) := p.reports.get (0, 0, 0, []) grp
  if number < n then s else
  let r : Nat × Nat × Nat × List Nat :=
    if n = number then (n, if time > t then time else t, if time > t then peer else e, if l.contains peer then l else peer :: l)
    else (number, time, peer, [peer])
  let s1 := { s with io := { s.io with power := { p with reports := p.reports.put grp r } } }
  let done := peers.all fun x => r.2.2.2.contains x
  match p.arrivals.find? grp with
  | some (k, own, launch) =>
    if k = number ∧ done ∧ !(n = number ∧ peers.all fun x => l.contains x) ∧ p.limits.skew > 0 ∧ own + p.limits.skew < r.2.1 then
      s1.lend launch r.2.2.1 saved
    else s1
  | none => s1

/-- ARRIVAL_REPORT (R425). -/
def execArrivalReport (peer grp number time saved : Nat) (s : State) : Out :=
  if s.io.dawn != 0x80 || grp = 0 || grp > 7 || !(s.groupPeers grp).contains peer then notNow "ARRIVAL_REPORT"
  else .next (s.arrivalNoted peer grp number time saved)

/-- BUDGET_MESSAGE (R425): lent power raises the effective cap. -/
def execBudgetMessage (watts : Nat) (s : State) : Out :=
  if s.io.dawn != 0x80 then notNow "BUDGET_MESSAGE" else
  .next { s with io := { s.io with power := { s.io.power with borrowed := s.io.power.borrowed + watts } } }

/-! ## Hot spots (R426) -/

/-- Clusters to which the teams of a hot cluster may move. -/
def State.coolerThan (s : State) (cl : Nat) (temps : List Nat) : List Nat :=
  let c := s.cluster cl
  (List.range 128).filter fun k =>
    let x := s.cluster k
    k != cl && x.part == c.part && x.phys.isSome && x.cls == c.cls && x.changing.isNone && x.stepTo.isNone && !s.moving k &&
      x.remap.isNone && !(s.die (k / 16)).failed && decide (temps.getD k 0 + 5 ≤ temps.getD cl 0)

/-- A team may migrate: it runs, and so does all that moves with it, none of which has migrated within 10 ms (R426). -/
def State.mayMove (s : State) (id : Nat) (t : Team) : Bool :=
  (s.companions id t).all fun k => (s.teams.find? k).all fun x => x.exited || (decide (x.mode = .running) && decide (x.settled ≤ s.time))

/-- A team and all that moves with it stop to migrate; the targets are those of the teams of the hot cluster. -/
def State.migrates (s : State) (cluster : Nat) (targets : List Nat) (id : Nat) (t : Team) : State :=
  ((s.companions id t).foldl (fun (u : State) k => u.updTeam k fun x =>
    { x with targets := some (if clusterOf x.core = cluster then targets else []) }) s).requestStop id none

/-- A hot cluster's teams move, or its class steps down where no target exists. -/
def State.cooled (s : State) (cluster : Nat) (temps : List Nat) : State :=
  let c := s.cluster cluster
  let targets := s.coolerThan cluster temps
  if targets.isEmpty then
    if c.target ≥ 3 || c.stepTo.isSome then s
    else (s.setCluster cluster { c with thermalFrom := some (c.thermalFrom.getD c.target) }).stepDown cluster true
  else
    (s.clusterTeams cluster).foldl (fun (u : State) ((id, t) : Nat × Team) =>
      if (u.teams.find? id).any fun x => u.mayMove id x then u.migrates cluster targets id t else u) s

/-- HOT_SPOT_MIGRATION: a cluster has stood above its threshold for 1 ms, the clusters' temperatures being `temps`. -/
def execHotSpotMigration (cluster : Nat) (temps : List Nat) (s : State) : Out :=
  if s.io.dawn != 0x80 || cluster ≥ 128 || temps.getD cluster 0 ≤ (s.cluster cluster).hot then notNow "HOT_SPOT_MIGRATION"
  else .next (s.cooled cluster temps)

/-- A thermal step is taken back, and forgotten once the class is where it was. -/
def State.steppedUp (s : State) (cluster from_ : Nat) : State :=
  let c := s.cluster cluster
  if c.target ≤ from_ then s.setCluster cluster { c with thermalFrom := none }
  else (s.setCluster cluster
    { c with stepTo := some (c.target - 1), thermalFrom := if c.target - 1 ≤ from_ then none else some from_ }).clusterBoundary cluster

/-- HOT_SPOT_STEP_UP: the cluster has stayed 10 °C below its threshold for 100 ms. -/
def execHotSpotStepUp (cluster : Nat) (s : State) : Out :=
  match (s.cluster cluster).thermalFrom with
  | none => notNow "HOT_SPOT_STEP_UP"
  | some n => if (s.cluster cluster).stepTo.isSome then notNow "HOT_SPOT_STEP_UP" else .next (s.steppedUp cluster n)

end Sys2Proof.Machine
end

