-- ==== Sys2Proof/Machine/Contain.lean ====
section
/-! DEFINITION. Containment (R141 to R143, R268, R428 to R443): counts of errors and their interrupts, scrub, the signatures
of paired teams, failures of dies and cores, retired ports. -/
namespace Sys2Proof.Machine
open Sys2Proof

/-! ## Interrupts (R268, R428) -/

/-- The interrupt message of a counter, one for each time that a threshold was reached (R268, R450). -/
def State.sendIrq (s : State) (launch counter : Nat) : State :=
  let v := match s.launches.find? launch with | some l => l.counters.get 0 counter | none => 0
  let ctx := match s.launches.find? launch with | some l => l.ctx | none => 0
  (s.updIo fun io => { io with irqs := io.irqs.erase (launch, counter) }).notify 0x9002 ctx
    [packWord [(launch, 0), (counter, 16)], BitVec.ofNat 64 v, BitVec.ofNat 64 s.time]

/-- COUNTER_IRQ (R268). -/
def execCounterIrq (launch counter : Nat) (s : State) : Out :=
  if s.io.irqs.contains (launch, counter) then .next (s.sendIrq launch counter) else notNow "COUNTER_IRQ"

/-- A unit's count has reached a threshold that has not fired (R428). -/
def Io.errDue (io : Io) (unit : Nat) : Bool :=
  decide (io.errThr.get 0 unit > 0) && decide (io.errThr.get 0 unit ≤ io.errors.get 0 unit) && !io.errFired.contains unit

/-- ERROR_IRQ (R428). -/
def execErrorIrq (unit : Nat) (s : State) : Out :=
  if unit < 17 ∧ s.io.errDue unit then
    .next ((s.updIo fun io => { io with errFired := unit :: io.errFired }).notify 0x9003 0
      [BitVec.ofNat 64 unit, BitVec.ofNat 64 (s.io.errors.get 0 unit)])
  else notNow "ERROR_IRQ"

/-! ## Soft errors (R122, R141 to R143) -/

/-- The byte mask of an 8-byte word of a line. -/
def wordMask (w : Nat) : BitVec 256 := BitVec.ofNat 256 (255 * 2 ^ (8 * w))

/-- A double-bit error in a word of a die's L2: a dirty byte poisons it, a clean sector is dropped. -/
def State.flawL2 (s : State) (die word : Nat) : State :=
  let x := s.l2 die (word / 32)
  let w := word % 32
  if x.dirty &&& wordMask w != 0 then s.setL2 die (word / 32) { x with poison := x.poison ||| (1 <<< w) }
  else if (s.die die).lines.find? (word / 32) = none then s
  else s.setL2 die (word / 32) { x with valid := x.valid &&& ~~~((1 : BitVec 4) <<< (w / 8)) }

/-- A double-bit error in a word of a home slice: a dirty byte poisons it, a clean word comes from the frame again. -/
def State.flawSlice (s : State) (word : Nat) : State :=
  let line := word / 32
  let w := word % 32
  let x := s.slice line
  if !x.valid then s
  else if x.dirty &&& wordMask w != 0 then s.setSlice line { x with poison := x.poison ||| (1 <<< w) }
  else match s.walk (line * 256) with
    | .leaf l => s.setSlice line { x with
        data := mergeLine (wordMask w) (BitVec.ofNat 2048 (leNat (s.frameBytes (line * 256) l 256))) x.data,
        poison := mergePoison (wordMask w) (s.framePoison (line * 256) l) x.poison }
    | _ => s

/-- A team consumes a word that no code mends (R142). -/
def State.consumeBy (s : State) (id : Nat) : State :=
  match s.teams.find? id with
  | none => s
  | some t => if t.mode = .stopped then s else s.take { team := id, grp := (lowestGroup t).1 } tUncorrectable

/-- A double error in a register of a group: an instruction consumes it (R142), but a register of a group that waits at a REGROUP is
consumed when the REGROUP moves it (R316). -/
def State.flawReg (s : State) (r : GrpRef) : State :=
  match s.group? r with
  | none => s
  | some (t, g) =>
    if t.mode = .stopped then s
    else if g.mode = .meeting then s.setGroup r { g with flaw := true }
    else s.take r tUncorrectable

/-- What background scrub, or a read, finds in a protected word. Corrected errors count for the die; register
files and arrays, which scrub does not read, show a double error when it is consumed (R141). -/
def State.scrubbed (s : State) (p : Protected) (f : Flaw) : State :=
  match p, f with
  | .l1 core sector, _ =>
    (s.updCore core fun c => { c with l1 := c.l1.filter fun x => x.sector != sector }).corrected (dieOf core)
  | .reg core _ _, .single => s.corrected (dieOf core)
  | .reg _ team grp, .double => s.flawReg { team := team, grp := grp }
  | .array core _ _, .single => s.corrected (dieOf core)
  | .array _ _ team, .double => s.consumeBy team
  | .l2 die _, .single => s.corrected die
  | .l2 die word, .double => s.flawL2 die word
  | .vault die _, .single => s.corrected die
  | .vault die word, .double => s.updDie die fun d => { d with poison := word :: d.poison.filter (· != word) }
  | .slice word, .single => s.corrected (8 + homeOf (word * 8) % 8)
  | .slice word, .double => s.flawSlice word
  | .hbm home _, .single => s.corrected (8 + home % 8)
  | .hbm home word, .double => s.updHome home fun h => { h with poison := word :: h.poison.filter (· != word) }

/-- SCRUB (R143). -/
def execScrub (p : Protected) (f : Flaw) (s : State) : Out := .next (s.scrubbed p f)

/-! ## Paired teams (R436 to R438) -/

/-- Mix of R436: a word address, its held bytes with the others 0, and its byte mask. -/
def mixWord (ia : Nat) (data : W64) (mask : BitVec 8) : W64 :=
  let z0 : W64 := BitVec.ofNat 64 (mask.toNat * 2 ^ 56 + ia / 8 % 2 ^ 49 * 2 ^ 7)
  let z1 := (z0 * 0x9E3779B97F4A7C15) ^^^ data
  let z2 := (z1 ^^^ (z1 >>> 30)) * 0xBF58476D1CE4E5B9
  let z3 := (z2 ^^^ (z2 >>> 27)) * 0x94D049BB133111EB
  z3 ^^^ (z3 >>> 31)

/-- The signature of an interval (R436). -/
def Interval.signature (iv : Interval) : W64 :=
  iv.held.foldl (fun (sig : W64) (sec, bits, d) =>
    (List.range 8).foldl (fun (sig : W64) i =>
      let m : BitVec 8 := bits.extractLsb' (8 * i) 8
      if m = 0 then sig else sig + mixWord (sec * 64 + 8 * i) (d.extractLsb' (64 * i) 64) m) sig) 0

/-- Retired counts of a team, by group and home lane (R263, R437). -/
def Team.counts (t : Team) : List (Nat × List (Nat × Nat)) :=
  t.groups.map fun ((k, g) : Nat × Group) => (k, g.threads.map fun x => (x.tid, x.retired))

/-- Every group of the team stands at an instruction boundary with nothing in flight. -/
def State.atStandstill (s : State) (id : Nat) (t : Team) : Bool :=
  !((s.core t.core).log.any fun (_, e) => e.team == id) && !((s.core t.core).tileOps.any fun o => o.team == id) &&
    !(s.ops.any fun (_, o) => o.team == id && !o.cls)

/-- What kind of boundary both twins have reached (R437): a barrier of theirs, the end of both, or an early end. -/
inductive PairBoundary where
  | barrier | ended | early
deriving DecidableEq, Repr

def State.pairBoundary (s : State) (a b : Nat) (ta tb : Team) (x y : Interval) : Option PairBoundary :=
  if !(s.atStandstill a ta && s.atStandstill b tb) then none
  else if x.atBoundary && y.atBoundary then some .barrier
  else if ta.exited && tb.exited then some .ended
  else if (x.early || y.early) && ta.counts == tb.counts && !x.atBoundary && !y.atBoundary then some .early
  else none

/-- The barrier that is complete in a team that stands at its boundary. -/
def Team.fullBar (t : Team) : Option Nat := (List.range 16).find? fun b => (t.bar b).count == t.k.threads

/-- A group that waited for the other twin goes on, or is DONE (R240, R437). -/
def Group.leaveTwin (g : Group) (now : Nat) : Group :=
  if g.wait != .twin then g
  else if g.unexited.isEmpty then { g with mode := if g.mode = .saving then .saving else .done, wait := .none } else g.wake now

/-- The boundary steps of one twin: the primary drains, the secondary discards (R437, R431). -/
def State.twinBoundary (s : State) (id : Nat) (primary : Bool) (k : PairBoundary) : State :=
  let drop := fun (iv : Interval) => { iv with held := [], heldVault := [], releases := [] }
  let s1 := (if primary then s.drainTeam id else { s with intervals := s.intervals.adjust id drop }).updTeam id fun t =>
    { t with groups := t.groups.map fun ((k, g) : Nat × Group) => (k, g.leaveTwin s.time) }
  match k with
  | .barrier =>
    match (s1.teams.find? id).bind fun t => t.fullBar with
    | some b => (s1.passBar id b).openInterval id
    | none => s1.openInterval id
  | .early => s1.openInterval id
  | .ended =>
    let s2 := match primary, s1.teams.find? id, s1.intervals.find? id with
      | true, some t, some iv => s1.addCounts t.launch iv.counts
      | _, _, _ => s1
    { s2 with intervals := s2.intervals.erase id }

/-- Both twins are rolled back; their item counts the mismatch (R437, R441). -/
def State.twinRollback (s : State) (id : Nat) : State :=
  let s1 := s.rollback id
  { s1.updTeam id fun t => { t with mismatches := t.mismatches + 1 } with
    intervals := s1.intervals.adjust id fun iv => { iv with mismatched := iv.mismatched + 1 } }

/-- The instruction of R433 for which a boundary was agreed: it issues next, or it has issued and is closed by this one. -/
def pairOwn (k : PairBoundary) (own : Option (Nat × Bool)) : Option (Nat × Bool) :=
  match k, own with
  | .early, some (g, false) => some (g, false)
  | _, _ => none

/-- The intervals of twins agree: signature, held sectors and retired counts (R437). -/
def pairAgrees (ta tb : Team) (x y : Interval) : Bool :=
  x.signature == y.signature && x.held.length == y.held.length && ta.counts == tb.counts

/-- Both twins pass their boundary: the primary's stores are performed before either goes on, and an instruction of R433 then
issues in both. -/
def State.pairPasses (s : State) (team mate : Nat) (first : Bool) (k : PairBoundary) (x y : Interval) : State :=
  let own := pairOwn k (x.own.orElse fun _ => y.own)
  let mark := fun (u : State) (id : Nat) => { u with intervals := u.intervals.adjust id fun iv => { iv with own := own } }
  mark (mark ((s.twinBoundary (if first then team else mate) true k).twinBoundary (if first then mate else team) false k) team) mate

/-- Twins that differ are rolled back; a second mismatch of an interval traps, and so do twins that cannot be rolled back
(R438). -/
def State.pairFails (s : State) (team mate : Nat) (ta tb : Team) (x y : Interval) : State :=
  let r : GrpRef := { team := team, grp := (lowestGroup ta).1 }
  if x.mismatched ≥ 1 ∨ y.mismatched ≥ 1 then s.raiseTrap r { tPairedMismatch with also := [mate] }
  else if s.canRollback team ta x && s.canRollback mate tb y then (s.twinRollback team).twinRollback mate
  else s.raiseTrap r { tUncorrectable with also := [mate] }

/-- PAIRED_SIGNATURE: the twins of a pair exchange the signatures of their intervals. -/
def execPairedSignature (team : Nat) (s : State) : Out :=
  match s.teams.find? team with
  | none => notNow "PAIRED_SIGNATURE"
  | some ta =>
    match ta.twin with
    | none => notNow "PAIRED_SIGNATURE"
    | some (mate, first) =>
      match s.teams.find? mate, s.intervals.find? team, s.intervals.find? mate with
      | some tb, some x, some y =>
        if ta.mode = .stopped ∨ tb.mode = .stopped then notNow "PAIRED_SIGNATURE" else
        match s.pairBoundary team mate ta tb x y with
        | none => notNow "PAIRED_SIGNATURE"
        | some k => .next (if pairAgrees ta tb x y then s.pairPasses team mate first k x y else s.pairFails team mate ta tb x y)
      | _, _, _ => notNow "PAIRED_SIGNATURE"

/-! ## Failures (R185, R373, R439, R440, R442) -/

/-- A team ends with DIE_FAILED and no record. -/
def State.failTeam (s : State) (id : Nat) : State :=
  match s.teams.find? id with
  | none => s
  | some t => if t.mode = .stopped then s else (s.stopTeam id).reportItem t 2 0

/-- The teams named end, with their twins, and break their gangs (R373, R438). -/
def State.failTeams (s : State) (ids : List Nat) : State :=
  let twins := ids.filterMap fun id => ((s.teams.find? id).bind (·.twin)).map (·.1)
  let all := ids ++ twins.filter fun id => !ids.contains id
  let gangs := (ids.filterMap fun id => ((s.teams.find? id).bind (·.gang)).map (·.1)).eraseDups
  gangs.foldl (fun (u : State) g => u.breakGang g 2) (all.foldl (fun (u : State) id => u.failTeam id) s)

/-- A home poisons the words of a line whose dirty bytes may have been lost with a die. -/
def State.poisonLine (s : State) (die line : Nat) : State :=
  match s.walk (line * 256) with
  | .leaf l =>
    let s1 := s.fillSlice line l
    let x := s1.slice line
    (s1.setSlice line { x with poison := 0xFFFFFFFF, dies := x.dies &&& ~~~((1 : BitVec 8) <<< die) }).setFramePoison (line * 256) l 0xFFFFFFFF
  | _ => s

def State.poisonHome (s : State) (die h : Nat) : State :=
  ((s.home h).lines.filter fun (_, x) => x.dies.getLsbD die).foldl (fun (u : State) (k, _) => u.poisonLine die k) s

/-- A compute die fails (R439): its teams and their operations end, and the homes poison what may have been lost with it. The
status that ended operations leave in the tokens of saved teams is a free value (log 3). -/
def State.dieFails (s : State) (die : Nat) : State :=
  let s1 := s.failTeams ((s.teams.filter fun (_, t) => dieOf t.core == die).map (·.1))
  let ops := (s1.ops.filter fun (_, o) => o.die == die && !o.cls).map (·.1)
  let s2 := ops.foldl (fun (u : State) id => { u.endOp id (Config.freeWord u.fresh) with fresh := u.fresh + 1 }) s1
  let s3 := s2.updDie die fun _ => { failed := true }
  allHomes.foldl (fun (u : State) h => u.poisonHome die h) s3

/-- DIE_FAILURE: a fatal error of a compute die (R439). -/
def execDieFailure (die : Nat) (s : State) : Out :=
  if die ≥ 8 ∨ (s.die die).failed then notNow "DIE_FAILURE" else .next (s.dieFails die)

/-- MEMORY_SIDE_DIE_FAILURE: every page homed there is poisoned (R440). -/
def execMemorySideDieFailure (home : Nat) (s : State) : Out :=
  if home ≥ 8 ∨ (s.home home).failed then notNow "MEMORY_SIDE_DIE_FAILURE"
  else .next (s.updHome home fun h => { h with failed := true, lines := [] })

/-- IO_DIE_FAILURE: the module answers nothing until the next dawn (R440). -/
def execIoDieFailure (s : State) : Out := .next (s.updIo fun io => { io with failed := true })

/-- The teams of one core end; its column retires once its other cores are empty (R442). -/
def State.coreFails (s : State) (core : Nat) : State :=
  let s1 := s.failTeams ((s.residents core).map (·.1))
  if s1.colRetired (columnOf core) then s1
  else (s1.updColumn (columnOf core) fun c => { c with retiring := true }).columnBoundary (columnOf core)

/-- CORE_FAILURE (R442). -/
def execCoreFailure (core : Nat) (s : State) : Out :=
  if core ≥ 2048 ∨ (s.die (dieOf core)).failed then notNow "CORE_FAILURE" else .next (s.coreFails core)

/-- PORT_RETIREMENT (R442): traffic moves to the ports that remain. -/
def execPortRetirement (port : Nat) (s : State) : Out :=
  if port ≥ 12 then notNow "PORT_RETIREMENT"
  else .next (s.updIo fun io => { io with deadPorts := if io.deadPorts.contains port then io.deadPorts else port :: io.deadPorts })

end Sys2Proof.Machine
end

