-- ==== Sys2Proof/Machine/Integer.lean ====
section
/-! DEFINITION. Integer and logic instructions, moves, selection and integer compares, in both sets (R275 to R282). -/
namespace Sys2Proof.Machine
open Sys2Proof

/-! ## Descriptions -/

/-- A two-source INT operation on exact signed values (R275). -/
def intOp (o : Alu) (sat : Bool) (f : Int → Int → Int) : Op :=
  { illegal := fun _ => aluForm o [0x28] false sat noVar, ca := clsInt, cb := clsInt, tag := fun _ => mkTag 0x28 0,
    value := fun _ l => intRes o.sat (f l.a32.toInt l.b32.toInt) }

/-- A two-source INT operation on words (R275). -/
def wordOp (o : Alu) (f : W32 → W32 → W32) : Op :=
  { illegal := fun _ => aluForm o [0x28] false false noVar, ca := clsInt, cb := clsInt, tag := fun _ => mkTag 0x28 0,
    value := fun _ l => res1 (f l.a32 l.b32) }

/-- A two-source BITS operation (R275). -/
def bitsOp (o : Alu) (f : W32 → W32 → W32) : Op :=
  { illegal := fun _ => aluForm o [] false false noVar, value := fun _ l => res1 (f l.a32 l.b32) }

/-- A one-source BITS operation (R276). -/
def bits1Op (o : Alu) (f : W32 → W32) : Op :=
  { kb := 0, illegal := fun _ => aluForm o [] false false noVar, value := fun _ l => res1 (f l.a32) }

/-- A one-source INT operation (R276). -/
def int1Op (o : Alu) (f : Int → Int) : Op :=
  { kb := 0, illegal := fun _ => aluForm o [0x28] false true noVar, ca := clsInt, tag := fun _ => mkTag 0x28 0,
    value := fun _ l => intRes o.sat (f l.a32.toInt) }

def mulHigh (a b : W32) : W32 := BitVec.ofInt 32 (a.toInt * b.toInt / 2 ^ 32)
def mulHighU (a b : W32) : W32 := BitVec.ofNat 32 (a.toNat * b.toNat / 2 ^ 32)
def minS (a b : W32) : W32 := if a.toInt ≤ b.toInt then a else b
def maxS (a b : W32) : W32 := if a.toInt ≤ b.toInt then b else a
def minU (a b : W32) : W32 := if a.toNat ≤ b.toNat then a else b
def maxU (a b : W32) : W32 := if a.toNat ≤ b.toNat then b else a
/-- Shifts take the whole of b as an unsigned amount (R275). -/
def shl32 (a b : W32) : W32 := if b.toNat ≥ 32 then 0 else a <<< b.toNat
def shr32 (a b : W32) : W32 := if b.toNat ≥ 32 then 0 else a >>> b.toNat
def sar32 (a b : W32) : W32 := if b.toNat ≥ 32 then (if a.msb then 0xFFFFFFFF else 0) else a.sshiftRight b.toNat

/-- Number of set bits of the low `n` bits. -/
def popN (a : Nat) : Nat → Nat
  | 0 => 0
  | n + 1 => (a.testBit n).toNat + popN a n
def popcount (a : W32) : W32 := BitVec.ofNat 32 (popN a.toNat 32)
/-- Leading zeros among the low `n` bits. -/
def clzN (a : Nat) : Nat → Nat
  | 0 => 0
  | n + 1 => if a.testBit n then 0 else 1 + clzN a n
def clz32 (a : W32) : W32 := BitVec.ofNat 32 (clzN a.toNat 32)
def revN (a : Nat) : Nat → Nat
  | 0 => 0
  | n + 1 => (a.testBit n).toNat * 2 ^ (31 - n) + revN a n
def brev32 (a : W32) : W32 := BitVec.ofNat 32 (revN a.toNat 32)

/-- IMAC (R277). -/
def imacOp (o : Alu) : Op :=
  { kc := 1, illegal := fun _ => aluForm o [0x28] false true noVar, ca := clsInt, cb := clsInt, cc := clsInt,
    tag := fun _ => mkTag 0x28 0, value := fun _ l => intRes o.sat (l.a32.toInt * l.b32.toInt + l.c32.toInt) }

/-- A byte of a word, signed or not. -/
def byteVal (signed : Bool) (w : W32) (j : Nat) : Int :=
  let b := w.extractLsb' (8 * j) 8
  if signed then b.toInt else b.toNat

/-- BDOT (R277): `.AS` is var bit 0, `.BS` var bit 1. -/
def bdotOp (o : Alu) : Op :=
  { kc := 1, illegal := fun _ => aluForm o [0x28] false true (fun _ => true), cc := clsInt, tag := fun _ => mkTag 0x28 0,
    value := fun _ l =>
      let p := fun (j : Nat) => byteVal (o.var.getLsbD 0) l.a32 j * byteVal (o.var.getLsbD 1) l.b32 j
      intRes o.sat (l.c32.toInt + p 0 + p 1 + p 2 + p 3) }

/-- IADD64 and ISUB64 (R278). -/
def int64Op (o : Alu) (f : Int → Int → Int) : Op :=
  { ka := 2, kb := 2, kd := 2, illegal := fun _ => aluForm o [0x29] false true noVar, ca := clsInt64, cb := clsInt64,
    tag := fun _ => mkTag 0x29 0, value := fun _ l => int64Res o.sat (f l.a.toInt l.b.toInt) }

/-- LEA (R278): the shift is var. -/
def leaOp (o : Alu) : Op :=
  { ka := 2, kd := 2, illegal := fun _ => aluForm o [] false false (fun _ => true),
    value := fun _ l => res64 (l.a + (l.b32.signExtend 64 <<< o.var.toNat)) }

/-- The field control of BFX and BFI (R279): position and length, none where another bit is set or the length exceeds 32. -/
def fieldCtl (b : W32) : Option (Nat × Nat) :=
  let len := b.toNat / 256 % 64
  if b.toNat % 256 / 32 != 0 || b.toNat / 2 ^ 14 != 0 || len > 32 then none
  else some (b.toNat % 32, min len (32 - b.toNat % 32))

/-- BFX (R279): `.S` is var bit 0. -/
def bfxOp (o : Alu) : Op :=
  { illegal := fun _ => aluForm o [] false false (fun v => !v.getLsbD 1),
    value := fun _ l => match fieldCtl l.b32 with
      | none => res1 0
      | some (pos, n) =>
        let f := l.a.toNat / 2 ^ pos % 2 ^ n
        res1 (if o.var.getLsbD 0 && n > 0 && f.testBit (n - 1) then BitVec.ofNat 32 (f + (2 ^ 32 - 2 ^ n)) else BitVec.ofNat 32 f) }

/-- BFI (R279). -/
def bfiOp (o : Alu) : Op :=
  { kc := 1, illegal := fun _ => aluForm o [] false false noVar,
    value := fun _ l => match fieldCtl l.b32 with
      | none => res1 0
      | some (pos, n) =>
        let m : W32 := BitVec.ofNat 32 ((2 ^ n - 1) * 2 ^ pos)
        res1 ((l.c32 &&& ~~~m) ||| ((l.a32 <<< pos) &&& m)) }

/-- MOV (R280): class SAME. -/
def movOp (o : Alu) : Op :=
  { kb := 0, illegal := fun _ => aluForm o [] false false noVar, tag := fun x => (x.tagOf o.a).getD tagB32,
    value := fun _ l => res1 l.a32 }

/-- MOVI (R280). -/
def moviOp (o : Imm) : Op :=
  { ka := 0, illegal := fun _ => aluForm o.o [] false false noVar, imm := some o.imm, value := fun _ l => res1 l.b32 }

/-- The predicate field of SEL in c (R50): bits 23:20 zero, negate in 19, index in 18:16. -/
def selPred (o : Alu) : Guard := { neg := o.c.code.getLsbD 3, idx := o.c.code.extractLsb' 0 3 }

/-- SEL (R281). -/
def selOp (o : Alu) : Op :=
  { illegal := fun _ => aluForm o [] false false noVar || o.c.code.toNat ≥ 16,
    tie := fun x => match x.tagOf o.a, x.tagOf o.b with
      | some t, some u => if t = u then .ok () else .error (.trap (tFormatMismatch u.toNat))
      | _, _ => .ok (),
    tag := fun x => ((x.tagOf o.a).orElse fun _ => x.tagOf o.b).getD tagB32,
    value := fun x l => res1 (if guardHolds (selPred o) (if x.u then x.grp.q else l.t.p) then l.a32 else l.b32) }

/-! ## Compares (R282) -/

/-- Registers that each source of a compare takes: pairs under I64 and F64. -/
def cmpWidth (fmt : BitVec 6) : Nat := if fmt = 0x29 ∨ fmt = 0x01 then 2 else 1

/-- The outcome of an integer compare, on words or pairs. -/
def icmpBit (o : Cmp) (a b : W64) : Bool :=
  if cmpWidth o.fmt = 2 then condHolds o.cond (if o.u then a.ult b else a.slt b) (a == b)
  else
    let a' : W32 := a.setWidth 32
    let b' : W32 := b.setWidth 32
    condHolds o.cond (if o.u then a'.ult b' else a'.slt b') (a' == b')

def icmpIllegal (o : Cmp) : Bool := !([0, 0x28, 0x29].contains o.fmt.toNat)

/-- What NOP asks for (R55). -/
def nopPlan (o : Alu) : Plan :=
  { u := false, h := o.h, illegal := fun _ => aluForm o [] false false noVar }

/-- NOP (R280). -/
def execNop (o : Alu) : State → Out :=
  program (.nop o) (nopPlan o) fun x => .ok (x.seq x.s)
/-- What NOP_U asks for (R55). -/
def nopUPlan (o : Alu) : Plan :=
  { u := true, h := o.h, illegal := fun _ => aluForm o [] false false noVar }

/-- NOP of the U-set (R280). -/
def execNopU (o : Alu) : State → Out :=
  program (.nopU o) (nopUPlan o) fun x => .ok (x.seq x.s)

/-- What ICMP asks for (R55). -/
def icmpPlan (o : Cmp) : Plan :=
  let k := cmpWidth o.fmt
  { u := false, h := o.h, illegal := fun _ => icmpIllegal o, srcs := [(o.a, k), (o.b, k)] }

/-- The operand classes of an integer compare. -/
def icmpClasses (o : Cmp) : List ((Tag → Bool) × Src × Nat) :=
  let k := cmpWidth o.fmt
  let cls := if k = 2 then clsInt64 else clsInt
  [(cls, o.a, k), (cls, o.b, k)]

/-- The outcome of a V-set compare in each selected lane. -/
def icmpResults (o : Cmp) (x : Issue) : List (Nat × Bool) :=
  x.lanes.map fun t => (t.lane, icmpBit o (x.value t o.a (cmpWidth o.fmt)) (x.value t o.b (cmpWidth o.fmt)))

/-- ICMP (R282). -/
def execIcmp (o : Cmp) : State → Out :=
  program (.icmp o) (icmpPlan o) fun x => (x.classes (icmpClasses o)).map fun _ => x.seq (wroteP o x (icmpResults o x))

/-- What ICMP_U asks for (R55). -/
def icmpUPlan (o : Cmp) : Plan :=
  let k := cmpWidth o.fmt
  { u := true, h := o.h, illegal := fun _ => icmpIllegal o, srcs := [(o.a, k), (o.b, k)] }

/-- The outcome of a U-set compare. -/
def icmpUBit (o : Cmp) (x : Issue) : Bool :=
  icmpBit o (x.value groupThread o.a (cmpWidth o.fmt)) (x.value groupThread o.b (cmpWidth o.fmt))

/-- ICMP of the U-set. -/
def execIcmpU (o : Cmp) : State → Out := program (.icmpU o) (icmpUPlan o) fun x => .ok (x.seq (wroteQ o x (icmpUBit o x)))

/-- What ICMPI asks for (R55). -/
def icmpiPlan (o : CmpImm) : Plan :=
  let k := cmpWidth o.o.fmt
  { u := true, h := o.o.h, illegal := fun _ => icmpIllegal o.o, srcs := [(o.o.a, k)] }

/-- The outcome of ICMPI: the immediate widens to 64 bits by the compare's sign (R282). -/
def icmpiBit (o : CmpImm) (x : Issue) : Bool :=
  icmpBit o.o (x.value groupThread o.o.a (cmpWidth o.o.fmt)) (if o.o.u then o.imm.setWidth 64 else o.imm.signExtend 64)

/-- ICMPI (R282). -/
def execIcmpi (o : CmpImm) : State → Out := program (.icmpi o) (icmpiPlan o) fun x => .ok (x.seq (wroteQ o.o x (icmpiBit o x)))

/-- An operation with the immediate word in place of b (R44). -/
def immOp (q : Op) (imm : W32) : Op := { q with imm := some imm }

/-! ## The instructions -/

/-- MOV (R280) -/
def execMov (o : Alu) : State → Out := vOp (.mov o) o (movOp o)
/-- MOV (R280) of the U-set. -/
def execMovU (o : Alu) : State → Out := uOp (.movU o) o (movOp o)
/-- IADD (R275) -/
def execIadd (o : Alu) : State → Out := vOp (.iadd o) o (intOp o true (· + ·))
/-- IADD (R275) of the U-set. -/
def execIaddU (o : Alu) : State → Out := uOp (.iaddU o) o (intOp o true (· + ·))
/-- ISUB (R275) -/
def execIsub (o : Alu) : State → Out := vOp (.isub o) o (intOp o true (· - ·))
/-- ISUB (R275) of the U-set. -/
def execIsubU (o : Alu) : State → Out := uOp (.isubU o) o (intOp o true (· - ·))
/-- IMUL (R275) -/
def execImul (o : Alu) : State → Out := vOp (.imul o) o (intOp o true (· * ·))
/-- IMUL (R275) of the U-set. -/
def execImulU (o : Alu) : State → Out := uOp (.imulU o) o (intOp o true (· * ·))
/-- IMULH (R275) -/
def execImulh (o : Alu) : State → Out := vOp (.imulh o) o (wordOp o mulHigh)
/-- IMULH (R275) of the U-set. -/
def execImulhU (o : Alu) : State → Out := uOp (.imulhU o) o (wordOp o mulHigh)
/-- IMULHU (R275) -/
def execImulhu (o : Alu) : State → Out := vOp (.imulhu o) o (wordOp o mulHighU)
/-- IMULHU (R275) of the U-set. -/
def execImulhuU (o : Alu) : State → Out := uOp (.imulhuU o) o (wordOp o mulHighU)
/-- IMIN (R275) -/
def execImin (o : Alu) : State → Out := vOp (.imin o) o (wordOp o minS)
/-- IMIN (R275) of the U-set. -/
def execIminU (o : Alu) : State → Out := uOp (.iminU o) o (wordOp o minS)
/-- IMAX (R275) -/
def execImax (o : Alu) : State → Out := vOp (.imax o) o (wordOp o maxS)
/-- IMAX (R275) of the U-set. -/
def execImaxU (o : Alu) : State → Out := uOp (.imaxU o) o (wordOp o maxS)
/-- IMINU (R275) -/
def execIminu (o : Alu) : State → Out := vOp (.iminu o) o (wordOp o minU)
/-- IMINU (R275) of the U-set. -/
def execIminuU (o : Alu) : State → Out := uOp (.iminuU o) o (wordOp o minU)
/-- IMAXU (R275) -/
def execImaxu (o : Alu) : State → Out := vOp (.imaxu o) o (wordOp o maxU)
/-- IMAXU (R275) of the U-set. -/
def execImaxuU (o : Alu) : State → Out := uOp (.imaxuU o) o (wordOp o maxU)
/-- AND (R275) -/
def execAnd (o : Alu) : State → Out := vOp (.and o) o (bitsOp o (· &&& ·))
/-- AND (R275) of the U-set. -/
def execAndU (o : Alu) : State → Out := uOp (.andU o) o (bitsOp o (· &&& ·))
/-- OR (R275) -/
def execOr (o : Alu) : State → Out := vOp (.or o) o (bitsOp o (· ||| ·))
/-- OR (R275) of the U-set. -/
def execOrU (o : Alu) : State → Out := uOp (.orU o) o (bitsOp o (· ||| ·))
/-- XOR (R275) -/
def execXor (o : Alu) : State → Out := vOp (.xor o) o (bitsOp o (· ^^^ ·))
/-- XOR (R275) of the U-set. -/
def execXorU (o : Alu) : State → Out := uOp (.xorU o) o (bitsOp o (· ^^^ ·))
/-- SHL (R275) -/
def execShl (o : Alu) : State → Out := vOp (.shl o) o (bitsOp o shl32)
/-- SHL (R275) of the U-set. -/
def execShlU (o : Alu) : State → Out := uOp (.shlU o) o (bitsOp o shl32)
/-- SHR (R275) -/
def execShr (o : Alu) : State → Out := vOp (.shr o) o (bitsOp o shr32)
/-- SHR (R275) of the U-set. -/
def execShrU (o : Alu) : State → Out := uOp (.shrU o) o (bitsOp o shr32)
/-- SAR (R275) -/
def execSar (o : Alu) : State → Out := vOp (.sar o) o (bitsOp o sar32)
/-- SAR (R275) of the U-set. -/
def execSarU (o : Alu) : State → Out := uOp (.sarU o) o (bitsOp o sar32)
/-- SEL (R281) -/
def execSel (o : Alu) : State → Out := vOp (.sel o) o (selOp o)
/-- SEL (R281) of the U-set. -/
def execSelU (o : Alu) : State → Out := uOp (.selU o) o (selOp o)
/-- POPC (R276) -/
def execPopc (o : Alu) : State → Out := vOp (.popc o) o (bits1Op o popcount)
/-- POPC (R276) of the U-set. -/
def execPopcU (o : Alu) : State → Out := uOp (.popcU o) o (bits1Op o popcount)
/-- CLZ (R276) -/
def execClz (o : Alu) : State → Out := vOp (.clz o) o (bits1Op o clz32)
/-- CLZ (R276) of the U-set. -/
def execClzU (o : Alu) : State → Out := uOp (.clzU o) o (bits1Op o clz32)
/-- NOT (R276) -/
def execNot (o : Alu) : State → Out := vOp (.not o) o (bits1Op o (~~~ ·))
/-- NOT (R276) of the U-set. -/
def execNotU (o : Alu) : State → Out := uOp (.notU o) o (bits1Op o (~~~ ·))
/-- LEA (R278) -/
def execLea (o : Alu) : State → Out := vOp (.lea o) o (leaOp o)
/-- LEA (R278) of the U-set. -/
def execLeaU (o : Alu) : State → Out := uOp (.leaU o) o (leaOp o)
/-- IABS (R276) -/
def execIabs (o : Alu) : State → Out := vOp (.iabs o) o (int1Op o fun a => a.natAbs)
/-- IABS (R276) of the U-set. -/
def execIabsU (o : Alu) : State → Out := uOp (.iabsU o) o (int1Op o fun a => a.natAbs)
/-- IMAC (R277) -/
def execImac (o : Alu) : State → Out := vOp (.imac o) o (imacOp o)
/-- IMAC (R277) of the U-set. -/
def execImacU (o : Alu) : State → Out := uOp (.imacU o) o (imacOp o)
/-- IADD64 (R278) -/
def execIadd64 (o : Alu) : State → Out := vOp (.iadd64 o) o (int64Op o (· + ·))
/-- IADD64 (R278) of the U-set. -/
def execIadd64U (o : Alu) : State → Out := uOp (.iadd64U o) o (int64Op o (· + ·))
/-- ISUB64 (R278) -/
def execIsub64 (o : Alu) : State → Out := vOp (.isub64 o) o (int64Op o (· - ·))
/-- ISUB64 (R278) of the U-set. -/
def execIsub64U (o : Alu) : State → Out := uOp (.isub64U o) o (int64Op o (· - ·))
/-- BFX (R279) -/
def execBfx (o : Alu) : State → Out := vOp (.bfx o) o (bfxOp o)
/-- BFX (R279) of the U-set. -/
def execBfxU (o : Alu) : State → Out := uOp (.bfxU o) o (bfxOp o)
/-- BFI (R279) -/
def execBfi (o : Alu) : State → Out := vOp (.bfi o) o (bfiOp o)
/-- BFI (R279) of the U-set. -/
def execBfiU (o : Alu) : State → Out := uOp (.bfiU o) o (bfiOp o)
/-- INEG (R276) -/
def execIneg (o : Alu) : State → Out := vOp (.ineg o) o (int1Op o fun a => -a)
/-- BREV (R276) -/
def execBrev (o : Alu) : State → Out := vOp (.brev o) o (bits1Op o brev32)
/-- BDOT (R277) -/
def execBdot (o : Alu) : State → Out := vOp (.bdot o) o (bdotOp o)
/-- MOVI (R280). -/
def execMovi (o : Imm) : State → Out := vOp (.movi o) o.o (moviOp o)
/-- MOVI of the U-set (R280). -/
def execMoviU (o : Imm) : State → Out := uOp (.moviU o) o.o (moviOp o)
/-- IADDI in the set that its first word names (R44, R280). -/
def execIaddi (u : Bool) (o : Imm) : State → Out :=
  if u then uOp (.iaddi u o) o.o (immOp (intOp o.o true (· + ·)) o.imm) else vOp (.iaddi u o) o.o (immOp (intOp o.o true (· + ·)) o.imm)
/-- IMULI in the set that its first word names (R44, R280). -/
def execImuli (u : Bool) (o : Imm) : State → Out :=
  if u then uOp (.imuli u o) o.o (immOp (intOp o.o true (· * ·)) o.imm) else vOp (.imuli u o) o.o (immOp (intOp o.o true (· * ·)) o.imm)
/-- ANDI in the set that its first word names (R44, R280). -/
def execAndi (u : Bool) (o : Imm) : State → Out :=
  if u then uOp (.andi u o) o.o (immOp (bitsOp o.o (· &&& ·)) o.imm) else vOp (.andi u o) o.o (immOp (bitsOp o.o (· &&& ·)) o.imm)
/-- ORI in the set that its first word names (R44, R280). -/
def execOri (u : Bool) (o : Imm) : State → Out :=
  if u then uOp (.ori u o) o.o (immOp (bitsOp o.o (· ||| ·)) o.imm) else vOp (.ori u o) o.o (immOp (bitsOp o.o (· ||| ·)) o.imm)

end Sys2Proof.Machine
end

