-- ==== Sys2Proof/Machine/Lanes.lean ====
section
/-! DEFINITION. Cross-lane instructions and partitions (R304 to R310). -/
namespace Sys2Proof.Machine
open Sys2Proof

/-! ## The control byte (R305) -/

def ctlWrite (c : BitVec 8) : Bool := c.getLsbD 7
def ctlPred (c : BitVec 8) : Nat := (c.extractLsb' 4 3).toNat
def ctlPart (c : BitVec 8) : Bool := c.getLsbD 3
def ctlGroup (c : BitVec 8) : Nat := (c.extractLsb' 0 3).toNat

/-- A partition enable that names an unset group register (R305). -/
def partIllegal (x : Issue) (c : BitVec 8) : Bool := ctlPart c && x.grp.g.get 0 (ctlGroup c) == 0
/-- The block size P (R306). -/
def blockOf (x : Issue) (c : BitVec 8) : Nat := if ctlPart c then x.grp.g.get 0 (ctlGroup c) else x.team.k.width

/-- Contributing lanes of the block of a lane, in lane order (R306). -/
def peersOf (x : Issue) (P : Nat) (t : Thread) : List Thread :=
  x.lanes.filter fun u => u.lane / P == t.lane / P

/-- A one-result cross-lane operation: its register operands and their classes, the registers its result takes, the fields
it may not set, its result tag, and its value for one lane of a block. -/
structure LaneOp where
  srcs : List Src
  classes : List (Tag → Bool) := srcs.map fun _ => clsAny
  k : Nat := 1
  illegal : Bool := false
  tag : Tag := tagB32
  value : Issue → Nat → Thread → Res

def LaneOp.plan (q : LaneOp) (o : Mode) : Plan :=
  { u := false, h := o.h, illegal := fun _ => q.illegal || o.scope != 0, srcs := q.srcs.map fun c => (c, 1),
    dsts := if o.w then [] else [(o.d.toNat, q.k)], operand := fun x => partIllegal x o.c }

/-- The classes of the operands. -/
def LaneOp.tags (q : LaneOp) : List ((Tag → Bool) × Src × Nat) := (q.classes.zip q.srcs).map fun (p, c) => (p, c, 1)

/-- The results of the contributing lanes, each over its block (R306). -/
def LaneOp.results (q : LaneOp) (x : Issue) (o : Mode) : List (Nat × Res) :=
  x.lanes.map fun t => (t.lane, q.value x (blockOf x o.c) t)

/-- A cross-lane instruction of this kind. -/
def laneOp (i : Instr) (o : Mode) (q : LaneOp) : State → Out :=
  program i (q.plan o) fun x => (x.classes q.tags).map fun _ => x.seq (x.wroteV o.w o.d.toNat q.k q.tag (q.results x o))

/-! ## LXCH (R307) -/

/-- The source position of a mode for position j, operand bb and block size P; none when not valid. -/
def lxchSrc (mode : Nat) (P j bb : Nat) : Option Nat :=
  if mode = 0 then (if bb < P then some bb else none)
  else if mode = 1 then (if j ^^^ bb < P then some (j ^^^ bb) else none)
  else if mode = 2 then (if bb ≤ j then some (j - bb) else none)
  else if mode = 3 then (if j + bb < P then some (j + bb) else none)
  else if mode = 4 then some ((j + P - bb % P) % P)
  else some ((j + bb) % P)

/-- The lane that a lane takes its value from, when that lane contributes. -/
def lxchFrom (x : Issue) (o : Mode) (P : Nat) (t : Thread) : Option Thread :=
  let base := t.lane / P * P
  let src := if o.mode = 6 then ((peersOf x P t).head?.map fun u => u.lane - base)
    else lxchSrc o.mode.toNat P (t.lane - base) (x.read t o.b 0).toNat
  src.bind fun j => x.lanes.find? fun u => u.lane == base + j

/-- The operands of LXCH: `.FIRST` takes no position. -/
def lxchSrcs (o : Mode) : List (Src × Nat) := if o.mode = 6 then [(o.a, 1)] else [(o.a, 1), (o.b, 1)]

/-- What LXCH asks for (R55). -/
def lxchPlan (o : Mode) : Plan :=
  { u := false, h := o.h, illegal := fun _ => o.scope != 0 || o.mode.toNat > 6 || (o.mode == 6 && o.b != .zero), srcs := lxchSrcs o,
    dsts := if o.w then [] else [(o.d.toNat, 1)], operand := fun x => partIllegal x o.c }

/-- Each lane with the lane that it takes its value from (R307). -/
def lxchPairs (x : Issue) (o : Mode) : List (Thread × Option Thread) := x.lanes.map fun t => (t, lxchFrom x o (blockOf x o.c) t)

/-- The values of LXCH (a lane without a source keeps its own), and the predicate that says which lanes had one (R307). -/
def lxchEffect (x : Issue) (o : Mode) : State :=
  let rs := (lxchPairs x o).map fun (t, u) => (t.lane, res1 (x.read (u.getD t) o.a 0))
  let ps := if ctlWrite o.c then (lxchPairs x o).map fun (t, u) => (t.lane, u.isSome) else []
  x.s.updGroup x.g fun g => (g.writeV o.w o.d.toNat 1 ((x.tagOf o.a).getD tagB32) rs).writeP (ctlPred o.c) ps

/-- LXCH. -/
def execLxch (o : Mode) : State → Out :=
  program (.lxch o) (lxchPlan o) fun x =>
    (x.classes ((lxchSrcs o).map fun p => (clsAny, p.1, 1))).map fun _ => x.seq (lxchEffect x o)

/-! ## POLL (R308) -/

/-- A mask over positions of a block. -/
def posMask (P : Nat) (l : List Thread) : W64 := BitVec.ofNat 64 (l.foldl (fun m t => m + 2 ^ (t.lane % P)) 0)

def pollRes (x : Issue) (o : Mode) (P : Nat) (t : Thread) : Res :=
  let all := peersOf x P t
  let ones := all.filter fun u => u.p.getLsbD (ctlPred o.c) != ctlWrite o.c
  let n := ones.length
  if o.mode = 0 then res64 (posMask P ones)
  else if o.mode = 1 then res1 (BitVec.ofNat 32 n)
  else if o.mode = 2 then res1 (if n > 0 then 1 else 0)
  else if o.mode = 3 then res1 (if n = all.length then 1 else 0)
  else if o.mode = 4 then res1 (BitVec.ofNat 32 (match ones with | u :: _ => u.lane % P | [] => P))
  else res1 (BitVec.ofNat 32 (n % 2))

/-- The operation of POLL: bit 23 of the extension word negates, bits 22:20 name the predicate. -/
def pollOp (o : Mode) : LaneOp :=
  { srcs := [], k := if o.mode = 0 then 2 else 1, illegal := o.mode.toNat > 5 || o.a != .reg 0 || o.b != .reg 0,
    value := fun x P t => pollRes x o P t }

/-- POLL. -/
def execPoll (o : Mode) : State → Out := laneOp (.poll o) o (pollOp o)

/-! ## LREDUCE (R309) -/

/-- Combine two INT or BITS values by kind. -/
def combine (kind : Nat) (a b : W32) : W32 :=
  if kind = 0 then a + b else if kind = 1 then minS a b else if kind = 2 then maxS a b else if kind = 3 then minU a b
  else if kind = 4 then maxU a b else if kind = 5 then a &&& b else if kind = 6 then a ||| b else a ^^^ b

/-- The value of an `.EXCL` lane with none below. -/
def exclFirst (kind : Nat) : W32 :=
  if kind = 1 then 0x7FFFFFFF else if kind = 2 then 0x80000000 else if kind = 3 ∨ kind = 5 then 0xFFFFFFFF
  else if kind = 9 then 0x7F800000 else if kind = 10 then 0xFF800000 else 0

/-- The combination of a non-empty set of values (R309); the exact sum is rounded once. -/
def reduceSet (kind : Nat) (a : W32) (l : List W32) : Nat × List Nat :=
  if kind = 8 then roundTo 0x02 .rne false 0 (l.foldl (fun v w => Val.add .rne v (f32Value w)) (f32Value a))
  else if kind ≥ 9 then
    asIs 0x02 (l.foldl (fun (v : W64) w => BitVec.ofNat 64 (fminmax 0x02 (kind == 10) v (w.setWidth 64)).1) (a.setWidth 64))
  else ((l.foldl (combine kind) a).toNat, [])

def lreduceRes (x : Issue) (o : Mode) (P : Nat) (t : Thread) : Res :=
  let kind := o.mode.toNat % 16
  let shape := o.mode.toNat / 16
  let set := (peersOf x P t).filter fun u =>
    if shape = 0 then true else if shape = 1 then decide (u.lane ≤ t.lane) else decide (u.lane < t.lane)
  match set.map fun u => x.read u o.a 0 with
  | a :: l => codeRes 1 (reduceSet kind a l)
  | [] => if kind ≥ 9 then codeRes 1 (asIs 0x02 ((exclFirst kind).setWidth 64)) else res1 (exclFirst kind)

def lreduceTag (o : Mode) : Tag :=
  let kind := o.mode.toNat % 16
  if kind ≤ 4 then mkTag 0x28 0 else if kind ≤ 7 then tagB32 else mkTag 0x02 0

/-- The operation of LREDUCE: its kind in the low four bits of the mode, its shape in the others. -/
def lreduceOp (o : Mode) : LaneOp :=
  let kind := o.mode.toNat % 16
  { srcs := [o.a], classes := [if kind ≤ 4 then clsInt else if kind ≤ 7 then clsAny else clsFlt 0x02],
    illegal := kind > 10 || o.mode.toNat / 16 > 2 || o.c.toNat ≥ 16, tag := lreduceTag o, value := fun x P t => lreduceRes x o P t }

/-- LREDUCE. -/
def execLreduce (o : Mode) : State → Out := laneOp (.lreduce o) o (lreduceOp o)

/-! ## PEERS (R310) -/

def peersRes (x : Issue) (o : Mode) (P : Nat) (t : Thread) : Res :=
  let all := peersOf x P t
  let same := all.filter fun u => x.read u o.a 0 == x.read t o.a 0
  if o.mode = 0 then res64 (posMask P same)
  else if o.mode = 1 then res64 (if same.length = all.length then posMask P all else 0)
  else res1 (BitVec.ofNat 32 (same.filter fun u => decide (u.lane < t.lane)).length)

/-- The operation of PEERS. -/
def peersOp (o : Mode) : LaneOp :=
  { srcs := [o.a], k := if o.mode.toNat ≤ 1 then 2 else 1, illegal := o.mode.toNat > 2 || o.c.toNat ≥ 16,
    value := fun x P t => peersRes x o P t }

/-- PEERS. -/
def execPeers (o : Mode) : State → Out := laneOp (.peers o) o (peersOp o)

/-! ## PART (R304) -/

/-- What PART asks for (R55). -/
def partPlan (o : Alu) : Plan :=
  { u := true, h := o.h, illegal := fun _ => aluForm o [] false false noVar || o.d.toNat ≥ 8,
      operand := fun x => !([0, 4, 8, 16].contains o.b.code.toNat) || decide (o.b.code.toNat > x.team.k.width) }

/-- PART: N in d bits 18:16, the size as an unsigned value in b; an unselected PART changes nothing. -/
def execPart (o : Alu) : State → Out :=
  program (.part o) (partPlan o) fun x =>
    .ok (x.onGroup fun g => if x.selected then { g with g := g.g.set 0 o.d.toNat o.b.code.toNat } else g)

end Sys2Proof.Machine
end

