-- ==== Sys2Proof/Machine/Control.lean ====
section
/-! DEFINITION. Control flow: lane branches, uniform branches, calls, exit, yield, loops and their loop-back (R294 to R303),
and the package's steps that belong to a group's flow (R239, R301, R407). -/
namespace Sys2Proof.Machine
open Sys2Proof

/-- A target: the next instruction plus a signed offset in words, 57 bits (R45). -/
def relTarget (next : Nat) (off : Int) : Nat := (((next : Int) + 4 * off) % (2 ^ 57 : Int)).toNat

/-- Whether a thread's predicate takes the branch (R295). -/
def braTaken (o : Bra) (t : Thread) : Bool := t.p.getLsbD o.idx.toNat != o.neg
/-- The target of a branch and of a jump from the address of the next instruction. -/
def braTarget (o : Bra) (next : Nat) : Nat := relTarget next o.off.toInt
def jmpTarget (o : Jmp) (next : Nat) : Nat := relTarget next o.off.toInt

/-- A branch that parts the current set would break a loop body or `.NODIV` (R295, R303). -/
def braBarred (nodiv : Bool) (o : Bra) (x : Issue) : Bool :=
  nodiv || endLevels (braTarget o x.next) x.grp.levels != x.grp.levels || x.grp.atLoopEnd x.next

/-- The current set parts: each thread goes where its predicate says (R295). -/
def Group.parted (g : Group) (o : Bra) (next : Nat) : Group :=
  g.mapActive fun t => { t with pc := if braTaken o t then braTarget o next else next }
def braPart (o : Bra) (x : Issue) : State := (x.s.updGroup x.g fun g => g.parted o x.next).settled x.g x.h.sp

/-- The body of BRA (R295, R303). -/
def braBody (nodiv : Bool) (o : Bra) : Body := fun x =>
  if x.grp.active.all fun t => !braTaken o t then .ok (x.seq x.s)
  else if x.grp.active.all (braTaken o) then .ok (x.jump x.s (braTarget o x.next))
  else if braBarred nodiv o x then .error (.trap tUniformViolation)
  else .ok (braPart o x)

/-- What BRA asks for (R55). -/
def braPlan (o : Bra) : Plan := { u := false, h := o.h }

/-- BRA (R295). -/
def execBra (o : Bra) : State → Out := program (.bra o) (braPlan o) (braBody false o)
/-- BRA.NODIV (R295): a branch that would part the set is refused. -/
def execBraNodiv (o : Bra) : State → Out := program (.braNodiv o) (braPlan o) (braBody true o)

/-- Every ACTIVE thread takes a meeting address (R298). -/
def Group.meetAt (g : Group) (target : Nat) : Group := g.mapActive fun t => { t with meet := some target }

/-- What MEET asks for (R55). -/
def meetPlan (o : Jmp) : Plan :=
  { u := false, h := o.h }

/-- MEET (R298). -/
def execMeet (o : Jmp) : State → Out :=
  program (.meet o) (meetPlan o) fun x =>
    .ok (x.onGroup fun g => g.meetAt (jmpTarget o x.next))

/-- What BRU asks for (R55). -/
def bruPlan (o : Bra) : Plan :=
  { u := true, h := o.h }

/-- BRU (R296). -/
def execBru (o : Bra) : State → Out :=
  program (.bru o) (bruPlan o) fun x =>
    .ok (if x.grp.q.getLsbD o.idx.toNat != o.neg then x.jump x.s (braTarget o x.next) else x.seq x.s)

/-- What JMP asks for (R55). -/
def jmpPlan (o : Jmp) : Plan :=
  { u := true, h := o.h }

/-- JMP (R296). -/
def execJmp (o : Jmp) : State → Out :=
  program (.jmp o) (jmpPlan o) fun x => .ok (x.jump x.s (jmpTarget o x.next))

/-- What JMPI asks for (R55). -/
def jmpiPlan (o : Jind) : Plan :=
  { u := true, h := o.h, srcs := [(o.a, 2)], operand := fun _ => match o.a with | .reg _ => false | _ => true }

/-- JMPI (R45, R296): the target is an even uniform pair; a misaligned one raises ALIGNMENT before the redirect. -/
def execJmpi (o : Jind) : State → Out :=
  program (.jmpi o) (jmpiPlan o) fun x =>
    let target := (x.read64 groupThread o.a).toNat
    if target % 4 != 0 then .error (.trap (tAlignment target none)) else .ok (x.jump x.s target)

/-- What CALL asks for (R55). -/
def callPlan (o : Jmp) : Plan :=
  { u := true, h := o.h, operand := fun x => decide (x.grp.ret.length ≥ 16) }

/-- CALL (R297). -/
def execCall (o : Jmp) : State → Out :=
  program (.call o) (callPlan o) fun x =>
    if x.grp.converged then
      .ok (x.jump (x.s.updGroup x.g fun g => { g with ret := x.next :: g.ret }) (jmpTarget o x.next))
    else .error (.trap tUniformViolation)

/-- What RET asks for (R55). -/
def retPlan (o : Jind) : Plan :=
  { u := true, h := o.h, operand := fun x => x.grp.ret.isEmpty }

/-- RET (R297). -/
def execRet (o : Jind) : State → Out :=
  program (.ret o) (retPlan o) fun x =>
    if x.grp.converged then
      .ok (x.jump (x.s.updGroup x.g fun g => { g with ret := g.ret.tail }) (x.grp.ret.headD 0))
    else .error (.trap tUniformViolation)

/-- The ACTIVE threads that a test selects have exited (R299). -/
def Group.exit (g : Group) (sel : Thread → Bool) : Group :=
  { g with exitPc := g.pc, threads := g.threads.map fun t => if t.mode == .active && sel t then { t with mode := .exited } else t }

/-- Exit the ACTIVE threads that a test selects; the rest go on, and a REGROUP that waited for them proceeds (R299, R312). -/
def exitEffect (sel : Thread → Bool) (x : Issue) : State :=
  let s1 := x.s.updGroup x.g fun g => g.exit sel
  (if x.grp.active.all sel then s1.settled x.g x.h.sp else x.seq s1).meet x.g.team

/-- What EXIT asks for (R55). -/
def exitPlan (o : Alu) : Plan :=
  { u := false, h := o.h, illegal := fun _ => aluForm o [] false false noVar }

/-- EXIT of the V-set (R299). -/
def execExit (o : Alu) : State → Out :=
  program (.exit o) (exitPlan o) fun x => .ok (exitEffect x.selects x)
/-- What EXIT_U asks for (R55). -/
def exitUPlan (o : Alu) : Plan :=
  { u := true, h := o.h, illegal := fun _ => aluForm o [] false false noVar }

/-- EXIT of the U-set (R299): the whole current set. -/
def execExitU (o : Alu) : State → Out :=
  program (.exitU o) (exitUPlan o) fun x => .ok (exitEffect (fun _ => x.selected) x)

/-- What YIELD asks for (R55). -/
def yieldPlan (o : Alu) : Plan :=
  { u := true, h := o.h, illegal := fun _ => o.h.guard.isSome || aluForm o [] false false noVar }

/-- The switch point of YIELD, which clears the latches whatever follows (R300); a rotation that settling has forced is the one that it
makes. -/
def Group.yielded (g : Group) (turned : Bool) : Group :=
  if g.mode == .ready && !g.loopDue && !turned then g.rotate else { g.clearLatches with run := 0 }

/-- Settling rotates the group where flow goes on in sequence (R238). -/
def Issue.turned (x : Issue) : Bool :=
  match x.s.group? x.g with
  | some (_, g) => ({ (g.mapActive fun t => { t with pc := x.next }) with pc := x.next } : Group).turns
  | none => false

/-- YIELD's flow: sequential, with its own switch point in the place of that of S = 1 (R239, R300); at a loop end S = 1 waits for the
loop-back. -/
def Issue.yields (x : Issue) : State :=
  ((x.plain.seq x.s).updGroup x.g fun g =>
    { g.yielded x.turned with spDue := if g.loopDue && x.h.sp.isSome then x.h.sp.map some else g.spDue }).safePoint x.g x.h.sp

/-- YIELD (R300): always a switch point. -/
def execYield (o : Alu) : State → Out :=
  program (.yield o) (yieldPlan o) fun x => .ok x.yields

/-- What REGROUP asks for (R55). -/
def regroupPlan (o : Alu) : Plan :=
  { u := false, h := o.h, srcs := [(o.a, 1)],
      illegal := fun _ => o.w || o.d != 0 || o.b != .reg 0 || o.c != .reg 0 || o.h.guard.isSome || o.fmt != 0 || aluForm o [] false false noVar,
      operand := fun _ => match o.a with | .latch _ => true | _ => false }

/-- Every ACTIVE thread stands at the REGROUP with its key (R311). -/
def Group.offer (g : Group) (key : Thread → W32) (next : Nat) (sp : Option Mask) : Group :=
  { g with threads := g.threads.map fun t => if t.mode == .active then { t with mode := .regroup (key t) next sp } else t }

/-- REGROUP (R311, R312): each ACTIVE thread is held with its key; the meeting proceeds at once when it can. -/
def execRegroup (o : Alu) : State → Out :=
  program (.regroup o) (regroupPlan o) fun x =>
    (x.classes [(clsInt, o.a, 1)]).map fun _ =>
      ((x.s.updGroup x.g fun g => g.offer (fun t => x.read t o.a 0) x.next o.h.sp).settled x.g none).meet x.g.team

/-! ## Loops -/

/-- LOOP_BODY's limits (R47). -/
def loopIllegal (x : Issue) (o : Lop) : Bool :=
  o.len.toNat = 0 || o.len.toNat > 256 || x.grp.levels.length ≥ 3 || x.grp.levels.any (fun v => v.ctr == o.ctr.toNat) ||
    (match x.grp.levels with | v :: _ => decide (x.next + 4 * o.len.toNat > v.stop) | [] => false)

/-- The end of the body of a loop whose instruction ends at `next`. -/
def lopStop (o : Lop) (next : Nat) : Nat := next + 4 * o.len.toNat

/-- A loop opens: its counter takes the count, and its level stands innermost (R301). -/
def loopOpen (o : Lop) (n : Nat) (x : Issue) : State :=
  x.s.updGroup x.g fun g =>
    { g with lc := g.lc.set 0 o.ctr.toNat n, levels := { ctr := o.ctr.toNat, start := x.next, stop := lopStop o x.next } :: g.levels }

/-- LOOP and LOOPI (R301, R303): a zero count passes over the body. -/
def loopBody (o : Lop) (count : Issue → Nat) : Body := fun x =>
  if loopIllegal x o then .error (.trap tLoopBody)
  else if !x.grp.converged then .error (.trap tUniformViolation)
  else if count x = 0 then .ok ((x.goTo (lopStop o x.next)).seq x.s)
  else .ok (x.seq (loopOpen o (count x) x))

/-- The count of LOOP. -/
def loopCount (o : Lop) (x : Issue) : Nat := (x.read groupThread o.b 0).toNat

/-- What LOOP asks for (R55). -/
def loopPlan (o : Lop) : Plan :=
  { u := true, h := o.h, srcs := [(o.b, 1)], operand := fun _ => o.ctr == 3 }

/-- LOOP (R301). -/
def execLoop (o : Lop) : State → Out :=
  program (.loop o) (loopPlan o)
    (loopBody o (loopCount o))
/-- What LOOPI asks for (R55). -/
def loopiPlan (o : Lop) : Plan :=
  { u := true, h := o.h, operand := fun _ => o.ctr == 3 }

/-- LOOPI (R301). -/
def execLoopi (o : Lop) : State → Out :=
  program (.loopi o) (loopiPlan o) (loopBody o fun _ => o.imm.toNat)

/-- What BRK asks for (R55). -/
def brkPlan (o : Lop) : Plan :=
  { u := true, h := o.h, operand := fun x => !(x.grp.levels.any fun v => v.ctr == o.ctr.toNat) }

/-- The levels from the one that BRK names outwards, and the end of its body (R302). -/
def brkLevels (o : Lop) (x : Issue) : List Level := x.grp.levels.dropWhile fun v => v.ctr != o.ctr.toNat
def brkStop (o : Lop) (x : Issue) : Nat := match brkLevels o x with | v :: _ => v.stop | [] => x.next

/-- BRK (R302): the level that it names ends, with every level inside it. -/
def execBrk (o : Lop) : State → Out :=
  program (.brk o) (brkPlan o) fun x =>
    .ok ((x.goTo (brkStop o x)).seq (x.s.updGroup x.g fun g => { g with levels := (brkLevels o x).tail }))

/-! ## Steps of a group's flow -/

/-- The body of the innermost loop runs again (R301): its counter falls by one. -/
def Group.again (g : Group) (v : Level) : Group :=
  { (g.mapActive fun t => { t with pc := v.start }) with
    pc := v.start, lc := g.lc.set 0 v.ctr (g.lc.get 0 v.ctr - 1), loopDue := false, spDue := none }

/-- The innermost loop closes (R302); the level outside it is due at once where it ends at the same word. -/
def Group.close (g : Group) (v : Level) (rest : List Level) : Group :=
  let g1 := { (g.mapActive fun t => { t with pc := v.stop }) with pc := v.stop, lc := g.lc.set 0 v.ctr 0, levels := rest }
  if rest.head?.any fun o => o.stop == v.stop then g1 else { g1 with loopDue := false, spDue := none }

/-- LOOP_BACK (R301, R302): the innermost level runs again or closes; a level that ends at the same word takes its own
loop-back next. -/
def execLoopBack (r : GrpRef) (s : State) : Out :=
  match s.group? r with
  | none => notNow "LOOP_BACK"
  | some (t, g) =>
    if !g.loopDue || g.mode != .ready || t.mode = .stopped then notNow "LOOP_BACK" else
    match g.levels with
    | [] => notNow "LOOP_BACK"
    | v :: rest =>
      if g.lc.get 0 v.ctr > 1 then .next ((s.setGroup r (g.again v)).settled r (g.spDue.getD none))
      else
        let s1 := s.setGroup r (g.close v rest)
        .next (if (g.close v rest).loopDue then s1 else s1.settled r (g.spDue.getD none))

/-- The switch point of a formed group: with WAITING threads in a member it dissolves there, for each member to rotate (R238, R241). -/
def State.switchFormed (s : State) (r : GrpRef) (t : Team) (g : Group) : State :=
  let ms := t.members g
  if ms.any fun (_, m) => !m.waiting.isEmpty then
    ms.foldl (fun (u : State) (k, _) => u.updGroup { team := r.team, grp := k } Group.rotate) (s.dissolve r)
  else
    s.updTeam r.team fun t => { t with groups := t.groups.map fun (k, m) =>
      (k, if g.formed.contains k then { m.clearLatches with run := 0 } else m) }

/-- ISSUE_LIMIT_SWITCH (R239): after 32 consecutive issues, at a boundary where the next instruction reads no latch; or a switch
point that waited for the words of that instruction. -/
def execIssueLimitSwitch (r : GrpRef) (s : State) : Out :=
  match s.group? r with
  | none => notNow "ISSUE_LIMIT_SWITCH"
  | some (t, g) =>
    if (g.run < 32 && g.switchDue.isNone) || !(g.mode == .ready || (g.mode == .formed && !g.formed.isEmpty)) || g.loopDue || (match t.mode with | .running | .stopping _ => false | _ => true) then
      notNow "ISSUE_LIMIT_SWITCH"
    else match s.nextReadsLatch t g with
      | none => notNow "ISSUE_LIMIT_SWITCH"
      | some l =>
        if l && g.switchDue.isNone then notNow "ISSUE_LIMIT_SWITCH"
        else .next (if g.formed.isEmpty then s.switchPoint r none else s.switchFormed r t g)

/-- GROUP_BOOST (R407): a group READY for 256 cycles without an issue is boosted until its next issue. -/
def execGroupBoost (r : GrpRef) (s : State) : Out :=
  match s.group? r with
  | none => notNow "GROUP_BOOST"
  | some (t, g) =>
    if g.mode != .ready || g.boosted || cyclesOf (s.classOf t.core) (s.time - g.readySince) < 256 then notNow "GROUP_BOOST"
    else .next (s.updGroup r fun g => { g with boosted := true })

/-- What UNASSIGNED_EXTENDED_OPCODE asks for (R55). -/
def unassignedExtendedOpcodePlan (u : Bool) : Plan :=
  { u := u, h := {}, illegal := fun _ => true }

/-- A word whose extended opcode no map assigns (R38, R51, R53): ILLEGAL_INSTRUCTION, precise. -/
def execUnassignedExtendedOpcode (u : Bool) (w : RawWords) : State → Out :=
  program (.unassignedExtendedOpcode u w) (unassignedExtendedOpcodePlan u) fun x => .ok x.s

end Sys2Proof.Machine
end

