-- ==== Sys2Proof/Machine/Fault.lean ====
section
/-! DEFINITION. Page faults in flight (R91, R99 to R108, R480): fault responses, filters and stages, merge windows and the
fault queue, the firmware's policy, RESUME and its replays, timeouts, and instruction fetches that fault. -/
namespace Sys2Proof.Machine
open Sys2Proof

/-! ## Responses (R91, R99) -/

/-- FAULT_RESPONSE: the response of a lane reaches its core (R91, R99). -/
def execFaultResponse (l : LaneRef) (s : State) : Out :=
  match s.laneAt l with
  | none => notNow "FAULT_RESPONSE"
  | some (e, x) =>
    if !x.waiting then notNow "FAULT_RESPONSE" else
    match s.responds l e x with
    | some t => .next t
    | none => notNow "FAULT_RESPONSE"

/-! ## Instruction fetches (R72, R99, R107) -/

/-- What stands at a group's current PC: an instruction with its words, words that are none, or what keeps a word away. -/
inductive NextInstr where
  | instr (i : Instr) (ws : List W32)
  | illegal (ws : List W32)
  | violation (cause : Nat)
  | absent (va ia : Nat)
deriving DecidableEq, Repr

def State.nextInstr (s : State) (t : Team) (g : Group) : NextInstr :=
  let (ws, e) := s.fetchWords (dieOf t.core) (s.ctx t.ctx).windows 5 g.pc
  match decode ws with
  | .ok i => .instr i (ws.take i.words)
  | .error .truncated => match e with
    | some (.violation c) => .violation c
    | some (.absent ia) => .absent (g.pc + 4 * ws.length) ia
    | _ => .illegal ws
  | .error _ => .illegal ws

/-- A group may issue: its team runs, it is READY or leads a formed group, and no loop-back is due (R240, R301). -/
def State.mayIssue (t : Team) (g : Group) : Bool :=
  (g.mode == .ready || (g.mode == .formed && !g.formed.isEmpty)) && !g.loopDue && (match t.mode with | .running | .stopping _ => true | _ => false)

/-- ACCESS_FAULT of a fetch (R107): the fetch address is the record's pc. -/
def State.fetchTrap (s : State) (r : GrpRef) (cause va : Nat) : State :=
  s.take r { tAccessFault cause with pc := some va, addr := va }

/-- The group parks as a waiter of its cluster's stage, where that has a record for it. The switch point of this stall waits for the
words of the instruction (R20, R239); a formed group dissolves at its wait (R241). -/
def State.parkFetch (s : State) (r : GrpRef) (t : Team) (g : Group) (ia level : Nat) (peer : Bool) : Option State :=
  let (s1, ok) := (s.dissolve r).report (clusterOrigin t.core)
    { ctx := t.ctx, page := granuleOf ia, level := level, peer := peer, access := 16, core := coreInCluster t.core, pc := g.pc } (.fetch r)
  if ok then some ((s1.updGroup r fun g => { g.await s.time .parked (.fetch (granuleOf ia)) with switchDue := some (g.switchDue.getD none) }).passLog
    t.core g.wait) else none

/-- What the walk of a fetch that finds no word does. -/
def State.fetchFaults (s : State) (r : GrpRef) (t : Team) (g : Group) (va ia : Nat) : Option State :=
  match s.walk ia with
  | .absent lv => s.parkFetch r t g ia lv false
  | .peerAbsent lv => s.parkFetch r t g ia lv true
  | .bad c => some (s.fetchTrap r c va)
  | .leaf _ => none

/-- FETCH_FAULT: a word of the group's next instruction is on a page that is not there. -/
def execFetchFault (r : GrpRef) (s : State) : Out :=
  match s.group? r with
  | none => notNow "FETCH_FAULT"
  | some (t, g) =>
    if !State.mayIssue t g then notNow "FETCH_FAULT" else
    match s.nextInstr t g with
    | .absent va ia => match s.fetchFaults r t g va ia with
      | some u => .next u
      | none => notNow "FETCH_FAULT"
    | _ => notNow "FETCH_FAULT"

/-! ## The fault queue (R100, R101) -/

/-- 512 or 4,096 cycles as a stage counts them (R100). -/
def State.stageSpan (s : State) (o : Origin) (retry : Bool) : Nat :=
  if o.kind = 0 then nsOf (s.cluster (o.die.toNat * 16 + o.unit.toNat)).cls (if retry then 4096 else 512)
  else if retry then 1138 else 143

/-- The 32 bytes of a record (R101). -/
def recordWords (o : Origin) (id : Nat) (r : FaultRec) : List W64 :=
  [packWord [(r.peer.toNat, 61), (r.wp.toNat, 60), (r.level - 1, 58), (r.page % 2 ^ 36, 16), (r.access.toNat, 0)],
   packWord [(r.ctx, 48), (r.count, 32), (id, 16), (o.kind.toNat, 13), (o.die.toNat, 10), (o.unit.toNat, 6)],
   packWord [(r.core, 57), (r.pc % 2 ^ 57, 0)], BitVec.ofNat 64 (r.posted.getD 0)]

/-- The host that serves a context's records is told of one (R102, R450). -/
def State.tellRecord (s : State) (o : Origin) (id : Nat) (r : FaultRec) : State :=
  match (s.ctx r.ctx).route with
  | some ep => s.sendOwn { ep := ep, type := 0x9004, ctx := r.ctx, body := recordWords o id r }
  | none => s

/-- Post a record to the fault queue, or keep it refused where the queue is full. -/
def State.post (s : State) (o : Origin) (id : Nat) (r : FaultRec) : State :=
  if s.io.faultq.length ≥ 4096 then s.setRec o id { r with refused := true, opened := s.time }
  else
    let r1 := { r with posted := some s.time, refused := false, count := max 1 (min 65535 r.waiters.length) }
    ((s.setRec o id r1).updIo fun io => { io with faultq := io.faultq ++ [(o, id)] }).tellRecord o id r1

/-- MERGE_WINDOW_CLOSE (R100). -/
def execMergeWindowClose (o : Origin) (id : Nat) (s : State) : Out :=
  match s.rec? o id with
  | some r =>
    if r.posted.isNone && !r.refused && s.time ≥ r.opened + s.stageSpan o false then .next (s.post o id r)
    else notNow "MERGE_WINDOW_CLOSE"
  | none => notNow "MERGE_WINDOW_CLOSE"

/-- FAULT_QUEUE_RETRY (R100). -/
def execFaultQueueRetry (o : Origin) (id : Nat) (s : State) : Out :=
  match s.rec? o id with
  | some r =>
    if r.posted.isNone && r.refused && s.time ≥ r.opened + s.stageSpan o true then .next (s.post o id r)
    else notNow "FAULT_QUEUE_RETRY"
  | none => notNow "FAULT_QUEUE_RETRY"

/-! ## RESUME (R102, R103, R107, R108) -/

/-- Take a record out of its stage and the queue. -/
def State.closeRec (s : State) (o : Origin) (id : Nat) : State :=
  ({ s with stages := s.stages.erase (originKey o * 65536 + id) } : State).updIo fun io =>
    { io with faultq := io.faultq.filter (· != (o, id)) }

/-- Send the lanes of an entry that wait on a granule again (R103). -/
def State.replay (s : State) (core entry uid granule : Nat) : State :=
  match (s.core core).log.find? entry with
  | none => s
  | some e =>
    if e.uid != uid then s else
    let n := 1 + e.lanes.foldl (fun m x => max m x.replay) 0
    let again := fun (x : LogLane) =>
      if x.waiting && x.stage == .reported && granuleOf x.ia == granule then
        { x with stage := .sent, replay := n, again := true, sent := s.time } else x
    s.updCore core fun c => refilter { c with log := c.log.put entry { e with mode := .replaying, lanes := e.lanes.map again } }

/-- A completion time reaches the group that it is owed to, resident or saved, or the engine operation (R146, R161, R178). -/
def State.repay (s : State) (owner : Option Owed) (t : Nat) : State :=
  match owner with
  | none => s
  | some (.group r) => s.raiseAll r.team [r.grp] t
  | some (.op id) => s.updOp id fun o => { o with compl := max o.compl t }

/-- The write-backs of a line that its home holds, in the order of their arrival. -/
def State.heldOn (s : State) (line : Nat) : List Nat := (s.held.filter fun p => p.2.holds line).map (·.1)

/-- Accesses of hosts that waited behind the held write-backs of a line. -/
def State.behind (s : State) (line : Nat) : State :=
  s.held.foldl (fun (u : State) (id, a) => match a with
    | .rma r i ws (some k) _ => if k = line then ({ u with held := u.held.erase id } : State).rma r i ws else u
    | _ => u) s

/-- The home holds a write-back under an identifier. -/
def State.holdsBack (s : State) (id : Nat) : Bool := match s.held.find? id with | some (.writeBack ..) => true | _ => false

/-- Perform held write-backs of a line in order, until one is held again; then what waited behind them (R91, R184). A line of a HOST or
PEER frame goes on to its frame, as the release that held it asks (R186). -/
def State.homeAgain (s : State) (line : Nat) : List Nat → State
  | [] => if s.lineHeld line then s else s.behind line
  | id :: r =>
    match s.held.find? id with
    | some (.writeBack die k mask data p ctx since owner) =>
      let (u, t) := ({ s with held := s.held.erase id } : State).reachWith State.roomSlice id die k mask data p ctx since owner
      if u.holdsBack id then u else ((u.flushForeign [(k, u.slice k)]).repay owner t).homeAgain line r
    | _ => s.homeAgain line r

/-- A drained store has been performed: the horizons of its groups rise, and what it kept from being sent or from going on may
(R97, R146, R434). -/
def State.storeDone (s : State) (team : Nat) (grps : List Nat) (t : Nat) : State :=
  let s1 := s.raiseAll team grps t
  match s1.teams.find? team with
  | some x =>
    (s1.updCore x.core fun c => { c with log := s1.unchain c.log }).wakeTeam team fun k g => decide (g.wait = .entries) && grps.contains k
  | none => s1

/-- A drained store that waits is performed again. -/
def State.storeAgain (s : State) (id : Nat) : State :=
  match s.held.find? id with
  | some (.store core team grps line mask data buffer since) =>
    let (u, t) := ({ s with held := s.held.erase id } : State).storeLine id core team grps line mask data buffer since
    match t with | some t => u.storeDone team grps t | none => u
  | _ => s

/-- A store reaches the scratchpad of a gang mate on another die, where that mate still is; its time is the group's (R146, R178). -/
def State.padLands (s : State) (id : Nat) : State :=
  match s.held.find? id with
  | some (.pad team grp mate off data) =>
    let s1 : State := { s with held := s.held.erase id }
    let s2 := match s1.teams.find? mate with
      | some u => if u.mode = TeamMode.stopped then s1 else { s1 with mem := writeBytes s1.mem (arrayAt u.core ((s1.core u.core).scratchBase u.slice + off)) data }
      | none => s1
    s2.storeDone team [grp] s.time
  | _ => s

/-! ## Accesses of peers (R77, R78, R82) -/

def State.tellPeer (s : State) (d : Option (List Byte)) : State := { s with net := s.net ++ [NetOut.peerData d] }

/-- The pieces of a range of intermediate addresses, each in one line. -/
def iaPieces (ia n : Nat) : Nat → List (Nat × Nat)
  | 0 => []
  | fuel + 1 => if n = 0 then [] else let k := min n (256 - ia % 256); (ia, k) :: iaPieces (ia + k) (n - k) fuel

def peerPlaces : PeerAccess → List (Nat × Nat)
  | .read ia len => iaPieces ia len (len / 256 + 2)
  | .write ia data => iaPieces ia data.length (data.length / 256 + 2)
def peerWrites : PeerAccess → Bool
  | .read .. => false
  | .write .. => true

/-- A peer's access is translated by its home here and performed there; a page that is not there is reported to the peer as not present
(R77), and an access whose page is held waits (R82, R83). -/
def State.peerAccess (s : State) (a : PeerAccess) : State :=
  let l := peerPlaces a
  if l.any fun p => decide (homeOf p.1 ≥ 8) then s.tellPeer none else
  match s.rmaBlocked (peerWrites a) l with
  | some (_, .sent) => ({ s with next := s.next + 1 } : State).keep s.next (.peer a s.time)
  | some _ => s.tellPeer none
  | none => match a with
    | .read .. => let (s1, bs) := s.rmaReadAll false l; s1.tellPeer (some bs)
    | .write _ data => (s.rmaWriteAll l data).1.tellPeer (some [])

/-! ## Held accesses (R77, R91) -/

/-- A held access is performed again (R91). -/
def State.heldAgain (s : State) (id : Nat) : State :=
  match s.held.find? id with
  | some (.writeBack _ line ..) => s.homeAgain line (s.heldOn line)
  | some (.store ..) => s.storeAgain id
  | some (.rma r i ws ..) => ({ s with held := s.held.erase id } : State).rma r i ws
  | some (.peer a _) => ({ s with held := s.held.erase id } : State).peerAccess a
  | some (.node ..) => { s with held := s.held.erase id }
  | some (.pad ..) => s.padLands id
  | _ => s

/-- Whether a held access that no record names may be performed: what held it is over. -/
def State.heldReady (s : State) (id : Nat) : Bool :=
  !(s.stages.any fun (_, r) => r.waiters.contains (.held id)) && match s.held.find? id with
    | some (.writeBack _ line ..) => (s.heldOn line).head? == some id && !s.pageBusy (line * 256) && !s.pageDead (line * 256)
    | some (.store _ _ _ line ..) => !s.pageHeld (line * 256)
    | some (.rma _ i ws ..) => (rmaPlaces ws i).all fun p => !s.pageHeld p.1
    | some (.peer a _) => (peerPlaces a).all fun p => !s.pageHeld p.1
    | some (.node _ _ ia _) => !s.pageHeld ia
    | some (.pad ..) => true
    | _ => false

/-- A waiter is released. -/
def State.release (s : State) (w : Waiter) : State :=
  match w with
  | .lanes core entry uid g => s.replay core entry uid g
  | .engine op => s.updOp op fun q => if q.mode = .suspended then { q with mode := .queued } else q
  | .fetch r => match s.group? r with
    | some (_, g) => (match g.wait with | .fetch _ => (s.updGroup r (·.wake s.time)).switchPoint r none | _ => s)
    | none => s
  | .held id => s.heldAgain id

/-- A held access ends in ACCESS_FAULT (R107): a write-back is lost and its page poisoned, a drained store ends its team, an RMA ends
with an error, and a node fails (R399). -/
def State.heldFail (s : State) (id cause : Nat) : State :=
  match s.held.find? id with
  | some (.writeBack _ line ..) =>
    let s1 := ({ s with held := s.held.erase id } : State).updHome (homeOf (line * 256)) fun h =>
      { h with poisoned := (offsetOf (line * 256) / 65536) :: h.poisoned }
    s1.homeAgain line (s1.heldOn line)
  | some (.store _ team grps line ..) => ({ s with held := s.held.erase id } : State).storeFails team grps line cause
  | some (.rma r i ..) => ({ s with held := s.held.erase id } : State).reply r (rmaType i) stOk [rmaBody 3 cause]
  | some (.peer ..) => ({ s with held := s.held.erase id } : State).tellPeer none
  | some (.node g i ..) =>
    let s1 : State := { s with held := s.held.erase id }
    match s1.graphs.find? g with
    | some x => s1.nodeUnread g x i cause
    | none => s1
  | _ => s

/-! ## Unreachable slots (R77, R105) -/

/-- The walk of an access ends at a HOST or PEER frame that permits it, and nothing at the home holds it: a slot that stays out of
reach keeps it away. -/
def State.foreign (s : State) (ia : Nat) (write : Bool) : Bool :=
  !s.pageBusy ia && !s.lineHeld (lineOf ia) && match s.walk ia with | .leaf l => l.kind != 2 && !(write && pteWp l.word) | _ => false

/-- A slot has kept a lane from its page for 100 ms. -/
def State.laneUnreachable (s : State) (l : LaneRef) : Option State :=
  (s.laneGo l).bind fun (e, x) =>
    if x.stage = .sent && s.foreign x.ia e.isWrite && s.time ≥ x.sent + 100000000 && !s.heldStore e && s.needsHome l e x
    then some (s.stage l (.bad 3)) else none

/-- The first word of a group's next instruction that the die L2 does not hold and whose page is a HOST or PEER frame. -/
def State.fetchPage (s : State) (t : Team) (g : Group) : Option (Nat × Nat) :=
  let (ws, _) := s.fetchWords (dieOf t.core) (s.ctx t.ctx).windows 5 g.pc
  let n := match decode ws with | .ok i => i.words | .error _ => ws.length + 1
  (List.range n).findSome? fun k =>
    match checkAccess (s.ctx t.ctx).windows (g.pc + 4 * k) 4 permX with
    | .ok ia =>
      if s.l2Has (dieOf t.core) (lineOf ia) (lineOfBytes (ia % 256) [0, 0, 0, 0]).1 || !s.foreign ia false then none
      else some (g.pc + 4 * k, ia)
    | .error _ => none

/-- It has kept a group from the words of its next instruction. -/
def State.fetchUnreachable (s : State) (r : GrpRef) : Option State :=
  (s.group? r).bind fun (t, g) =>
    if State.mayIssue t g && s.time ≥ g.readySince + 100000000 then (s.fetchPage t g).map fun p => s.fetchTrap r 3 p.1 else none

/-- It has kept an engine operation from the page of its next access. -/
def State.opUnreachable (s : State) (id : Nat) : Option State :=
  (s.ops.find? id).bind fun o =>
    if (s.mayRun id o || (o.chunk.isSome && o.mode != .suspended)) && s.time ≥ max o.reached o.after + 100000000 &&
        (s.opPlaces o).any fun (ia, w) => s.opNeedsHome o ia w && s.foreign ia w
    then some (s.endOp id (stPage 3)) else none

/-- It has kept an access that a home holds from its page. -/
def State.heldUnreachable (s : State) (id : Nat) : Option State :=
  let out := fun (since ia : Nat) (write : Bool) => s.foreign ia write && s.pageDead ia && decide (s.time ≥ since + 100000000)
  let ends := match s.held.find? id with
    | some (.writeBack _ line _ _ _ _ since _) =>
      (s.heldOn line).head? == some id && s.pageDead (line * 256) && decide (s.time ≥ since + 100000000)
    | some (.store _ _ _ line _ _ _ since) => out since (line * 256) true
    | some (.rma _ i ws none since) => (rmaPlaces ws i).any fun p => out since p.1 i.writes
    | some (.peer a since) => (peerPlaces a).any fun p => out since p.1 (peerWrites a)
    | some (.node _ _ ia since) => out since ia false
    | _ => false
  if ends then some (s.heldFail id 3) else none

/-- HOME_SLOT_UNREACHABLE (R77): a HOST or PEER slot stays unreachable for 100 ms. -/
def execHomeSlotUnreachable (w : SlotRef) (s : State) : Out :=
  match (match w with
    | .lane l => s.laneUnreachable l | .fetch r => s.fetchUnreachable r | .engine op => s.opUnreachable op
    | .held id => s.heldUnreachable id) with
  | some t => .next t
  | none => notNow "HOME_SLOT_UNREACHABLE"

/-- The fetch address of a parked group: the first word that it lacks, or its current PC. -/
def State.fetchAddr (s : State) (t : Team) (g : Group) : Nat :=
  match s.nextInstr t g with
  | .absent va _ => va
  | _ => g.pc

/-- A waiter ends in ACCESS_FAULT (R103, R106 to R108). -/
def State.failWaiter (s : State) (cause : Nat) (w : Waiter) : State :=
  match w with
  | .lanes core entry uid _ =>
    if ((s.core core).log.find? entry).any fun e => e.uid == uid then s.accessFault core entry cause else s
  | .engine op => s.endOp op (stPage cause)
  | .fetch r => match s.group? r with
    | some (t, g) => (match g.wait with | .fetch _ => s.fetchTrap r cause (s.fetchAddr t g) | _ => s)
    | none => s
  | .held id => s.heldFail id cause

/-- Waiters in the order in which their entries were issued (R103). -/
def waiterOrder (l : List Waiter) : List Waiter :=
  let key := fun (w : Waiter) => match w with | .lanes _ _ uid _ => uid | _ => 0
  inOrder (fun a b => decide (key a ≤ key b)) l

/-- End every waiter of a record with a cause. -/
def State.failRec (s : State) (o : Origin) (id : Nat) (r : FaultRec) (cause : Nat) : State :=
  (waiterOrder r.waiters).foldl (fun (u : State) w => u.failWaiter cause w) (s.closeRec o id)

/-- The cause that FAIL carries: one of R105, and REFUSED where the answer names none. -/
def failCause (c : Nat) : Nat := if 1 ≤ c ∧ c ≤ 6 then c else 4

/-- RESUME: one that names no open record, or whose result is reserved, is ignored (R102, R104). -/
def State.resume (s : State) (word : W32) : State :=
  let o : Origin := { kind := word.extractLsb' 13 3, die := word.extractLsb' 10 3, unit := word.extractLsb' 6 4 }
  let id := (word.extractLsb' 16 16).toNat
  match s.rec? o id with
  | none => s
  | some r =>
    if word.extractLsb' 4 2 = 0 then (waiterOrder r.waiters).foldl (fun (u : State) w => u.release w) (s.closeRec o id)
    else if word.extractLsb' 4 2 = 1 then s.failRec o id r (failCause (word.extractLsb' 0 4).toNat)
    else s

/-- RESUME (R103). -/
def execResume (word : W32) (s : State) : Out := .next (s.resume word)

/-- FAULT_SERVICE_TIMEOUT (R104). -/
def execFaultServiceTimeout (o : Origin) (id : Nat) (s : State) : Out :=
  match s.rec? o id with
  | some r =>
    match r.posted with
    | some t => if s.time ≥ t + 2 ^ 33 then .next (s.failRec o id r 6) else notNow "FAULT_SERVICE_TIMEOUT"
    | none => notNow "FAULT_SERVICE_TIMEOUT"
  | none => notNow "FAULT_SERVICE_TIMEOUT"

/-- The RESUME word of an answer (R102). -/
def resumeWord (o : Origin) (id : Nat) (fail : Bool) : W32 :=
  BitVec.ofNat 32 (id * 2 ^ 16 + o.kind.toNat * 2 ^ 13 + o.die.toNat * 2 ^ 10 + o.unit.toNat * 2 ^ 6 + (if fail then 20 else 0))

/-- The first record of the queue that no host has claimed (R480). -/
def State.unclaimed (s : State) : Option (Origin × Nat) :=
  s.io.faultq.find? fun (o, id) => (s.rec? o id).any fun r => (s.ctx r.ctx).route.isNone

/-- The firmware's answer to a record: FAIL to a write-protect or a peer's record and to a page of no stack, else the granule
is mapped and the answer is OK, or FAIL where it cannot be mapped (R480). -/
def State.served (s : State) (o : Origin) (id : Nat) (r : FaultRec) : State :=
  if r.wp || r.peer || decide (r.page / 2 ^ 32 ≥ 8) then s.resume (resumeWord o id true) else
  let (s1, ok) := s.mapGranule (r.page / 2 ^ 32) (r.page % 2 ^ 32 * 65536)
  s1.resume (resumeWord o id (!ok))

/-- FIRMWARE_FAULT_SERVICE (R480). -/
def execFirmwareFaultService (s : State) : Out :=
  match s.unclaimed with
  | none => notNow "FIRMWARE_FAULT_SERVICE"
  | some (o, id) =>
    match s.rec? o id with
    | none => notNow "FIRMWARE_FAULT_SERVICE"
    | some r => if s.pageBusy (r.page * 65536) then notNow "FIRMWARE_FAULT_SERVICE" else .next (s.served o id r)

/-! ## Waits for package time (R83, R178) -/

/-- COMPLETION_TIME_PASSED (R83, R178): package time has passed what a group or a memory-side operation waits for, or what held an
access at its home is over, or a store has reached another die's scratchpad. -/
def execCompletionTimePassed (w : WaitRef) (s : State) : Out :=
  match w with
  | .memOp n => match s.msPassed n with | some t => .next t | none => notNow "COMPLETION_TIME_PASSED"
  | .held id => if s.heldReady id then .next (s.heldAgain id) else notNow "COMPLETION_TIME_PASSED"
  | .group r =>
    match s.group? r with
    | some (_, g) =>
      match g.wait with
      | .time t =>
        if t < s.time && g.mode != .stopped then .next (s.updGroup r fun g => g.wake s.time)
        else notNow "COMPLETION_TIME_PASSED"
      | .through die mark t =>
        if t < s.time && s.through die mark && g.mode != .stopped then .next (s.updGroup r fun g => g.wake s.time)
        else notNow "COMPLETION_TIME_PASSED"
      | _ => notNow "COMPLETION_TIME_PASSED"
    | none => notNow "COMPLETION_TIME_PASSED"

end Sys2Proof.Machine
end

