-- ==== Sys2Proof/Machine/Digest.lean ====
section
/-! DEFINITION. The SHAKE256 function of R9, by which dawn measures its firmware images (R455, R456) and on which the signatures of
R455 and R457 rest. The spec names the function; its definition is that of FIPS 202 (log 79), written here over one word of 1,600 bits. -/
namespace Sys2Proof.Machine
open Sys2Proof

/-- A step of the register that yields the bits of the round constants: x^8 + x^6 + x^5 + x^4 + 1. -/
def roundBit (r : Nat) : Nat := if r < 128 then 2 * r else (2 * r) ^^^ 0x171

/-- `n` bits of the register's output from `r` on, bit number `j` standing at place 2^j - 1 of the constant; and the register after them. -/
def constantFrom : Nat → Nat → Nat → Nat × Nat
  | 0, _, r => (0, r)
  | n + 1, j, r =>
    let (c, r1) := constantFrom n (j + 1) (roundBit r)
    (c + (r % 2) * 2 ^ (2 ^ j - 1), r1)

/-- The constants of `n` rounds. -/
def roundConstants : Nat → Nat → List W64
  | 0, _ => []
  | n + 1, r => let (c, r1) := constantFrom 7 0 r; BitVec.ofNat 64 c :: roundConstants n r1

/-- The walk over the 24 lanes other than (0, 0): each lane as 5y + x with its rotation, and the lane that it moves to. -/
def laneWalk : Nat → Nat → Nat → Nat → List (Nat × Nat × Nat)
  | 0, _, _, _ => []
  | n + 1, t, x, y =>
    let y1 := (2 * x + 3 * y) % 5
    (5 * y + x, (t + 1) * (t + 2) / 2 % 64, 5 * y1 + y) :: laneWalk n (t + 1) y y1

/-- A lane of the state. -/
def stateLane (a : BitVec 1600) (n : Nat) : W64 := a.extractLsb' (64 * n) 64
/-- The state of 25 lanes. -/
def packLanes (f : Nat → W64) : BitVec 1600 :=
  BitVec.ofNat 1600 ((List.range 25).foldr (fun i n => (f i).toNat + 2 ^ 64 * n) 0)

/-- A lane's column parity, and what the parities of the columns beside it add to each of its lanes. -/
def columnParity (a : BitVec 1600) (x : Nat) : W64 := (List.range 5).foldl (fun p y => p ^^^ stateLane a (5 * y + x)) 0
def besideColumn (ps : List W64) (x : Nat) : W64 := ps.getD ((x + 4) % 5) 0 ^^^ (ps.getD ((x + 1) % 5) 0).rotateLeft 1

/-- One round under its constant: parities, the walk of the lanes, and the rows. -/
def permuteRound (walk : List (Nat × Nat × Nat)) (a : BitVec 1600) (constant : W64) : BitVec 1600 :=
  let ps := (List.range 5).map (columnParity a)
  let beside := (List.range 5).map (besideColumn ps)
  let mixed := fun (n : Nat) => stateLane a n ^^^ beside.getD (n % 5) 0
  let moved := walk.foldl (fun (m : BitVec 1600) (from_, by_, to_) =>
    m ||| ((mixed from_).rotateLeft by_).setWidth 1600 <<< (64 * to_)) ((mixed 0).setWidth 1600)
  packLanes (fun n =>
    let row := n / 5 * 5
    let near := stateLane moved (row + (n % 5 + 1) % 5)
    let far := stateLane moved (row + (n % 5 + 2) % 5)
    stateLane moved n ^^^ (far &&& ~~~near)) ^^^ constant.setWidth 1600

/-- The permutation of FIPS 202 over 24 rounds. -/
def permute (a : BitVec 1600) : BitVec 1600 := (roundConstants 24 1).foldl (permuteRound (laneWalk 24 0 1 0)) a

/-- The state after a message: whole blocks of 136 bytes, then the last one with its domain bits and its padding. -/
def absorb : Nat → List Byte → BitVec 1600 → BitVec 1600
  | 0, _, a => a
  | n + 1, m, a =>
    if m.length < 136 then permute (a ^^^ BitVec.ofNat 1600 (leNat m + 0x1F * 2 ^ (8 * m.length) + 0x80 * 2 ^ (8 * 135)))
    else absorb n (m.drop 136) (permute (a ^^^ BitVec.ofNat 1600 (leNat (m.take 136))))

/-- The state from which SHAKE256 of a message is read. -/
def shakeState (m : List Byte) : BitVec 1600 := absorb (m.length / 136 + 1) m 0

/-- The first `n` bytes of SHAKE256, at most 136. -/
def shakeBytes (n : Nat) (m : List Byte) : List Byte := leBytes n (shakeState m).toNat

/-- The first 512 bits of SHAKE256, its first byte the least significant (R455). -/
def shake256 (m : List Byte) : BitVec 512 := (shakeState m).setWidth 512

end Sys2Proof.Machine
end

