-- ==== Sys2Proof/Machine/Signature.lean ====
section
/-! DEFINITION. SLH-DSA-SHAKE-256s, by which dawn checks its images and by which the module signs its reports (R9, R455, R457). The
spec names the scheme; its definition is that of FIPS 205, pure and with an empty context string (log 96). -/
namespace Sys2Proof.Machine
open Sys2Proof

/-! ## Bytes and parameters: n = 32, h = 64, d = 8, a = 14, k = 22, w = 16 -/

/-- The `n` big-endian bytes of a value, and the value of such bytes. -/
def bigBytes (n v : Nat) : List Byte := (leBytes n v).reverse
def bigNat (bs : List Byte) : Nat := leNat bs.reverse

/-- Word number `i` of 32 bytes. -/
def word32 (bs : List Byte) (i : Nat) : List Byte := (bs.drop (32 * i)).take 32

/-- The address of a hash: layer, tree, kind, and three words. -/
structure HashAdrs where
  layer : Nat := 0
  tree : Nat := 0
  kind : Nat := 0
  pair : Nat := 0
  mid : Nat := 0
  last : Nat := 0
deriving DecidableEq, Repr

def HashAdrs.bytes (a : HashAdrs) : List Byte :=
  bigBytes 4 a.layer ++ bigBytes 12 a.tree ++ bigBytes 4 a.kind ++ bigBytes 4 a.pair ++ bigBytes 4 a.mid ++ bigBytes 4 a.last

/-- The hash of bytes under a public seed and an address. -/
def seededHash (seed : List Byte) (a : HashAdrs) (m : List Byte) : List Byte := shakeBytes 32 (seed ++ a.bytes ++ m)

/-- Digits of `b` bits of bytes, the most significant first. -/
def bigDigits (b count : Nat) (bs : List Byte) : List Nat :=
  (List.range count).map fun i => bigNat bs / 2 ^ (8 * bs.length - b * (i + 1)) % 2 ^ b

/-! ## One-time signatures -/

/-- `n` further steps of a hash chain from step `i` on. -/
def hashChain (seed : List Byte) (a : HashAdrs) : Nat → Nat → List Byte → List Byte
  | 0, _, x => x
  | n + 1, i, x => hashChain seed a n (i + 1) (seededHash seed { a with last := i } x)

/-- The 67 digits of a message of 32 bytes with its checksum. -/
def chainDigits (m : List Byte) : List Nat :=
  let ds := bigDigits 4 64 m
  let sum := (ds.map fun d => 15 - d).sum
  ds ++ [sum / 256, sum / 16 % 16, sum % 16]

/-- The public key of 67 chain ends. -/
def chainsKey (seed : List Byte) (a : HashAdrs) (ends : List (List Byte)) : List Byte :=
  seededHash seed { a with kind := 1, mid := 0, last := 0 } ends.flatten

/-- The public key that a one-time signature of a message names. -/
def oneTimeKey (seed : List Byte) (a : HashAdrs) (sig m : List Byte) : List Byte :=
  chainsKey seed a ((chainDigits m).zipIdx.map fun (d, i) => hashChain seed { a with kind := 0, mid := i } (15 - d) d (word32 sig i))

/-- The secret start of a chain. -/
def chainSecret (seed secret : List Byte) (a : HashAdrs) (i : Nat) : List Byte :=
  seededHash seed { a with kind := 5, mid := i, last := 0 } secret

def oneTimeSign (seed secret : List Byte) (a : HashAdrs) (m : List Byte) : List Byte :=
  (chainDigits m).zipIdx.flatMap fun (d, i) => hashChain seed { a with kind := 0, mid := i } d 0 (chainSecret seed secret a i)

def oneTimePublic (seed secret : List Byte) (a : HashAdrs) : List Byte :=
  chainsKey seed a ((List.range 67).map fun i => hashChain seed { a with kind := 0, mid := i } 15 0 (chainSecret seed secret a i))

/-! ## Trees -/

/-- The root that a leaf and the nodes beside its path name; `a` gives the kind of the tree and its words but height and index. -/
def pathRoot (seed : List Byte) (a : HashAdrs) : Nat → Nat → List (List Byte) → List Byte → List Byte
  | _, _, [], x => x
  | height, idx, s :: rest, x =>
    let pair := if idx % 2 = 0 then x ++ s else s ++ x
    pathRoot seed a (height + 1) (idx / 2) rest (seededHash seed { a with mid := height + 1, last := idx / 2 } pair)

/-- A node of a tree whose leaves a function gives. -/
def treeNode (seed : List Byte) (a : HashAdrs) (leaf : Nat → List Byte) : Nat → Nat → List Byte
  | 0, idx => leaf idx
  | height + 1, idx =>
    seededHash seed { a with mid := height + 1, last := idx } (treeNode seed a leaf height (2 * idx) ++ treeNode seed a leaf height (2 * idx + 1))

/-- The nodes beside the path of a leaf, `n` of them from a height on. -/
def besidePath (seed : List Byte) (a : HashAdrs) (leaf : Nat → List Byte) : Nat → Nat → Nat → List Byte
  | 0, _, _ => []
  | n + 1, height, idx => treeNode seed a leaf height (idx ^^^ 1) ++ besidePath seed a leaf n (height + 1) (idx / 2)

/-- The root of a tree of one-time keys that a signature names: 67 + 8 words. -/
def layerRoot (seed : List Byte) (layer tree idx : Nat) (sig m : List Byte) : List Byte :=
  let a : HashAdrs := { layer := layer, tree := tree }
  pathRoot seed { a with kind := 2 } 0 idx ((List.range 8).map fun i => word32 sig (67 + i)) (oneTimeKey seed { a with pair := idx } sig m)

def layerLeaf (seed secret : List Byte) (layer tree : Nat) (i : Nat) : List Byte :=
  oneTimePublic seed secret { layer := layer, tree := tree, pair := i }

def layerSign (seed secret : List Byte) (layer tree idx : Nat) (m : List Byte) : List Byte :=
  let a : HashAdrs := { layer := layer, tree := tree }
  oneTimeSign seed secret { a with pair := idx } m ++ besidePath seed { a with kind := 2 } (layerLeaf seed secret layer tree) 8 0 idx

/-- The root of the top tree that the layers' signatures name, `n` of them from a layer on. -/
def layersRoot (seed : List Byte) : Nat → Nat → Nat → Nat → List Byte → List Byte → List Byte
  | 0, _, _, _, _, m => m
  | n + 1, layer, tree, idx, sig, m =>
    layersRoot seed n (layer + 1) (tree / 256) (tree % 256) (sig.drop (75 * 32)) (layerRoot seed layer tree idx sig m)

def layersSign (seed secret : List Byte) : Nat → Nat → Nat → Nat → List Byte → List Byte
  | 0, _, _, _, _ => []
  | n + 1, layer, tree, idx, m =>
    let sig := layerSign seed secret layer tree idx m
    sig ++ layersSign seed secret n (layer + 1) (tree / 256) (tree % 256) (layerRoot seed layer tree idx sig m)

/-! ## The few-time signature of the digest -/

/-- The key that 22 secrets with their paths name, 15 words each. -/
def forestKey (seed : List Byte) (a : HashAdrs) (sig : List Byte) (idx : List Nat) : List Byte :=
  let root := fun ((v, i) : Nat × Nat) =>
    pathRoot seed a 0 (i * 2 ^ 14 + v) ((List.range 14).map fun j => word32 sig (15 * i + 1 + j))
      (seededHash seed { a with mid := 0, last := i * 2 ^ 14 + v } (word32 sig (15 * i)))
  seededHash seed { a with kind := 4, mid := 0, last := 0 } (idx.zipIdx.flatMap root)

def forestSecret (seed secret : List Byte) (a : HashAdrs) (i : Nat) : List Byte :=
  seededHash seed { a with kind := 6, mid := 0, last := i } secret

def forestSign (seed secret : List Byte) (a : HashAdrs) (idx : List Nat) : List Byte :=
  let leaf := fun (i : Nat) => seededHash seed { a with mid := 0, last := i } (forestSecret seed secret a i)
  idx.zipIdx.flatMap fun (v, i) => forestSecret seed secret a (i * 2 ^ 14 + v) ++ besidePath seed a leaf 14 0 (i * 2 ^ 14 + v)

/-! ## Signatures -/

/-- What a message's digest selects: the 22 indices, the tree and the leaf. -/
def selected (r seed root m : List Byte) : List Nat × Nat × Nat :=
  let d := shakeBytes 47 (r ++ seed ++ root ++ m)
  (bigDigits 14 22 (d.take 39), bigNat ((d.drop 39).take 7), bigNat (d.drop 46))

/-- The message under the pure scheme with an empty context string. -/
def pureMessage (m : List Byte) : List Byte := [0, 0] ++ m

/-- A signature of 29,792 bytes is that of a message under a public key of 64 bytes. -/
def verifies (key m sig : List Byte) : Bool :=
  let seed := key.take 32
  let root := key.drop 32
  let (idx, tree, leaf) := selected (word32 sig 0) seed root (pureMessage m)
  let a : HashAdrs := { tree := tree, kind := 3, pair := leaf }
  sig.length == 29792 &&
    layersRoot seed 8 0 tree leaf (sig.drop (331 * 32)) (forestKey seed a (sig.drop 32) idx) == root

/-- The root of a key pair's public key. -/
def publicRoot (seed secret : List Byte) : List Byte :=
  treeNode seed { layer := 7, kind := 2 } (layerLeaf seed secret 7 0) 8 0

/-- The signature of a message, with 32 bytes of its signer's choice. -/
def signs (seed secret prf choice m : List Byte) : List Byte :=
  let m1 := pureMessage m
  let r := shakeBytes 32 (prf ++ choice ++ m1)
  let (idx, tree, leaf) := selected r seed (publicRoot seed secret) m1
  let a : HashAdrs := { tree := tree, kind := 3, pair := leaf }
  let few := forestSign seed secret a idx
  r ++ few ++ layersSign seed secret 8 0 tree leaf (forestKey seed a few idx)

end Sys2Proof.Machine
end

