-- ==== Sys2Proof/Machine/Link.lean ====
section
/-! DEFINITION. The host link (R64, R66, R79 to R83, R102, R268, R388 to R398, R410, R422, R426, R428, R443 to R457): dawn,
package time, links and every Plierrov message. -/
namespace Sys2Proof.Machine
open Sys2Proof

/-! ## Dawn (R455, R456) -/

def dawnReady : Nat := 0x80
def dawnFailed : Nat := 0xFF

/-- What power-up leaves of the state: the outside world's memories, links and measurements, package time and the model's own counters. -/
def State.powerUp (s : State) : State :=
  { State.reset with time := s.time, turns := s.turns, fresh := s.fresh, next := s.next, ext := s.ext, extPoison := s.extPoison,
                     peerAbsent := s.peerAbsent, badFrames := s.badFrames, deadSlots := s.deadSlots, draws := s.draws, out := s.out, net := s.net }

def State.dawnAt (s : State) (step : Nat) : State := s.updIo fun io => { io with dawn := step }

/-- The firmware images in the order of step 2. -/
def dawnImages (i : DawnInput) : List Image := [i.ioDie, i.power, i.faultService, i.memorySide]

/-- The image's entry of the measurement log (R456). -/
def imageEntry (x : Image) (index : Nat) : Measured := { image := x.id, index := index, version := x.version, digest := shake256 x.bytes }

/-- The bytes of the key that checks images. -/
def firmwareKey : List Byte := bigBytes 64 Config.firmwareKey.toNat

/-- Dawn ends: READY, or FAILED. -/
def State.dawnFails (s : State) : State := s.updIo fun io => { io with dawn := dawnFailed, dawning := none, ptpWait := none }

/-- Step 1: the security processor starts, or the module stays silent. -/
def State.dawnStarts (s : State) (inp : DawnInput) : State :=
  if inp.silent then s.updIo fun io => { io with failed := true, dawning := none } else s.dawnAt 2

/-- Steps 2 and 3: the digest of the next image enters the log before its signature is checked (R457). -/
def State.dawnChecks (s : State) (inp : DawnInput) : State :=
  match (dawnImages inp)[s.io.log.length]? with
  | none => s.dawnAt 3
  | some x =>
    let s1 := s.updIo fun io => { io with log := io.log ++ [imageEntry x io.log.length] }
    if verifies firmwareKey x.bytes x.signature then s1 else s1.dawnFails

/-- Clusters that come up: all but those whose four columns are dead (R442). -/
def dawnClusters (dead : List Nat) (time : Nat) : Sp Cluster :=
  (List.range 128).map fun c =>
    (c, { phys := if (List.range 4).all fun i => dead.contains (c * 4 + i) then none else some (c % 16), base := time })

/-- Step 4: the columns that work; without any, no compute die remains. -/
def State.dawnBuilds (s : State) (inp : DawnInput) : State :=
  if (List.range 512).all fun c => inp.deadColumns.contains c then s.dawnFails
  else { s with clusters := dawnClusters inp.deadColumns s.time, io := { s.io with dawn := 5, deadCols := inp.deadColumns.filter (· < 512) } }

/-- MS_CAP of a home: whole pages of its stack, which is 96 GiB at most (R5, R79). -/
def stackCap (n : Nat) : Nat := min (n / 2 ^ 16 * 2 ^ 16) 0x1800000000

/-- Step 5: the memory of each home. -/
def State.dawnTrains (s : State) (inp : DawnInput) : State :=
  (allHomes.foldl (fun (u : State) h => u.updHome h fun x => { x with cap := stackCap (inp.cap.getD h 0) }) s).dawnAt 6

/-- Step 6 begins: the ports are up, and PTP lock is found at once or sought (R454). -/
def State.dawnPorts (s : State) (inp : DawnInput) : State :=
  s.updIo fun io =>
    if inp.ptpLocked then { io with deadPorts := inp.deadPorts, ptp := .locked, everLocked := true, lastSync := s.time, dawn := 7 }
    else { io with deadPorts := inp.deadPorts, ptpWait := some s.time }

/-- Step 7: the endpoints of the configuration image are bound, or dawn fails. -/
def State.dawnBinds (s : State) (inp : DawnInput) : State :=
  match inp.config with
  | none => s.dawnFails
  | some (a, b, c) => ({ s with clusters := s.clusters.map fun ((k, c) : Nat × Cluster) => (k, { c with base := s.time, sampled := s.time }) } : State).updIo fun io =>
      { io with dawn := dawnReady, dawning := none, ptpWait := none, ctl := (a, b), coll := c, heard := Sp.put (Sp.put [] a s.time) b s.time,
                kept := s.time, power := { io.power with mark := s.time / 1000000 } }

/-- The step of a dawn under way takes place; step 6 waits for lock or for its 2 s. -/
def State.dawnStep (s : State) : Option State :=
  match s.io.dawning with
  | none => none
  | some inp =>
    match s.io.dawn with
    | 1 => some (s.dawnStarts inp)
    | 2 => some (s.dawnChecks inp)
    | 3 => some (s.dawnAt 4)
    | 4 => some (s.dawnBuilds inp)
    | 5 => some (s.dawnTrains inp)
    | 6 => if s.io.ptpWait.isSome then none else some (s.dawnPorts inp)
    | 7 => some (s.dawnBinds inp)
    | _ => none

/-- DAWN: power-up. Step 1 is under way, and the steps that follow meet what the outside world holds for them. -/
def execDawn (inp : DawnInput) (s : State) : Out := .next (s.powerUp.updIo fun io => { io with dawning := some inp })

/-- DAWN_PTP_WAIT_EXPIRY (R455): step 6 has lasted 2 s, and step 7 is under way. -/
def execDawnPtpWaitExpiry (s : State) : Out :=
  match s.io.ptpWait with
  | some t =>
    if s.io.dawn = 6 ∧ s.time ≥ t + 2000000000 then .next (s.updIo fun io => { io with dawn := 7, ptpWait := none })
    else notNow "DAWN_PTP_WAIT_EXPIRY"
  | none => notNow "DAWN_PTP_WAIT_EXPIRY"

/-! ## Package time (R453, R454) -/

/-- A valid sync message gives the correction; within 50 ns it locks. The clock is slewed, so time does not step. -/
def State.synced (s : State) (offset : Int) : State :=
  let near := decide (-50 ≤ offset) && decide (offset ≤ 50)
  let s1 := s.updIo fun io =>
    { io with offset := offset, lastSync := s.time, everLocked := io.everLocked || near,
              ptp := if near then .locked else if io.everLocked then .holdover else .unlocked }
  if s.io.dawn = 6 ∧ near then s1.updIo fun io => { io with dawn := 7, ptpWait := none } else s1

/-- PTP_SYNC. -/
def execPtpSync (offset : Int) (s : State) : Out :=
  if s.io.dawn < 6 ∨ s.io.dawn = dawnFailed then notNow "PTP_SYNC" else .next (s.synced offset)

/-- PTP_HOLDOVER (R454): 1 s without a valid sync message. -/
def execPtpHoldover (s : State) : Out :=
  if s.io.ptp = .locked ∧ s.time ≥ s.io.lastSync + 1000000000 then .next (s.updIo fun io => { io with ptp := .holdover })
  else notNow "PTP_HOLDOVER"

/-! ## Links (R444, R452) -/

/-- A keep-alive goes to each controlling endpoint. -/
def State.keptAlive (s : State) : State :=
  { s with net := s.net ++ [NetOut.keepalive s.io.ctl.1, NetOut.keepalive s.io.ctl.2], io := { s.io with kept := s.time } }

/-- KEEPALIVE: every 10 ms. -/
def execKeepalive (s : State) : Out :=
  if s.io.dawn = dawnReady ∧ s.time ≥ s.io.kept + 10000000 then .next s.keptAlive else notNow "KEEPALIVE"

/-- The message is a reply. -/
def Msg.isReply (m : Msg) : Bool := m.type.getLsbD 15 && decide (m.type.toNat < 0x9000)

/-- Replies still due to an endpoint are dropped: a request that waits names endpoint 0 from now on. -/
def State.dropReplies (s : State) (ep : Nat) : State :=
  let lose := fun (r : Req) => if r.ep = ep then { r with ep := 0 } else r
  let held := fun ((k, h) : Nat × HeldAccess) => (k, match h with | .rma r i ws b t => HeldAccess.rma (lose r) i ws b t | h => h)
  let ctx := fun ((k, c) : Nat × Context) => (k, { c with acks := c.acks.map fun ((r, l) : Req × List Nat) => (lose r, l) })
  { s with out := s.out.filter fun m => !(m.ep == ep && m.isReply && decide (m.time > s.time)), held := s.held.map held, contexts := s.contexts.map ctx,
           io := { s.io with attests := s.io.attests.map fun ((r, n) : Req × BitVec 256) => (lose r, n) },
           memOps := s.memOps.map fun m => { m with req := lose m.req, held := m.held.map fun (k, r, i, ws) => (k, lose r, i, ws) } }

/-- A link is lost: replies due to its endpoint are dropped, and the semaphore that it holds is free. -/
def State.linkLost (s : State) (ep : Nat) : State :=
  (s.dropReplies ep).updIo fun io => { io with sem := if io.sem = some ep then none else io.sem, lost := ep :: io.lost }

/-- LINK_LOSS: no acknowledged traffic of a controlling endpoint for 100 ms. -/
def execLinkLoss (ep : Nat) (s : State) : Out :=
  if s.io.dawn = dawnReady ∧ (ep = s.io.ctl.1 ∨ ep = s.io.ctl.2) ∧ !s.io.lost.contains ep ∧ s.time ≥ s.io.heard.get 0 ep + 100000000 then
    .next (s.linkLost ep)
  else notNow "LINK_LOSS"

/-- CONNECTION_REQUEST (R444): modes 0 ROD and 1 RUD are supported, 2 RUDI and 3 UUD are not. -/
def execConnectionRequest (ep : Nat) (mode : BitVec 2) (s : State) : Out :=
  if s.io.failed then .next s else .next { s with net := s.net ++ [NetOut.connection ep (decide (mode.toNat < 2))] }

/-! ## The checks of every message (R447, R448) -/

/-- Who may send a type. -/
inductive Who where
  | any | ctl | sem
deriving DecidableEq, Repr

/-- Traffic of an endpoint has arrived, or it has acknowledged the device's: its link is up (R452). -/
def State.linkUp (s : State) (ep : Nat) : State :=
  s.updIo fun io => { io with heard := io.heard.put ep s.time, lost := io.lost.filter (· != ep) }
def State.heard (s : State) (r : Req) : State := s.linkUp r.ep

/-- The header of a request is as R446 has it, and the body has the bytes that its type needs at least (R450). -/
def headerOk (r : Req) (need : Nat) : Bool :=
  r.ver == 1 && r.zero == 0 && r.status == 0 && r.time == 0 && r.length % 8 == 0 && decide (32 + need ≤ r.length) && decide (r.length ≤ 65536)

/-- The bytes that the body of a type has, without those that its fields add to it (R450). -/
def bodyNeed (type : BitVec 16) : Nat :=
  match type.toNat with
  | 0x02 | 0x20 | 0x42 | 0x50 => 32
  | 0x22 => 40
  | 0x30 => 256
  | 0x31 | 0x40 | 0x41 | 0x64 => 16
  | 0x60 => 48
  | 0x61 | 0x62 => 24
  | 0x65 => 128
  | 0x23 | 0x24 | 0x32 | 0x33 | 0x51 | 0x63 | 0x66 => 8
  | _ => 0

/-- The body is shorter than its fields make it. -/
def bodyShort (r : Req) (need : Nat) : Bool := decide (r.length < 32 + need)

/-- The message keeps to R446 and R450, and its header names a context that stands, or none where none is needed (R446, R448). -/
def State.sound (s : State) (r : Req) (needCtx : Bool) : Bool :=
  !r.broken && ((s.contexts.find? r.ctx).isSome || (!needCtx && decide (r.ctx = 0)))
/-- Before the end of dawn STATUS is answered, and ATTEST once its step 2 is over (R448, R456). -/
def State.awake (s : State) (type : BitVec 16) : Bool := s.io.dawn == dawnReady || type == 1 || (type == 2 && s.io.dawn != 1)
def State.controls (s : State) (who : Who) (ep : Nat) : Bool := who == .any || ep == s.io.ctl.1 || ep == s.io.ctl.2
def State.holdsSem (s : State) (who : Who) (ep : Nat) : Bool := who != .sem || s.io.sem == some ep

/-- A message of a type: the refusals of R448 in the order of their codes, then what the type does. A module that failed at
its I/O die answers nothing (R440). -/
def State.hostMsg (s : State) (r : Req) (type : BitVec 16) (who : Who) (needCtx bad : Bool) (go : State → State) : Out :=
  .next (
    if s.io.failed then s
    else if !s.awake type then (s.heard r).reply r type stNotReady []
    else if !s.controls who r.ep then (s.heard r).reply r type stNotControlling []
    else if !s.holdsSem who r.ep then (s.heard r).reply r type stNoSemaphore []
    else if bad || !headerOk r (bodyNeed type) || !s.sound r needCtx then (s.heard r).reply r type stBadMessage []
    else go (s.heard r))

/-- The request types of R447. -/
def requestTypes : List Nat :=
  [0x01, 0x02, 0x10, 0x11, 0x20, 0x21, 0x22, 0x23, 0x24, 0x30, 0x31, 0x32, 0x33, 0x40, 0x41, 0x42, 0x50, 0x51, 0x60, 0x61, 0x62, 0x63, 0x64,
   0x65, 0x66]

/-- UNKNOWN_MESSAGE (R448). -/
def execUnknownMessage (r : Req) (type : BitVec 16) (s : State) : Out :=
  if requestTypes.contains type.toNat then notNow "UNKNOWN_MESSAGE" else s.hostMsg r type .any false true id

def ptpCode : Ptp → Nat
  | .unlocked => 0
  | .locked => 1
  | .holdover => 2

/-- STATUS (R450). -/
def State.onStatus (u : State) (r : Req) : State :=
  u.reply r 0x01 stOk [packWord [(u.io.dawn, 0), (ptpCode u.io.ptp, 8)], BitVec.ofInt 64 u.io.offset, BitVec.ofNat 64 u.io.ctl.1,
    BitVec.ofNat 64 u.io.ctl.2, BitVec.ofNat 64 (u.io.sem.getD 0), BitVec.ofNat 64 u.io.coll]

/-- STATUS: its checks, then what it does (R448). -/
def execStatus (r : Req) (s : State) : Out :=
  s.hostMsg r 0x01 .any false false fun u => u.onStatus r

/-! ## Attestation (R456, R457) -/

def splitWords (n : Nat) (v : Nat) : List W64 := (List.range n).map fun i => BitVec.ofNat 64 (v / 2 ^ (64 * i))

/-- One entry of the log, 80 bytes. -/
def Measured.words (m : Measured) : List W64 := packWord [(m.index, 0), (m.image.toNat, 32)] :: m.version :: splitWords 8 m.digest.toNat

/-- The bytes of a seed, and the public key of two seeds: the public one and its root. -/
def seedBytes (b : BitVec 256) : List Byte := bigBytes 32 b.toNat
def publicKey (seed secret : BitVec 256) : List Byte := seedBytes seed ++ publicRoot (seedBytes seed) (seedBytes secret)

/-- A signature with the device identity key. -/
def identitySigns (n : Nat) (m : List Byte) : List Byte :=
  signs (seedBytes Config.identitySeed) (seedBytes Config.identitySecret) (seedBytes Config.identityPrf) (seedBytes (Config.signerChoice n)) m

/-- The report, signed over every byte before the signature, which is 29,792 bytes long. -/
def State.attestation (s : State) (nonce : BitVec 256) : List W64 :=
  let head := packWord [(1, 56), (s.io.dawn, 8), (s.io.log.length % 256, 0)] :: BitVec.ofNat 64 s.time :: splitWords 4 nonce.toNat
  let body := head ++ bytesWords 8 (publicKey Config.identitySeed Config.identitySecret) ++ s.io.log.flatMap Measured.words
  body ++ bytesWords 3724 (identitySigns s.fresh (wordBytes body))

/-- ATTEST: the security processor holds up to 16 requests. -/
def State.onAttest (u : State) (r : Req) (nonce : BitVec 256) : State :=
  if u.io.attests.length ≥ 16 then u.reply r 0x02 stBusy [] else u.updIo fun io => { io with attests := io.attests ++ [(r, nonce)] }

/-- The oldest request that the security processor holds is served. -/
def State.attestStep (s : State) : Option State :=
  match s.io.attests with
  | [] => none
  | (r, nonce) :: rest => some (({ s with fresh := s.fresh + 1, io := { s.io with attests := rest } } : State).reply r 0x02 stOk (s.attestation nonce))

/-- ATTEST: its checks, then what it does (R448). -/
def execAttest (r : Req) (nonce : BitVec 256) (s : State) : Out :=
  s.hostMsg r 0x02 .any false false fun u => u.onAttest r nonce

/-! ## The semaphore (R452) -/

def State.semReply (s : State) (r : Req) (type : BitVec 16) : State := s.reply r type stOk [BitVec.ofNat 64 (s.io.sem.getD 0)]

/-- SEM_CLAIM. -/
def State.onSemClaim (u : State) (r : Req) : State :=
  (u.updIo fun io => { io with sem := some (io.sem.getD r.ep) }).semReply r 0x10

/-- SEM_CLAIM: its checks, then what it does (R448). -/
def execSemClaim (r : Req) (s : State) : Out :=
  s.hostMsg r 0x10 .ctl false false fun u => u.onSemClaim r

/-- SEM_RELEASE. -/
def State.onSemRelease (u : State) (r : Req) : State :=
  (u.updIo fun io => { io with sem := if io.sem = some r.ep then none else io.sem }).semReply r 0x11

/-- SEM_RELEASE: its checks, then what it does (R448). -/
def execSemRelease (r : Req) (s : State) : Out :=
  s.hostMsg r 0x11 .ctl false false fun u => u.onSemRelease r

/-! ## Contexts (R133, R388, R441, R447) -/

/-- A reply whose body is one word. -/
def State.answer (s : State) (r : Req) (type : BitVec 16) (v : Nat) : State := s.reply r type stOk [BitVec.ofNat 64 v]

/-- What makes the body of CONTEXT_CREATE bad (R447). -/
def contextCreateBad (ctx : Nat) (area : Nat) (quotas : List Nat) : Bool :=
  ctx == 0 || decide (ctx > 65535) || decide (area ≥ 2 ^ 52) || area % 2048 != 0 || quotas.length != 8 || quotas.any (decide <| 65536 ≤ ·)

/-- CONTEXT_CREATE. -/
def State.onContextCreate (u : State) (r : Req) (ctx : Nat) (area : Nat) (quotas : List Nat) : State :=
  if (u.contexts.find? ctx).isSome then u.answer r 0x20 1
  else if u.contexts.length ≥ 1024 then u.answer r 0x20 2
  else (u.setCtx ctx { windows := (List.range 8).map fun _ => [0, 0, 0, 0], area := area, quotas := quotas }).answer r 0x20 0

/-- CONTEXT_CREATE: its checks, then what it does (R448). -/
def execContextCreate (r : Req) (ctx area : Nat) (quotas : List Nat) (s : State) : Out :=
  s.hostMsg r 0x20 .ctl false (contextCreateBad ctx area quotas) fun u => u.onContextCreate r ctx area quotas

/-- A team of an ended context (R235, R441). -/
def State.cancelTeam (s : State) (id : Nat) : State :=
  match s.teams.find? id with
  | none => s
  | some t => (if t.mode = .stopped then s else (s.stopTeam id).reportItem t 4 0).vacate id t

def State.cancelSaved (s : State) (id : Nat) : State :=
  match s.saved.find? id with
  | none => s
  | some v => ((({ s with saved := s.saved.erase id } : State).dropOps fun o => o.team == id).reportItem v.team 4 0).pruneGang v.team

/-- Locks of a context's lines end with it (R133). -/
def State.unlockCtx (s : State) (ctx : Nat) : State :=
  let free := fun ((k, x) : Nat × L2Line) => (k, if x.lock = some ctx then { x with lock := none } else x)
  { s with dies := s.dies.map fun ((i, d) : Nat × Die) => (i, { d with lines := d.lines.map free }) }

/-- A launch of an ended context: its other teams are CANCELLED, and it is reported and gives up its slot as its release is complete
(R189, R235, R393, R441). -/
def State.cancelGrid (s : State) (slot : Nat) (l : Launch) : State :=
  let due := s.io.irqs.filter (·.1 == slot)
  let (u, t0) := (due.foldl (fun (v : State) (k, n) => v.sendIrq k n) s).releaseDies l.dies
  let t := max t0 l.horizon
  let v := u.endLaunch slot 4 0
  v.updLaunch slot fun x => { x with releasing := some (t, v.next) }

/-- Everything a context has running ends: its teams are CANCELLED, its launches reported, children first. -/
def State.endContext (s : State) (ctx : Nat) : State :=
  let ts := (s.teams.filter fun (_, t) => t.ctx == ctx).map (·.1)
  let vs := (s.saved.filter fun (_, v) => v.team.ctx == ctx).map (·.1)
  let s1 := vs.foldl (fun (u : State) id => u.cancelSaved id) (ts.foldl (fun (u : State) id => u.cancelTeam id) s)
  let ls := inOrder (fun (a b : Nat × Launch) => decide (a.2.depth ≥ b.2.depth)) (s1.launches.filter fun (_, l) => l.ctx == ctx)
  let s2 := ls.foldl (fun (u : State) ((slot, l) : Nat × Launch) => u.cancelGrid slot l) s1
  let s3 := s2.dropOps fun o => o.ctx == ctx
  let s4 := (s3.ctx ctx).acks.foldl (fun (u : State) (q, _) => u.answer q 0x22 0) s3
  ({ s4 with graphs := s4.graphs.filter fun ((_, g) : Nat × Graph) => g.ctx != ctx,
                 held := s4.held.filter fun p => match p.2 with | .node g .. => (s4.graphs.find? g).all fun x => x.ctx != ctx | _ => true, contexts := s4.contexts.erase ctx } : State).unlockCtx ctx

/-- CONTEXT_END: the header names the context; the reply counts the teams terminated. -/
def State.onContextEnd (u : State) (r : Req) : State :=
  let n := (u.teams.filter fun (_, t) => t.ctx == r.ctx && !decide (t.mode = .stopped)).length + (u.saved.filter fun (_, v) => v.team.ctx == r.ctx).length
  (u.endContext r.ctx).answer r 0x21 n

/-- CONTEXT_END: its checks, then what it does (R448). -/
def execContextEnd (r : Req) (s : State) : Out :=
  s.hostMsg r 0x21 .ctl true false fun u => u.onContextEnd r

/-! ## Windows (R60, R64, R66) -/

/-- The refusals of R64; a LIMIT below the BASE of a window that is off spans nothing (log 75). -/
def windowBad (w0 w1 w2 w3 : W64) : Bool :=
  let base := w0.toNat
  let limit := w1.toNat
  let off := w2.toNat
  let home := w3.toNat / 2 ^ 12 % 16
  let striped := w3.getLsbD 8
  let span := limit - base
  base ≥ 2 ^ 57 || base % 65536 != 0 || limit ≥ 2 ^ 57 || limit % 65536 != 0 || off ≥ 2 ^ 51 || off % 65536 != 0 ||
    w3 &&& 0xFFFFFFFFFFFF0EC0 != 0 || (w3.getLsbD 0 && limit ≤ base) ||
    (!striped && (decide (home > 8) || decide (off + span > 2 ^ 48))) || (striped && (home != 0 || decide (off + span > 2 ^ 51))) ||
    (!striped && home == 8 && (w3.getLsbD 3 || w3.getLsbD 4))

/-- What a held access belongs to in a context: an RMA, the bytes of a CWB or of an engine operation, or a drained store, which is one with
the buffer that it came from. -/
def State.heldOf (s : State) (ctx id : Nat) (h : HeldAccess) : Option Nat :=
  match h with
  | .rma r .. => if r.ctx = ctx then some id else none
  | .writeBack _ _ _ _ _ c _ _ => if c = ctx then some id else none
  | .store _ team _ _ _ _ buffer _ =>
    let c := ((s.teams.find? team).map (·.ctx)).orElse fun _ => (s.saved.find? team).map (·.team.ctx)
    if c = some ctx then some buffer else none
  | _ => none

/-- Accesses and operations of a context that were translated before now: those of saved teams among them (R110), and the stores that the
buffers of its checkpointed teams hold (R434). -/
def State.translated (s : State) (ctx : Nat) : List Nat :=
  (s.intervals.filterMap fun (k, iv) => if iv.held.isEmpty || (s.teams.find? k).all fun t => t.ctx != ctx then none else some iv.buffer) ++
  (s.saved.flatMap fun (_, v) => (v.entries.filter fun e => e.ctx == ctx).map fun e => e.uid) ++
  (s.cores.flatMap fun (_, c) => (c.log.filter fun (_, e) => e.ctx == ctx).map fun (_, e) => e.uid) ++
    (s.ops.filter fun (_, o) => o.ctx == ctx).map (·.1) ++
    (s.held.filterMap fun (k, h) => s.heldOf ctx k h) ++
    s.memOps.flatMap fun m => (m.held.filter fun (_, r, _) => r.ctx == ctx).map (·.1)

/-- WINDOW: the window is replaced at once; the acknowledgement waits (R66). -/
def State.onWindow (u : State) (r : Req) (n : BitVec 3) (w0 : W64) (w1 : W64) (w2 : W64) (w3 : W64) : State :=
  if windowBad w0 w1 w2 w3 then u.answer r 0x22 1
  else u.updCtx r.ctx fun c =>
    { c with windows := (List.range 8).map fun i => if i = n.toNat then [w0, w1, w2, w3] else c.window i, acks := c.acks ++ [(r, u.translated r.ctx)] }

/-- WINDOW: its checks, then what it does (R448). -/
def execWindow (r : Req) (n : BitVec 3) (w0 w1 w2 w3 : W64) (s : State) : Out :=
  s.hostMsg r 0x22 .ctl true false fun u => u.onWindow r n w0 w1 w2 w3

/-- WINDOW_ACK (R66). -/
def execWindowAck (ctx : Nat) (s : State) : Out :=
  match (s.ctx ctx).acks with
  | [] => notNow "WINDOW_ACK"
  | (r, old) :: rest =>
    let now := s.translated ctx
    if old.any now.contains then notNow "WINDOW_ACK"
    else .next ((s.updCtx ctx fun c => { c with acks := rest }).answer r 0x22 0)

/-! ## Records (R102, R388) -/

/-- FAULT_ROUTE: a claim sends the context's records that still wait for an answer. -/
def State.onFaultRoute (u : State) (r : Req) (claim : Bool) : State :=
  let owner := (u.ctx r.ctx).route
  if owner.any (· != r.ep) then u.answer r 0x23 1
  else if !claim then (u.updCtx r.ctx fun c => { c with route := none }).answer r 0x23 0
  else
    let v := (u.updCtx r.ctx fun c => { c with route := some r.ep }).answer r 0x23 0
    if owner.isSome then v
    else v.io.faultq.foldl (fun (w : State) (o, id) => match w.rec? o id with
      | some q => if q.ctx = r.ctx then w.tellRecord o id q else w
      | none => w) v

/-- FAULT_ROUTE: its checks, then what it does (R448). -/
def execFaultRoute (r : Req) (claim : Bool) (s : State) : Out :=
  s.hostMsg r 0x23 .ctl true false fun u => u.onFaultRoute r claim

/-- Records held on the I/O die take the slots that are free; their messages were sent when they were made. -/
def State.writeHeld (s : State) (ctx : Nat) : List (List W64) → State
  | [] => s
  | ws :: rest =>
    let c := s.ctx ctx
    match (List.range 256).find? fun i => !c.used.contains i with
    | none => s
    | some i =>
      ((s.hostWrite (c.area + 2048 * i) 16 (wordBytes ws)).updCtx ctx fun c => { c with used := i :: c.used, heldRecs := rest }).writeHeld ctx rest

/-- What makes the body of RECORD_FREE bad (R447). -/
def recordFreeBad (first : Nat) (count : Nat) : Bool :=
  decide (first > 255) || count == 0 || decide (first + count > 256)

/-- RECORD_FREE. -/
def State.onRecordFree (u : State) (r : Req) (first : Nat) (count : Nat) : State :=
  let v := u.updCtx r.ctx fun c => { c with used := c.used.filter fun i => !(decide (first ≤ i) && decide (i < first + count)) }
  (v.writeHeld r.ctx (v.ctx r.ctx).heldRecs).reply r 0x24 stOk []

/-- RECORD_FREE: its checks, then what it does (R448). -/
def execRecordFree (r : Req) (first count : Nat) (s : State) : Out :=
  s.hostMsg r 0x24 .ctl true (recordFreeBad first count) fun u => u.onRecordFree r first count

/-! ## Launches and graphs (R268, R390, R393 to R398) -/

/-- What makes the body of PLIERROV_LAUNCH bad (R447). -/
def plierrovLaunchBad (packet : List W64) : Bool :=
  packet.length != 32

/-- PLIERROV_LAUNCH: the status, and the launch slot where it is accepted. -/
def State.onPlierrovLaunch (u : State) (r : Req) (packet : List W64) : State :=
  match parsePacket packet none with
  | none => u.answer r 0x30 4
  | some p => match u.accept r.ctx p none 0 none with
    | none => u.answer r 0x30 2
    | some (slot, v) => v.reply r 0x30 stOk [packWord [(0, 0), (slot, 16)]]

/-- PLIERROV_LAUNCH: its checks, then what it does (R448). -/
def execPlierrovLaunch (r : Req) (packet : List W64) (s : State) : Out :=
  s.hostMsg r 0x30 .ctl true (plierrovLaunchBad packet) fun u => u.onPlierrovLaunch r packet

/-- What makes the body of THRESHOLD bad (R447). -/
def thresholdBad (launch : Nat) (counter : Nat) (thr : Nat) : Bool :=
  decide (launch ≥ 4096) || decide (counter > 383) || decide (thr ≥ 2 ^ 48)

/-- THRESHOLD (R268). -/
def State.onThreshold (u : State) (r : Req) (launch : Nat) (counter : Nat) (thr : Nat) : State :=
  match u.launches.find? launch with
  | none => u.answer r 0x31 1
  | some _ =>
    ((u.updLaunch launch fun l => { l with thresholds := l.thresholds.set 0 counter thr, fired := l.fired.filter (· != counter) }).noteDue launch).answer r 0x31 0

/-- THRESHOLD: its checks, then what it does (R448). -/
def execThreshold (r : Req) (launch counter thr : Nat) (s : State) : Out :=
  s.hostMsg r 0x31 .ctl false (thresholdBad launch counter thr) fun u => u.onThreshold r launch counter thr

/-- What makes the body of GRAPH_LOAD bad (R447). -/
def graphLoadBad (r : Req) (graph : Nat) (nodes : List (List W64)) (edges : List W64) : Bool :=
  bodyShort r (8 + 32 * nodes.length + 8 * edges.length) || decide (graph ≥ 64) || nodes.isEmpty || decide (nodes.length > 256) || edges.isEmpty || decide (edges.length > 512)

/-- GRAPH_LOAD (R396). -/
def State.onGraphLoad (u : State) (r : Req) (graph : Nat) (nodes : List (List W64)) (edges : List W64) : State :=
  if (u.graphs.find? graph).any (·.running) then u.answer r 0x32 2
  else if !(nodes.all (nodeOk edges.length)) || !(edges.all edgeOk) then u.answer r 0x32 1
  else ({ u with graphs := u.graphs.put graph { ctx := r.ctx, nodes := nodes, edges := edges.map edgeOf } } : State).answer r 0x32 0

/-- GRAPH_LOAD: its checks, then what it does (R448). -/
def execGraphLoad (r : Req) (graph : Nat) (nodes : List (List W64)) (edges : List W64) (s : State) : Out :=
  s.hostMsg r 0x32 .ctl true (graphLoadBad r graph nodes edges) fun u => u.onGraphLoad r graph nodes edges

/-- What makes the body of GRAPH_PUSH bad (R447). -/
def State.graphPushBad (s : State) (graph : Nat) (edge : Nat) (tokens : Nat) : Bool :=
  !((s.graphs.find? graph).any fun g => decide (edge < g.edges.length)) || tokens == 0 || decide (tokens > 64)

/-- A firing that meets a push is applied first (R398). -/
def State.firesFirst (u : State) (graph : Nat) : State :=
  match execGraphNodeFire graph u with
  | .next v => v
  | _ => u

/-- GRAPH_PUSH (R398): a push takes unreserved free slots only; the first one starts a run. A run does not end while it is in hand. -/
def State.onGraphPush (u0 : State) (r : Req) (graph : Nat) (edge : Nat) (tokens : Nat) : State :=
  let pushing := fun (b : Bool) (x : State) => ({ x with graphs := x.graphs.adjust graph fun g => { g with pushing := b } } : State)
  let u := pushing false ((pushing true u0).firesFirst graph)
  match u.graphs.find? graph with
  | none => u
  | some g =>
    if (g.edge edge).free < tokens then (u.answer r 0x33 2).graphEnd graph
    else
      let g1 := { g.updEdge edge fun e => { e with tokens := e.tokens + tokens } with running := true }
      (({ u with graphs := u.graphs.put graph g1 } : State).answer r 0x33 0).graphEnd graph

/-- GRAPH_PUSH: its checks, then what it does (R448). -/
def execGraphPush (r : Req) (graph edge tokens : Nat) (s : State) : Out :=
  s.hostMsg r 0x33 .ctl false (s.graphPushBad graph edge tokens) fun u => u.onGraphPush r graph edge tokens

/-! ## RMA (R188, R445, R449) -/

/-- An RMA of the endpoint is held at a home: the endpoint's messages are processed in send order. -/
def State.rmaWaits (s : State) (ep : Nat) : Bool :=
  (s.held.any fun (_, h) => match h with | .rma r .. => r.ep == ep | _ => false) || s.memOps.any fun m => m.held.any fun (_, r, _) => r.ep == ep

/-- What makes the body of RMA_READ bad (R447). -/
def rmaReadBad (va : W64) (len : Nat) : Bool :=
  decide (va.toNat ≥ 2 ^ 57) || len == 0 || decide (len > 32768)

/-- RMA_READ. -/
def State.onRmaRead (u : State) (r : Req) (va : W64) (len : Nat) : State :=
  u.rma r (.read va len) (u.ctx r.ctx).windows

/-- RMA_READ: its checks, then what it does (R448). -/
def execRmaRead (r : Req) (va : W64) (len : Nat) (s : State) : Out :=
  if s.rmaWaits r.ep then notNow "RMA_READ" else
  s.hostMsg r 0x40 .ctl true (rmaReadBad va len) fun u => u.onRmaRead r va len

/-- What makes the body of RMA_WRITE bad (R447). -/
def rmaWriteBad (r : Req) (data : List Byte) : Bool :=
  bodyShort r (16 + data.length) || data.isEmpty || decide (data.length > 32768)

/-- RMA_WRITE. -/
def State.onRmaWrite (u : State) (r : Req) (va : W64) (data : List Byte) : State :=
  u.rma r (.write va data) (u.ctx r.ctx).windows

/-- RMA_WRITE: its checks, then what it does (R448). -/
def execRmaWrite (r : Req) (va : W64) (data : List Byte) (s : State) : Out :=
  if s.rmaWaits r.ep then notNow "RMA_WRITE" else
  s.hostMsg r 0x41 .ctl true (rmaWriteBad r data) fun u => u.onRmaWrite r va data

/-- What makes the body of RMA_ATOMIC bad (R447). -/
def rmaAtomicBad (kind : BitVec 4) : Bool :=
  decide (kind.toNat > 9)

/-- RMA_ATOMIC. -/
def State.onRmaAtomic (u : State) (r : Req) (va : W64) (kind : BitVec 4) (wide : Bool) (operand : W64) (compare : W64) : State :=
  u.rma r (.atomic va kind wide operand compare) (u.ctx r.ctx).windows

/-- RMA_ATOMIC: its checks, then what it does (R448). -/
def execRmaAtomic (r : Req) (va : W64) (kind : BitVec 4) (wide : Bool) (operand compare : W64) (s : State) : Out :=
  if s.rmaWaits r.ep then notNow "RMA_ATOMIC" else
  s.hostMsg r 0x42 .ctl true (rmaAtomicBad kind) fun u => u.onRmaAtomic r va kind wide operand compare

/-! ## Memory-side operations and RESUME (R80 to R83, R102) -/

def msBad (home level page : Nat) : Bool := decide (home > 7) || decide (level > 3) || decide (page ≥ 2 ^ 52) || page % 65536 != 0

/-- PT_SET (R81). -/
def State.onPtSet (u : State) (r : Req) (home : Nat) (level : Nat) (page : Nat) (expect : W64) (new : W64) : State :=
  u.msArrive { req := r, home := home, level := level + 1, off := page % 2 ^ 48, op := .ptSet expect new }

/-- PT_SET: its checks, then what it does (R448). -/
def execPtSet (r : Req) (home level page : Nat) (expect new : W64) (s : State) : Out :=
  s.hostMsg r 0x50 .ctl false (msBad home level page) fun u => u.onPtSet r home level page expect new

/-- MIGRATE (R82). -/
def State.onMigrate (u : State) (r : Req) (home : Nat) (level : Nat) (page : Nat) (new : W64) : State :=
  u.msArrive { req := r, home := home, level := level + 1, off := page % 2 ^ 48, op := .migrate new }

/-- MIGRATE: its checks, then what it does (R448). -/
def execMigrate (r : Req) (home level page : Nat) (new : W64) (s : State) : Out :=
  s.hostMsg r 0x50 .ctl false (msBad home level page) fun u => u.onMigrate r home level page new

/-- RECLAIM (R83). -/
def State.onReclaim (u : State) (r : Req) (home : Nat) (level : Nat) (page : Nat) : State :=
  u.msArrive { req := r, home := home, level := level + 1, off := page % 2 ^ 48, op := .reclaim }

/-- RECLAIM: its checks, then what it does (R448). -/
def execReclaim (r : Req) (home level page : Nat) (s : State) : Out :=
  s.hostMsg r 0x50 .ctl false (msBad home level page) fun u => u.onReclaim r home level page

/-- FAULT_RESUME (R102): the host answers a record of a context that it claimed. -/
def State.onFaultResume (u : State) (r : Req) (word : W32) : State :=
  let o : Origin := { kind := word.extractLsb' 13 3, die := word.extractLsb' 10 3, unit := word.extractLsb' 6 4 }
  let mine := (u.rec? o (word.extractLsb' 16 16).toNat).any fun q => decide ((u.ctx q.ctx).route = some r.ep)
  (if mine then u.resume word else u).reply r 0x51 stOk []

/-- FAULT_RESUME: its checks, then what it does (R448). -/
def execFaultResume (r : Req) (word : W32) (s : State) : Out :=
  s.hostMsg r 0x51 .ctl false false fun u => u.onFaultResume r word

/-! ## Settings that need the semaphore (R79, R410, R422, R426, R428, R443, R451, R480) -/

/-- The limits after a message (R422), or why it is refused: 3 OUT_OF_RANGE, 1 CAP_BELOW_FLOOR, 2 CAP_BELOW_FLOORS. -/
def Power.setLimits (p : Power) (b : LimitsBody) : Except Nat Limits :=
  let l := p.limits
  let on := fun (i : Nat) => b.mask.getLsbD i
  let n : Limits := { cap := if on 0 then b.cap else l.cap, ramp := if on 1 then b.ramp else l.ramp, floors := if on 2 then b.floors else l.floors,
                      ceilings := if on 3 then b.ceilings else l.ceilings, skew := if on 4 then b.skew else l.skew }
  if n.cap > 4800 ∨ n.ramp < 10 ∨ n.ramp > 4800 ∨ n.skew > 2 ^ 20 ∨
      (List.range 8).any (fun i => decide (n.ceilings.getD i 0 > 4800) || decide (n.floors.getD i 0 > n.ceilings.getD i 0)) then .error 3
  else if on 0 ∧ n.cap * 1000 < p.idle then .error 1
  else if (on 0 ∨ on 2) ∧ n.cap < n.floors.sum then .error 2
  else .ok n

/-- What makes the body of LIMITS bad (R447). -/
def limitsBad (b : LimitsBody) : Bool :=
  b.floors.length != 8 || b.ceilings.length != 8

/-- LIMITS. -/
def State.onLimits (u : State) (r : Req) (b : LimitsBody) : State :=
  match u.io.power.setLimits b with
  | .error e => u.answer r 0x60 e
  | .ok l => (u.updIo fun io => { io with power := { io.power with limits := l } }).answer r 0x60 0

/-- LIMITS: its checks, then what it does (R448). -/
def execLimits (r : Req) (b : LimitsBody) (s : State) : Out :=
  s.hostMsg r 0x60 .sem false (limitsBad b) fun u => u.onLimits r b

/-- What makes the body of PARTITION bad (R447). -/
def partitionBad (clusters : List (BitVec 16)) (target : Nat) : Bool :=
  clusters.length != 8 || decide (target > 7)

/-- PARTITION (R410): a message that moves a cluster with resident teams is held as a whole until those have left. -/
def State.onPartition (u : State) (r : Req) (clusters : List (BitVec 16)) (target : Nat) : State :=
  let named := (List.range 128).filter fun c => (clusters.getD (c / 16) 0).getLsbD (c % 16)
  let v := u.makeMoves [] (u.io.moves ++ [(target, named)])
  v.answer r 0x61 (v.io.moves.contains (target, named)).toNat

/-- PARTITION: its checks, then what it does (R448). -/
def execPartition (r : Req) (clusters : List (BitVec 16)) (target : Nat) (s : State) : Out :=
  s.hostMsg r 0x61 .sem false (partitionBad clusters target) fun u => u.onPartition r clusters target

/-- A body of CLUSTER_MAP that is bad: a die, a number of entries or a cluster that is none, or one named twice (R443, R447). -/
def clusterMapBad (die : Nat) (map : List Nat) : Bool :=
  let used := map.filter (· != 0xFF)
  decide (die > 7) || map.length != 16 || used.any (decide <| 15 < ·) || !decide used.Nodup

/-- CLUSTER_MAP: the change is made, or held until the clusters that it touches are empty (R443). -/
def State.onClusterMap (u : State) (r : Req) (die : Nat) (map : List Nat) : State :=
  let want := fun (i : Nat) => if map.getD i 0xFF = 0xFF then none else some (map.getD i 0xFF)
  let touched := (List.range 16).filter fun i => (u.cluster (die * 16 + i)).phys != want i
  let busy := touched.any fun i => !(u.clusterTeams (die * 16 + i)).isEmpty
  let set := fun (v : State) (i : Nat) => v.updCluster (die * 16 + i) fun c =>
    if !touched.contains i then { c with remap := none } else if busy then { c with remap := some (want i) } else { c with phys := want i, remap := none }
  ((List.range 16).foldl set u).answer r 0x62 busy.toNat

/-- CLUSTER_MAP: its checks, then what it does (R448). -/
def execClusterMap (r : Req) (die : Nat) (map : List Nat) (s : State) : Out :=
  s.hostMsg r 0x62 .sem false (clusterMapBad die map) fun u => u.onClusterMap r die map

/-- What makes the body of ERROR_STATUS bad (R447). -/
def errorStatusBad (r : Req) (thresholds : Option (List Nat)) : Bool :=
  thresholds.any fun l => bodyShort r 144 || l.length != 17 || l.any (decide <| 2 ^ 48 ≤ ·)

/-- ERROR_STATUS (R428): thresholds need the semaphore. -/
def State.onErrorStatus (u : State) (r : Req) (thresholds : Option (List Nat)) : State :=
  let v := match thresholds with
    | none => u
    | some l => u.updIo fun io => { io with errThr := (List.range 17).foldl (fun m i => Sp.set 0 m i (l.getD i 0)) [], errFired := [] }
  v.reply r 0x63 stOk ((List.range 17).map fun i => BitVec.ofNat 64 (v.io.errors.get 0 i))

/-- ERROR_STATUS: its checks, then what it does (R448). -/
def execErrorStatus (r : Req) (thresholds : Option (List Nat)) (s : State) : Out :=
  s.hostMsg r 0x63 (if thresholds.isSome then .sem else .ctl) false (errorStatusBad r thresholds) fun u => u.onErrorStatus r thresholds

/-- One register of MS_CONFIG: the reply is 1 REFUSED, or 0 with the register written. -/
def State.configured (u : State) (r : Req) (refused : Bool) (put : State → State) : State :=
  if refused then u.answer r 0x64 1 else (put u).answer r 0x64 0

def State.msConfig (s : State) (r : Req) (unit : Nat) (refused : Bool) (put : State → State) (slot : Nat := 0) : Out :=
  s.hostMsg r 0x64 .sem false (decide (unit > 8) || decide (slot > 63)) fun u => u.configured r refused put

/-- A root that is REFUSED (R79). A stack address from MS_CAP up to 2^37 that a root, a TABLE entry or the pool's tables name is none of
R76's LOCAL frames: the manual does not say what it holds, and the model keeps bytes there (DESIGN CHOICE, log 98). -/
def ptrootRefused (value : W64) : Bool :=
  value.toNat % 4096 != 0 || decide (value.toNat ≥ 2 ^ 37)

/-- MS_PTROOT or IO_PTROOT. -/
def State.onMsConfigPtroot (u : State) (unit : Nat) (value : W64) : State :=
  if unit = 8 then u.updIo fun io => { io with ptroot := value.toNat } else u.updHome unit fun h => { h with ptroot := value.toNat }

/-- MS_CONFIG_PTROOT: its checks, then what it does (R448). -/
def execMsConfigPtroot (r : Req) (unit : Nat) (value : W64) (s : State) : Out :=
  s.msConfig r unit (ptrootRefused value) fun u => u.onMsConfigPtroot unit value

/-- A lease that is REFUSED (R79). -/
def leaseRefused (unit : Nat) (value : W64) : Bool :=
  unit == 8 || decide (value.toNat < 512) || decide (value.toNat > 65535)

/-- MS_LEASE. -/
def State.onMsConfigLease (u : State) (unit : Nat) (value : W64) : State :=
  u.updHome unit fun h => { h with lease := value.toNat }

/-- MS_CONFIG_LEASE: its checks, then what it does (R448). -/
def execMsConfigLease (r : Req) (unit : Nat) (value : W64) (s : State) : Out :=
  s.msConfig r unit (leaseRefused unit value) fun u => u.onMsConfigLease unit value

/-- An MS_PEERTAB slot: a configured slot names a valid entry of the peer table, a host's alone on the I/O die (R74, R451). -/
def State.peerSlotRefused (s : State) (unit : Nat) (value : W64) : Bool :=
  let e := (s.io.peers.get (0, 0) (value.toNat % 4096)).1
  let kind := e.toNat / 2 ^ 61 % 4
  value.toNat / 2 ^ 12 % 2 ^ 44 != 0 ||
    (value.getLsbD 63 && (!e.getLsbD 63 || decide (kind > 1) || (unit == 8 && kind != 1)))

/-- MS_PEERTAB. -/
def State.onMsConfigPeertab (u : State) (unit : Nat) (slot : Nat) (value : W64) : State :=
  if unit = 8 then u.updIo fun io => { io with peertab := io.peertab.set 0 slot value } else u.updHome unit fun h => { h with peertab := h.peertab.set 0 slot value }

/-- MS_CONFIG_PEERTAB: its checks, then what it does (R448). -/
def execMsConfigPeertab (r : Req) (unit slot : Nat) (value : W64) (s : State) : Out :=
  s.msConfig r unit (s.peerSlotRefused unit value) (fun u => u.onMsConfigPeertab unit slot value) slot

/-- A bound of a pool that is REFUSED (R79, R480). -/
def poolRefused (unit : Nat) (value : W64) : Bool := unit == 8 || value.toNat % 65536 != 0 || decide (value.toNat ≥ 2 ^ 37)

/-- MS_POOLB: a new pool, with nothing handed out (R480). -/
def State.onMsConfigPoolb (u : State) (unit : Nat) (value : W64) : State :=
  u.updHome unit fun h => { h with poolb := value.toNat, handed := [] }

/-- MS_CONFIG_POOLB: its checks, then what it does (R448). -/
def execMsConfigPoolb (r : Req) (unit : Nat) (value : W64) (s : State) : Out :=
  s.msConfig r unit (poolRefused unit value) fun u => u.onMsConfigPoolb unit value

/-- MS_POOLL. -/
def State.onMsConfigPooll (u : State) (unit : Nat) (value : W64) : State :=
  u.updHome unit fun h => { h with pooll := value.toNat, handed := [] }

/-- MS_CONFIG_POOLL: its checks, then what it does (R448). -/
def execMsConfigPooll (r : Req) (unit : Nat) (value : W64) (s : State) : Out :=
  s.msConfig r unit (poolRefused unit value) fun u => u.onMsConfigPooll unit value

/-- What makes the body of THERMAL bad (R447). -/
def thermalBad (thresholds : List Nat) : Bool :=
  thresholds.length != 128

/-- THERMAL (R426). -/
def State.onThermal (u : State) (r : Req) (thresholds : List Nat) : State :=
  if thresholds.any fun t => t != 0 && (decide (t < 70) || decide (t > 105)) then u.answer r 0x65 1
  else ((List.range 128).foldl (fun (v : State) c =>
    let t := thresholds.getD c 0
    if t = 0 then v else v.updCluster c fun x => { x with hot := t }) u).answer r 0x65 0

/-- THERMAL: its checks, then what it does (R448). -/
def execThermal (r : Req) (thresholds : List Nat) (s : State) : Out :=
  s.hostMsg r 0x65 .sem false (thermalBad thresholds) fun u => u.onThermal r thresholds

/-- An entry of a kind that R451 refuses, and one with a bit set that it gives as zero. -/
def peerKindRefused (e : W64 × W64) : Bool := decide (e.1.toNat / 2 ^ 61 % 4 ≥ 2)
def peerEntryBad (e : W64 × W64) : Bool := e.1.toNat / 2 ^ 56 % 32 != 0 || e.2.toNat / 2 ^ 51 % 32 != 0 || e.2.toNat % 2 ^ 48 != 0

/-- What makes the body of PEER_TABLE bad (R447, R448). -/
def peerTableBad (r : Req) (first : Nat) (entries : List (W64 × W64)) : Bool :=
  decide (first ≥ 4096) || entries.isEmpty || decide (entries.length > 4000) || entries.any peerEntryBad || bodyShort r (8 + 16 * entries.length)

/-- PEER_TABLE (R451). -/
def State.onPeerTable (u : State) (r : Req) (first : Nat) (entries : List (W64 × W64)) : State :=
  if first + entries.length > 4096 || entries.any peerKindRefused then u.answer r 0x66 1
  else (u.updIo fun io => { io with peers := (entries.zipIdx.foldl (fun m (e, i) => Sp.set (0, 0) m (first + i) e) io.peers) }).answer r 0x66 0

/-- PEER_TABLE: its checks, then what it does (R448). -/
def execPeerTable (r : Req) (first : Nat) (entries : List (W64 × W64)) (s : State) : Out :=
  s.hostMsg r 0x66 .sem false (peerTableBad r first entries) fun u => u.onPeerTable r first entries

/-! ## Peers (R78, R173) -/

/-- PEER_ACCESS_ARRIVAL. -/
def execPeerAccessArrival (a : PeerAccess) (s : State) : Out :=
  if s.io.dawn != dawnReady ∨ s.io.failed then notNow "PEER_ACCESS_ARRIVAL" else .next (s.peerAccess a)

end Sys2Proof.Machine
end

