-- ==== Sys2Proof/Machine/Rings.lean ====
section
/-! DEFINITION. Ring-set arithmetic (R256 to R259, R344 to R363): exact images on the projective line, the tables of a ring,
YRING and the instructions that act on masks. Every one completes at its issue, which keeps the order of R348. -/
namespace Sys2Proof.Machine
open Sys2Proof

/-! ## Bounds and their exact comparison (R347) -/

/-- An end of an interval: a rational, an infinity, or a function of a rational. -/
inductive Bound where
  | neg | pos
  | rat (n : Int) (d : Nat)
  | root (n : Int) (d : Nat) | exp (n : Int) (d : Nat) | ln (n : Int) (d : Nat) | tanh (n : Int) (d : Nat)
deriving DecidableEq, Repr

def bound0 : Bound := .rat 0 1
def cmpInt (a b : Int) : Ordering := compare a b
/-- Order of two rationals. -/
def cmpRat (a : Int) (b : Nat) (c : Int) (d : Nat) : Ordering := cmpInt (a * d) (c * b)

/-- Bounds of ln (n / d) in units of 2^-p. -/
def lnEnc (p n d : Nat) : Int × Int :=
  let k := ilog2 n d
  let (m, q) := scale2 n d (-k)
  let zl := (m.toNat - q) * 2 ^ p / (m.toNat + q)
  let zh := zl + 1
  let a : Int := 2 * atanhLo p (zl * zl / 2 ^ p) 200 1 zl
  let b : Int := 2 * atanhHi p (zh * zh / 2 ^ p + 1) 200 1 zh
  let (l, h) := ln2 p
  if k ≥ 0 then (k * l + a, k * h + b) else (k * h + a, k * l + b)

/-- Bounds of atanh (n / d) for 0 ≤ n < d. -/
def atanhEnc (p n d : Nat) : Int × Int :=
  if 2 * n ≤ d then
    let zl := n * 2 ^ p / d
    (atanhLo p (zl * zl / 2 ^ p) 200 1 zl, atanhHi p ((zl + 1) * (zl + 1) / 2 ^ p + 1) 200 1 (zl + 1))
  else
    let (l, h) := lnEnc p (d + n) (d - n)
    (l / 2, h / 2 + 1)

/-- A rational against an enclosed irrational; the precision separates them for all F32 points (log 10). -/
def cmpEnc (p : Nat) (n : Int) (d : Nat) (e : Int × Int) : Ordering :=
  if n * 2 ^ p ≥ e.2 * d then .gt else if n * 2 ^ p ≤ e.1 * d then .lt else .eq

/-- Bits of the enclosures: the smallest F32 argument separates from its function's value well within them. -/
def ringBits : Nat := 1024

/-- tanh (n / d) against c / e, for a nonzero argument. -/
def cmpTanh (n : Int) (d : Nat) (c : Int) (e : Nat) : Ordering :=
  if c ≥ e then .lt else if c ≤ -(e : Int) then .gt
  else if c = 0 then cmpInt n 0
  else if (n > 0) != (c > 0) then cmpInt n c
  else
    let o := cmpEnc ringBits n.natAbs d (atanhEnc ringBits c.natAbs e)
    if n > 0 then o else o.swap

/-- An end of an image against an end of a cell (R347): decided exactly. -/
def cmpBound : Bound → Bound → Ordering
  | .neg, .neg => .eq
  | .pos, .pos => .eq
  | .neg, _ => .lt
  | _, .neg => .gt
  | .pos, _ => .gt
  | _, .pos => .lt
  | .rat a b, .rat c d => cmpRat a b c d
  | .root a b, .rat c d => if c < 0 then .gt else cmpRat a b (c * c) (d * d)
  | .exp a b, .rat c d =>
    if c ≤ 0 then .gt else if a = 0 then cmpRat 1 1 c d else if c = d then cmpInt a 0
    else cmpEnc ringBits a b (lnEnc ringBits c.toNat d)
  | .ln a b, .rat c d =>
    if a = b then cmpInt 0 c else if c = 0 then cmpInt a b
    else (cmpEnc ringBits c d (lnEnc ringBits a.toNat b)).swap
  | .tanh a b, .rat c d => if a = 0 then cmpInt 0 c else cmpTanh a b c d
  | _, _ => .eq

/-! ## Cells and images -/

/-- An interval of the line with its ends. -/
structure Iv where
  lo : Bound
  lc : Bool
  hi : Bound
  hc : Bool
deriving DecidableEq, Repr

/-- An image: intervals, and whether ∞ is in it; none where an operation is UNDEFINED. -/
abbrev Image := Option (List Iv × Bool)

def ivPoint (n : Int) (d : Nat) : Iv := ⟨.rat n d, true, .rat n d, true⟩

/-- The rational value of a point; -0 reads as 0. -/
def pointRat (w : W32) : Int × Nat :=
  match f32Value w with
  | .num n d => (n, d)
  | _ => (0, 1)

/-- Cell `j` of a ring (R256): an interval, or none for the point ∞. -/
def Ring.cell (r : Ring) (j : Nat) : Option Iv :=
  let b := fun (i : Nat) => let (n, d) := pointRat (r.points.getD i 0); Bound.rat n d
  if j = 2 * r.n - 2 then none
  else if j = 2 * r.n - 1 then some ⟨.neg, false, b 0, false⟩
  else if j % 2 = 0 then some ⟨b (j / 2), true, b (j / 2), true⟩
  else if j = 2 * r.n - 3 then some ⟨b (r.n - 2), false, .pos, false⟩
  else some ⟨b (j / 2), false, b (j / 2 + 1), false⟩

def Bound.negate : Bound → Bound
  | .neg => .pos
  | .pos => .neg
  | .rat n d => .rat (-n) d
  | b => b
def Bound.add : Bound → Bound → Bound
  | .rat a b, .rat c d => .rat (a * d + c * b) (b * d)
  | .rat _ _, y => y
  | x, _ => x
/-- A product of two bounds that are not below 0. -/
def Bound.times : Bound → Bound → Bound
  | .rat a b, .rat c d => .rat (a * c) (b * d)
  | _, _ => .pos
/-- The reciprocal of a bound that is not below 0. -/
def Bound.recip : Bound → Bound
  | .rat n d => if n = 0 then .pos else .rat d n.toNat
  | _ => bound0
def Bound.sign : Bound → Int
  | .neg => -1
  | .pos => 1
  | .rat n _ => n
  | _ => 0

def Iv.negate (v : Iv) : Iv := ⟨v.hi.negate, v.hc, v.lo.negate, v.lc⟩
/-- The piece of an interval above 0, the mirrored piece below 0, and whether 0 is a member. -/
def Iv.pieces (v : Iv) : List (Bool × Iv) × Bool :=
  let below := if v.lo.sign < 0 then
    (if v.hi.sign < 0 then [(true, v.negate)] else [(true, (⟨bound0, false, v.lo.negate, v.lc⟩ : Iv))]) else []
  let above := if v.hi.sign > 0 then
    (if v.lo.sign > 0 then [(false, v)] else [(false, (⟨bound0, false, v.hi, v.hc⟩ : Iv))]) else []
  let zero := (v.lo.sign < 0 || (v.lo.sign == 0 && v.lc)) && (v.hi.sign > 0 || (v.hi.sign == 0 && v.hc))
  (below ++ above, zero)
/-- Product and reciprocal of pieces above 0. -/
def Iv.times (a b : Iv) : Iv := ⟨a.lo.times b.lo, a.lc && b.lc, a.hi.times b.hi, a.hc && b.hc⟩
def Iv.recip (v : Iv) : Iv :=
  ⟨v.hi.recip, v.hc && v.hi != .pos, v.lo.recip, v.lc && v.lo.sign != 0⟩
def Iv.signed (s : Bool) (v : Iv) : Iv := if s then v.negate else v

/-- The tables' operations (R347). -/
inductive RingOp where
  | add | mul | div
deriving DecidableEq, Repr
inductive RingFn where
  | neg | recip | sqr | sqrt | exp | log | tanh
deriving DecidableEq, Repr

/-- The exact image of two cells (R347). -/
def image2 (op : RingOp) (x y : Option Iv) : Image :=
  match op, x, y with
  | .add, none, none => none
  | .add, some u, some v => some ([⟨u.lo.add v.lo, u.lc && v.lc, u.hi.add v.hi, u.hc && v.hc⟩], false)
  | .add, _, _ => some ([], true)
  | .mul, none, none => some ([], true)
  | .mul, none, some v => if v.pieces.2 then none else some ([], true)
  | .mul, some u, none => if u.pieces.2 then none else some ([], true)
  | .mul, some u, some v =>
    let (ps, pz) := u.pieces
    let (qs, qz) := v.pieces
    some ((ps.flatMap fun (a, p) => qs.map fun (b, q) => (p.times q).signed (a != b)) ++ (if pz || qz then [ivPoint 0 1] else []), false)
  | .div, none, none => none
  | .div, none, some _ => some ([], true)
  | .div, some _, none => some ([ivPoint 0 1], false)
  | .div, some u, some v =>
    let (ps, pz) := u.pieces
    let (qs, qz) := v.pieces
    if pz && qz then none else
    some ((ps.flatMap fun (a, p) => qs.map fun (b, q) => (p.times q.recip).signed (a != b)) ++
      (if pz && !qs.isEmpty then [ivPoint 0 1] else []), qz)

/-- A function of a bound, with its limits at the infinities. -/
def Bound.under (b : Bound) (f : Int → Nat → Bound) (lo hi : Bound) : Bound :=
  match b with
  | .rat n d => f n d
  | .neg => lo
  | .pos => hi
  | b => b

/-- The exact image of one cell (R347). -/
def image1 (f : RingFn) (x : Option Iv) : Image :=
  match f, x with
  | .neg, none => some ([], true)
  | .neg, some v => some ([v.negate], false)
  | .recip, none => some ([ivPoint 0 1], false)
  | .recip, some v => let (ps, z) := v.pieces; some (ps.map fun (s, p) => p.recip.signed s, z)
  | .sqr, none => some ([], true)
  | .sqr, some v => let (ps, z) := v.pieces; some ((ps.map fun (_, p) => p.times p) ++ (if z then [ivPoint 0 1] else []), false)
  | .sqrt, none => some ([], true)
  | .sqrt, some v => if v.lo.sign < 0 then none else some ([⟨v.lo.under .root .neg .pos, v.lc, v.hi.under .root .neg .pos, v.hc⟩], false)
  | .exp, none => some ([ivPoint 0 1], true)
  | .exp, some v => some ([⟨v.lo.under .exp bound0 .pos, v.lc, v.hi.under .exp bound0 .pos, v.hc⟩], false)
  | .log, none => some ([], true)
  | .log, some v =>
    if v.lo.sign < 0 then none else
    if v.hi.sign = 0 then some ([], true) else
    let z := v.lo.sign == 0
    some ([⟨if z then .neg else v.lo.under .ln .neg .pos, v.lc && !z, v.hi.under .ln .neg .pos, v.hc⟩], z && v.lc)
  | .tanh, none => some ([ivPoint (-1) 1, ivPoint 1 1], false)
  | .tanh, some v => some ([⟨v.lo.under .tanh (.rat (-1) 1) (.rat 1 1), v.lc, v.hi.under .tanh (.rat (-1) 1) (.rat 1 1), v.hc⟩], false)

/-- Whether an image interval meets a cell's. -/
def Iv.meets (v cell : Iv) : Bool :=
  let lo := cmpBound v.lo cell.hi
  let hi := cmpBound v.hi cell.lo
  if cell.lc then (lo == .lt || (lo == .eq && v.lc)) && (hi == .gt || (hi == .eq && v.hc)) else lo == .lt && hi == .gt

def Ring.cells (r : Ring) : List (Option Iv) := (List.range (2 * r.n)).map r.cell

/-- The smallest mask whose cells hold an image (R347). -/
def Ring.maskOf (r : Ring) (m : Image) : Nat :=
  match m with
  | none => 2 ^ (2 * r.n) - 1
  | some (ivs, inf) => (List.range (2 * r.n)).foldl (fun s j =>
      let hit := match r.cell j with
        | none => inf
        | some c => ivs.any fun v => v.meets c
      if hit then s + 2 ^ j else s) 0

def ringFns : List RingFn := [.neg, .recip, .sqr, .sqrt, .exp, .log, .tanh]

/-- Load a ring (R346 step 4): -0 written as +0, the last point ∞, and the tables of R347. -/
def loadRing (n : Nat) (ws : List W32) : Ring :=
  let r : Ring := { n := n, points := (ws.take (n - 1)).map (fun w => if w = 0x80000000 then 0 else w) ++ [0x7F800000] }
  let t2 := fun (op : RingOp) => r.cells.map fun x => r.cells.map fun y => r.maskOf (image2 op x y)
  { r with add := t2 .add, mul := t2 .mul, div := t2 .div, un := ringFns.map fun f => r.cells.map fun x => r.maskOf (image1 f x) }

/-! ## Masks (R257 to R259, R352) -/

def maskBits (n m : Nat) : List Nat := (List.range n).filter m.testBit
def Ring.size (r : Ring) : Nat := 2 * r.n
def Ring.whole (r : Ring) : Nat := 2 ^ r.size - 1

def yBinary (r : Ring) (t : List (List Nat)) (x y : Nat) : Nat :=
  (maskBits r.size x).foldl (fun m j => (maskBits r.size y).foldl (fun m k => m ||| (t.getD j []).getD k 0) m) 0
def yUnary (r : Ring) (f : Nat) (x : Nat) : Nat := (maskBits r.size x).foldl (fun m j => m ||| (r.un.getD f []).getD j 0) 0

/-- Length of the cyclic run of clear cells from `i` on. -/
def clearRun (n m i : Nat) : Nat → Nat
  | 0 => 0
  | k + 1 => if m.testBit (i % n) then 0 else 1 + clearRun n m (i + 1) k

/-- Start and length of the hull of a mask of `n` cells (R259). -/
def hullOf (n m : Nat) : Nat × Nat :=
  if m = 0 then (0, 0) else if m = 2 ^ n - 1 then (0, n) else
  let runs := (List.range n).filterMap fun i =>
    if !m.testBit i && m.testBit ((i + n - 1) % n) then some (i, clearRun n m i n) else none
  let (s, l) := runs.foldl (fun b c => if c.2 > b.2 then c else b) (0, 0)
  ((s + l) % n, n - l)
/-- The mask of a run. -/
def runMask (n s l : Nat) : Nat := (List.range l).foldl (fun m k => m ||| 2 ^ ((s + k) % n)) 0
def hullMask (n m : Nat) : Nat := let (s, l) := hullOf n m; runMask n s l

/-! ## Operands (R350, R351) -/

def yMask (c : Nat) : Bool := c == 0x2A || c == 0x2B || c == 0x2C
def yPacked (c : Nat) : Bool := c == 0x2D || c == 0x2E

/-- Fields of a ring-set instruction: the flag, the formats it accepts, the c field. -/
def yIllegal (x : Issue) (o : Alu) (fmts : List Nat) (cFree : Bool) : Bool :=
  !x.team.k.ring || !(fmts.contains o.fmt.toNat) || o.rnd != .rne || o.sat || o.var.getLsbD 1 || (o.fmt == 0 && o.var.getLsbD 0) ||
    (!cFree && o.c != .reg 0)

/-- The working format's tag and its ring (R351): the named one, or the tag of the first source that carries a Y tag; every
Y-tagged source carries exactly it, and others are read as bits. The tag that a mismatch records is the failing one even where no
Y-tagged source names the format (R18, R385; log 75). -/
def yWork (x : Issue) (o : Alu) (ok : Nat → Bool) (srcs : List Src) : Except Stop (Tag × Ring) :=
  let tags := srcs.filterMap x.tagOf
  let named : Option Tag := if o.fmt = 0 then tags.find? (fun t => ok (tagCode t)) else some (mkTag o.fmt.toNat o.var.toNat)
  match named with
  | none => .error (.trap (tFormatMismatch (((tags.find? fun t => t != tagB32).getD 0)).toNat))
  | some w =>
    match tags.find? fun t => t != tagB32 && t != w with
    | some t => .error (.trap (tFormatMismatch t.toNat))
    | none =>
      if !x.unit.tagLoaded w then .error (.trap (tFormatMismatch w.toNat)) else
      match x.unit.rings.get none (tagAux w % 2) with
      | some r => .ok (w, r)
      | none => .error (.trap (tFormatMismatch w.toNat))

/-- A V-set ring-set instruction: its sources, the formats it may name, whether the c field is free, field values it
refuses, the codes of its working format, its result's tag, the value that counts as the whole line, and its result from the
operands' words. -/
structure YOp where
  srcs : List Src
  fmts : List Nat := [0, 0x2A, 0x2B, 0x2C]
  cFree : Bool := false
  extra : Bool := false
  ok : Nat → Bool := yMask
  tag : Tag → Tag := id
  whole : Ring → Option Nat := fun r => some r.whole
  f : Ring → List Nat → Nat × List Nat

def YOp.plan (q : YOp) (o : Alu) : Plan :=
  { u := false, h := o.h, illegal := fun x => yIllegal x o q.fmts q.cFree || q.extra, srcs := q.srcs.map fun c => (c, 1),
    dsts := if o.w then [] else [(o.d.toNat, 1)] }

/-- The results of the selected lanes on a ring, for a working tag. -/
def YOp.results (q : YOp) (x : Issue) (w : Tag) (r : Ring) : List (Nat × Res) :=
  x.lanes.map fun t =>
    let (v, cs) := q.f r (q.srcs.map fun c => (x.read t c 0).toNat)
    let cs := if (q.whole r).any (· == v) then cWhole (tagCode (q.tag w)) :: cs else cs
    (t.lane, ({ words := [BitVec.ofNat 32 v], counts := cs } : Res))

def yOp (i : Instr) (o : Alu) (q : YOp) : State → Out :=
  program i (q.plan o) fun x =>
    (yWork x o q.ok q.srcs).map fun (w, r) => x.seq (x.wroteV o.w o.d.toNat 1 (q.tag w) (q.results x w r))

/-- A mask of the working format: bits above it are ignored (R255). -/
def Ring.arg (r : Ring) (vs : List Nat) (i : Nat) : Nat := vs.getD i 0 % 2 ^ r.size

/-- An instruction whose result is a mask of its operands' format (R353 to R357). -/
def yMaskOp (srcs : List Src) (f : Ring → (Nat → Nat) → Nat) (extra : Bool := false) : YOp :=
  { srcs := srcs, cFree := srcs.length == 3, extra := extra, f := fun r vs => (f r (r.arg vs), []) }

def yaddOp (o : Alu) : YOp := yMaskOp [o.a, o.b] fun r v => yBinary r r.add (v 0) (v 1)
/-- Through NEG and ADD (R353). -/
def ysubOp (o : Alu) : YOp := yMaskOp [o.a, o.b] fun r v => yBinary r r.add (v 0) (yUnary r 0 (v 1))
def ymulOp (o : Alu) : YOp := yMaskOp [o.a, o.b] fun r v => yBinary r r.mul (v 0) (v 1)
def ydivOp (o : Alu) : YOp := yMaskOp [o.a, o.b] fun r v => yBinary r r.div (v 0) (v 1)
def yfmaOp (o : Alu) : YOp := yMaskOp [o.a, o.b, o.c] fun r v => yBinary r r.add (yBinary r r.mul (v 0) (v 1)) (v 2)
def ynegOp (o : Alu) : YOp := yMaskOp [o.a] fun r v => yUnary r 0 (v 0)
def yrecOp (o : Alu) : YOp := yMaskOp [o.a] fun r v => yUnary r 1 (v 0)
def ysqrOp (o : Alu) : YOp := yMaskOp [o.a] fun r v => yUnary r 2 (v 0)
/-- The function is the b field's value (R355). -/
def ymapOp (o : Alu) : YOp := yMaskOp [o.a] (extra := decide (o.b.code.toNat > 6)) fun r v => yUnary r o.b.code.toNat (v 0)
def yuniOp (o : Alu) : YOp := yMaskOp [o.a, o.b] fun _ v => v 0 ||| v 1
def yintOp (o : Alu) : YOp := yMaskOp [o.a, o.b] fun _ v => v 0 &&& v 1
def yhullOp (o : Alu) : YOp := yMaskOp [o.a] fun r v => hullMask r.size (v 0)

/-! ## Instructions -/

/-- YADD (R353). -/
def execYadd (o : Alu) : State → Out := yOp (.yadd o) o (yaddOp o)
/-- YSUB (R353). -/
def execYsub (o : Alu) : State → Out := yOp (.ysub o) o (ysubOp o)
/-- YMUL (R353). -/
def execYmul (o : Alu) : State → Out := yOp (.ymul o) o (ymulOp o)
/-- YDIV (R353). -/
def execYdiv (o : Alu) : State → Out := yOp (.ydiv o) o (ydivOp o)
/-- YFMA (R354). -/
def execYfma (o : Alu) : State → Out := yOp (.yfma o) o (yfmaOp o)
/-- YNEG (R355). -/
def execYneg (o : Alu) : State → Out := yOp (.yneg o) o (ynegOp o)
/-- YREC (R355). -/
def execYrec (o : Alu) : State → Out := yOp (.yrec o) o (yrecOp o)
/-- YSQR (R355). -/
def execYsqr (o : Alu) : State → Out := yOp (.ysqr o) o (ysqrOp o)
/-- YMAP (R355). -/
def execYmap (o : Alu) : State → Out := yOp (.ymap o) o (ymapOp o)
/-- YUNI (R356). -/
def execYuni (o : Alu) : State → Out := yOp (.yuni o) o (yuniOp o)
/-- YINT (R356). -/
def execYint (o : Alu) : State → Out := yOp (.yint o) o (yintOp o)
/-- YHULL (R357). -/
def execYhull (o : Alu) : State → Out := yOp (.yhull o) o (yhullOp o)

/-- The cell of a value (R358). -/
def Ring.locate (r : Ring) : Val → Nat
  | .nan => r.whole
  | .inf _ => 2 ^ (r.size - 2)
  | v =>
    let (n, d) := match v with | .num n d => (n, d) | _ => (0, 1)
    let at_ := (List.range (r.n - 1)).map fun i => let (a, b) := pointRat (r.points.getD i 0); cmpRat n d a b
    match at_.findIdx? (· == .eq) with
    | some i => 2 ^ (2 * i)
    | none =>
      let below := (at_.filter (· == .gt)).length
      if below = 0 then 2 ^ (r.size - 1) else 2 ^ (2 * below - 1)

/-- What YCVT asks for (R55). -/
def ycvtPlan (o : Alu) : Plan :=
  { u := false, h := o.h, illegal := fun x => yIllegal x o [0x2A, 0x2B, 0x2C] false, srcs := [(o.a, 1)],
      dsts := if o.w then [] else [(o.d.toNat, 1)] }

/-- The ring that a format field names, loaded (R350, R358). -/
def ringOf (x : Issue) (w : Tag) : Except Stop Ring :=
  match (if x.unit.tagLoaded w then x.unit.rings.get none (tagAux w % 2) else none) with
  | none => .error (.trap (tFormatMismatch w.toNat))
  | some r => .ok r

def ycvtClass (t : Tag) : Bool := t == mkTag 0x02 0 || t == mkTag 0x04 0 || t == tagB32

/-- YCVT's results: the cell of each value, B32 read as F32 (R358). -/
def ycvtResults (x : Issue) (o : Alu) (r : Ring) : List (Nat × Res) :=
  let bf := x.tagOf o.a == some (mkTag 0x04 0)
  x.lanes.map fun t =>
    let v := x.read t o.a 0
    let m := r.locate (if bf then (fmtOf 0x04).value (v.toNat % 2 ^ 16) else f32Value v)
    (t.lane, ({ words := [BitVec.ofNat 32 m], counts := if m = r.whole then [cWhole o.fmt.toNat] else [] } : Res))

/-- The working tag of YCVT: the format and the ring that it names. -/
def ycvtTag (o : Alu) : Tag := mkTag o.fmt.toNat o.var.toNat

/-- YCVT (R358). -/
def execYcvt (o : Alu) : State → Out :=
  program (.ycvt o) (ycvtPlan o) fun x =>
    (x.classes [(ycvtClass, o.a, 1)]).bind fun _ => (ringOf x (ycvtTag o)).map fun r =>
      x.seq (x.wroteV o.w o.d.toNat 1 (ycvtTag o) (ycvtResults x o r))

/-- Bits of a packed code's length field (R258). -/
def lenBits (cells : Nat) : Nat := if cells = 16 then 4 else 5
/-- The packed code of the hull of a mask (R258). -/
def packMask (n m : Nat) : Nat :=
  let k := lenBits n
  let (s, l) := hullOf n m
  if l = 0 then 2 ^ k + (2 ^ k - 1) else if l = n then 2 ^ k - 1 else s * 2 ^ k + (l - 1)
/-- The mask that a packed code names (R258, R360). -/
def unpackMask (n c : Nat) : Nat :=
  let k := lenBits n
  let v := c % 2 ^ (2 * k)
  if v % 2 ^ k = 2 ^ k - 1 then (if v = 2 ^ k + (2 ^ k - 1) then 0 else 2 ^ n - 1) else runMask n (v / 2 ^ k) (v % 2 ^ k + 1)

/-- What YPACK asks for (R55). -/
def ypackPlan (o : Alu) : Plan :=
  let c := o.c.code.toNat
  { u := false, h := o.h, illegal := fun x => yIllegal x o [0, 0x2A, 0x2B, 0x2C] true || decide (c > 0x0F),
      srcs := [(o.a, 1)], dsts := if o.w then [] else [(o.d.toNat, 1)] }

/-- Each lane's mask. -/
def ypackMasks (x : Issue) (o : Alu) (r : Ring) : List (Nat × Nat) := x.lanes.map fun t => (t.lane, (x.read t o.a 0).toNat % 2 ^ r.size)
/-- The packed format of a ring (R258). -/
def packedCode (r : Ring) : Nat := if r.size = 16 then 0x2D else 0x2E
def ypackResults (x : Issue) (o : Alu) (r : Ring) : List (Nat × Res) :=
  (ypackMasks x o r).map fun (l, m) =>
    let p := packMask r.size m
    (l, ({ words := [BitVec.ofNat 32 p], counts := if p = 2 ^ lenBits r.size - 1 then [cWhole (packedCode r)] else [] } : Res))

/-- YPACK's effect: with c at 8 or above it writes the validity predicate that c names (R359). -/
def ypackEffect (x : Issue) (o : Alu) (w : Tag) (r : Ring) : State :=
  let c := o.c.code.toNat
  let rs := ypackResults x o r
  let ps := if c ≥ 8 then (ypackMasks x o r).map fun (l, m) => (l, hullMask r.size m == m) else []
  (x.s.updGroup x.g fun g => (g.writeV o.w o.d.toNat 1 (mkTag (packedCode r) (tagAux w)) rs).writeP (c % 8) ps).count x.g.team
    (rs.flatMap (·.2.counts))

/-- YPACK (R359). -/
def execYpack (o : Alu) : State → Out :=
  program (.ypack o) (ypackPlan o) fun x =>
    (yWork x o yMask [o.a]).bind fun (w, r) =>
      if tagCode w = 0x2A then .error (.trap (tFormatMismatch w.toNat)) else .ok (x.seq (ypackEffect x o w r))

def yunpkOp (o : Alu) : YOp :=
  { srcs := [o.a], fmts := [0, 0x2D, 0x2E], ok := yPacked, tag := fun w => mkTag (if tagCode w = 0x2D then 0x2B else 0x2C) (tagAux w),
    f := fun r vs => (unpackMask r.size (vs.getD 0 0), []) }
/-- YUNPK (R360). -/
def execYunpk (o : Alu) : State → Out := yOp (.yunpk o) o (yunpkOp o)

/-- F32 nearest to a rational, an overflow clamped (R361). -/
def repF32 (n : Int) (d : Nat) : Nat := (roundTo 0x02 .rne true 0 (Val.ofRat n d false)).1

/-- The representative of a cell (R361). -/
def Ring.rep (r : Ring) (j : Nat) : Nat :=
  match r.cell j with
  | none => 0x7F800000
  | some ⟨.rat a b, lc, .rat c d, _⟩ => if lc then (r.points.getD (j / 2) 0).toNat else repF32 (a * d + c * b) (2 * b * d)
  | some ⟨.rat a b, _, .pos, _⟩ => if a > 0 then repF32 (2 * a) b else repF32 (a + b) b
  | some ⟨.neg, _, .rat a b, _⟩ => if a < 0 then repF32 (2 * a) b else repF32 (a - b) b
  | some _ => 0

def ymidOp (o : Alu) : YOp :=
  { srcs := [o.a], tag := fun _ => mkTag 0x02 0, whole := fun _ => none, f := fun r vs =>
      let m := r.arg vs 0
      if m = 0 then (0x7FC00000, [cNan 0x02]) else if m = r.whole then (0, []) else
      let (s, l) := hullOf r.size m
      (r.rep ((s + (l - 1) / 2) % r.size), []) }
/-- YMID (R361). -/
def execYmid (o : Alu) : State → Out := yOp (.ymid o) o (ymidOp o)

/-- Every member of a cell is finite and above 0, or below 0; the cell holds 0. -/
def cellPos (c : Option Iv) : Bool := c.any fun v => v.lo.sign > 0 || (v.lo.sign == 0 && !v.lc)
def cellNeg (c : Option Iv) : Bool := c.any fun v => v.hi.sign < 0 || (v.hi.sign == 0 && !v.hc)
def cellZero (c : Option Iv) : Bool := c.any fun v => v.pieces.2

/-- The summary word (R362). -/
def testWord (r : Ring) (m : Nat) : Nat :=
  let js := maskBits r.size m
  let bit := fun (b : Bool) (i : Nat) => if b then 2 ^ i else 0
  let one := js.length == 1
  bit (m == 0) 0 + bit (m == r.whole) 1 + bit (hullMask r.size m == m) 2 + bit one 3 + bit (one && js.all fun j => j % 2 == 0) 4 +
    bit (m.testBit (r.size - 2)) 5 + bit (js.any fun j => cellZero (r.cell j)) 6 +
    bit (m != 0 && js.all fun j => cellPos (r.cell j)) 7 + bit (m != 0 && js.all fun j => cellNeg (r.cell j)) 8

def ytestOp (o : Alu) : YOp :=
  { srcs := [o.a], tag := fun _ => tagB32, whole := fun _ => none, f := fun r vs => (testWord r (r.arg vs 0), []) }
/-- YTEST (R362). -/
def execYtest (o : Alu) : State → Out := yOp (.ytest o) o (ytestOp o)

/-- The greatest upper, or least lower, end of a mask's cells and whether it is reached. -/
def maskEnd (r : Ring) (m : Nat) (hi : Bool) : Bound × Bool :=
  ((maskBits r.size m).filterMap r.cell).foldl (fun (o : Option (Bound × Bool)) v =>
    let (b, c) := if hi then (v.hi, v.hc) else (v.lo, v.lc)
    match o with
    | none => some (b, c)
    | some (b', c') =>
      match cmpBound b b' with
      | .eq => some (b', c || c')
      | .gt => if hi then some (b, c) else o
      | .lt => if hi then o else some (b, c)) none |>.getD (bound0, false)

/-- YCMP's result (R363). -/
def ycmpWord (r : Ring) (cond a b : Nat) : Nat :=
  if a = 0 || b = 0 then 3
  else if cond ≥ 2 then
    let js := maskBits r.size a
    let eq := if a = b && js.length = 1 && js.all (fun j => j % 2 = 0) then 1 else if a &&& b = 0 then 0 else 2
    if cond = 2 || eq = 2 then eq else 1 - eq
  else if (a ||| b).testBit (r.size - 2) then 2
  else
    let (ha, hac) := maskEnd r a true
    let (la, lac) := maskEnd r a false
    let (hb, hbc) := maskEnd r b true
    let (lb, lbc) := maskEnd r b false
    let up := cmpBound ha lb
    let dn := cmpBound la hb
    if cond = 0 then
      if up == .lt || (up == .eq && !(hac && lbc)) then 1 else if dn != .lt then 0 else 2
    else if up != .gt then 1 else if dn == .gt || (dn == .eq && !(lac && hbc)) then 0 else 2

/-- The condition is the c field's value (R363). -/
def ycmpOp (o : Alu) : YOp :=
  { srcs := [o.a, o.b], cFree := true, extra := decide (o.c.code.toNat > 3), tag := fun _ => tagB32, whole := fun _ => none,
    f := fun r vs => (ycmpWord r o.c.code.toNat (r.arg vs 0) (r.arg vs 1), []) }
/-- YCMP (R363). -/
def execYcmp (o : Alu) : State → Out := yOp (.ycmp o) o (ycmpOp o)

/-! ## YRING (R346) -/

/-- The status of a list of words: the first rule that fails. -/
def ringStatus (n : Nat) (ws : List W32) : Nat :=
  let fin := ws.take (n - 1)
  if fin.any fun w => w.toNat / 2 ^ 23 % 256 == 255 then 1
  else if (fin.zip fin.tail).any fun (a, b) => (let (p, q) := pointRat a; let (u, v) := pointRat b; cmpRat p q u v) != .lt then 2
  else if ws.getD (n - 1) 0 != 0x7F800000 then 3 else 0

/-- What YRING asks for (R55). -/
def yringPlan (o : Alu) : Plan :=
  let b := o.b.code.toNat
  { u := true, h := o.h, srcs := [(o.a, 1)], dsts := if o.w then [] else [(o.d.toNat, 1)],
      illegal := fun x => !x.team.k.ring || aluForm o [] false false noVar || o.c != .reg 0,
      operand := fun _ => decide (b ≥ 8) || b / 2 == 3 }

/-- Points of the ring that YRING loads, and where its list lies (R346). -/
def yringN (o : Alu) : Nat := 4 * 2 ^ (o.b.code.toNat / 2 % 4)
def yringAt (x : Issue) (o : Alu) : Nat := x.unit.scratchBase x.team.slice + (x.read groupThread o.a 0).toNat

/-- YRING's checks: alignment, bounds, presence (R124, R346). -/
def yringCheck (x : Issue) (o : Alu) : Except Stop Unit :=
  let a := (x.read groupThread o.a 0).toNat
  if a % 4 != 0 then .error (.trap (tAlignment a none))
  else if a + 4 * yringN o > x.unit.scratchBytes then .error (.trap (tWindow 5 a none))
  else
    let at_ := yringAt x o
    let lines := (List.range ((at_ + 4 * yringN o - 1) / 256 + 1 - at_ / 256)).map (at_ / 256 + ·)
    if lines.any fun l => x.unit.presence.get 0 l != 0 then .error (.wait .parked .presence) else .ok ()

/-- YRING's effect: the status, and the ring where every rule holds (R346). -/
def yringEffect (x : Issue) (o : Alu) : State :=
  let n := yringN o
  let bs := readBytes x.s.mem (arrayAt x.team.core (yringAt x o)) (4 * n)
  let ws := (List.range n).map fun i => BitVec.ofNat 32 (leNat ((bs.drop (4 * i)).take 4))
  let st := ringStatus n ws
  let s1 := wroteWords o x 1 [BitVec.ofNat 32 st]
  if st = 0 then
    s1.updCore x.team.core fun c => { c with rings := c.rings.put (o.b.code.toNat % 2) (some (loadRing n ws)) } else s1

/-- YRING. -/
def execYring (o : Alu) : State → Out :=
  program (.yring o) (yringPlan o) fun x =>
    if !x.selected then .ok (x.seq (wroteWords o x 1 [])) else (yringCheck x o).bind fun _ => x.gate.map fun _ => x.seq (yringEffect x o)

end Sys2Proof.Machine
end

