-- ==== Sys2Proof/Machine/Dispatch.lean ====
section
/-! DEFINITION. The dispatch of an instruction or a step of the package to its meaning: one arm per row of the opcode table. -/
namespace Sys2Proof.Machine
open Sys2Proof

def exec (i : Instr) (s : State) : Host.Outcome State Fault Refusal :=
  match i with
  | .nop o => Sys2Proof.Machine.execNop o s
  | .nopU o => Sys2Proof.Machine.execNopU o s
  | .mov o => Sys2Proof.Machine.execMov o s
  | .movU o => Sys2Proof.Machine.execMovU o s
  | .iadd o => Sys2Proof.Machine.execIadd o s
  | .iaddU o => Sys2Proof.Machine.execIaddU o s
  | .isub o => Sys2Proof.Machine.execIsub o s
  | .isubU o => Sys2Proof.Machine.execIsubU o s
  | .imul o => Sys2Proof.Machine.execImul o s
  | .imulU o => Sys2Proof.Machine.execImulU o s
  | .imulh o => Sys2Proof.Machine.execImulh o s
  | .imulhU o => Sys2Proof.Machine.execImulhU o s
  | .imulhu o => Sys2Proof.Machine.execImulhu o s
  | .imulhuU o => Sys2Proof.Machine.execImulhuU o s
  | .imin o => Sys2Proof.Machine.execImin o s
  | .iminU o => Sys2Proof.Machine.execIminU o s
  | .imax o => Sys2Proof.Machine.execImax o s
  | .imaxU o => Sys2Proof.Machine.execImaxU o s
  | .iminu o => Sys2Proof.Machine.execIminu o s
  | .iminuU o => Sys2Proof.Machine.execIminuU o s
  | .imaxu o => Sys2Proof.Machine.execImaxu o s
  | .imaxuU o => Sys2Proof.Machine.execImaxuU o s
  | .and o => Sys2Proof.Machine.execAnd o s
  | .andU o => Sys2Proof.Machine.execAndU o s
  | .or o => Sys2Proof.Machine.execOr o s
  | .orU o => Sys2Proof.Machine.execOrU o s
  | .xor o => Sys2Proof.Machine.execXor o s
  | .xorU o => Sys2Proof.Machine.execXorU o s
  | .shl o => Sys2Proof.Machine.execShl o s
  | .shlU o => Sys2Proof.Machine.execShlU o s
  | .shr o => Sys2Proof.Machine.execShr o s
  | .shrU o => Sys2Proof.Machine.execShrU o s
  | .sar o => Sys2Proof.Machine.execSar o s
  | .sarU o => Sys2Proof.Machine.execSarU o s
  | .icmp o => Sys2Proof.Machine.execIcmp o s
  | .icmpU o => Sys2Proof.Machine.execIcmpU o s
  | .icmpi o => Sys2Proof.Machine.execIcmpi o s
  | .sel o => Sys2Proof.Machine.execSel o s
  | .selU o => Sys2Proof.Machine.execSelU o s
  | .fadd o => Sys2Proof.Machine.execFadd o s
  | .fsub o => Sys2Proof.Machine.execFsub o s
  | .fmul o => Sys2Proof.Machine.execFmul o s
  | .fmin o => Sys2Proof.Machine.execFmin o s
  | .fmax o => Sys2Proof.Machine.execFmax o s
  | .fcmp o => Sys2Proof.Machine.execFcmp o s
  | .rcp o => Sys2Proof.Machine.execRcp o s
  | .rsq o => Sys2Proof.Machine.execRsq o s
  | .exp2 o => Sys2Proof.Machine.execExp2 o s
  | .log2 o => Sys2Proof.Machine.execLog2 o s
  | .ld o => Sys2Proof.Machine.execLd o s
  | .ldU o => Sys2Proof.Machine.execLdU o s
  | .st o => Sys2Proof.Machine.execSt o s
  | .stU o => Sys2Proof.Machine.execStU o s
  | .lds o => Sys2Proof.Machine.execLds o s
  | .sts o => Sys2Proof.Machine.execSts o s
  | .lxch o => Sys2Proof.Machine.execLxch o s
  | .poll o => Sys2Proof.Machine.execPoll o s
  | .bra o => Sys2Proof.Machine.execBra o s
  | .braNodiv o => Sys2Proof.Machine.execBraNodiv o s
  | .meet o => Sys2Proof.Machine.execMeet o s
  | .exit o => Sys2Proof.Machine.execExit o s
  | .exitU o => Sys2Proof.Machine.execExitU o s
  | .popc o => Sys2Proof.Machine.execPopc o s
  | .popcU o => Sys2Proof.Machine.execPopcU o s
  | .clz o => Sys2Proof.Machine.execClz o s
  | .clzU o => Sys2Proof.Machine.execClzU o s
  | .lea o => Sys2Proof.Machine.execLea o s
  | .leaU o => Sys2Proof.Machine.execLeaU o s
  | .iabs o => Sys2Proof.Machine.execIabs o s
  | .iabsU o => Sys2Proof.Machine.execIabsU o s
  | .ineg o => Sys2Proof.Machine.execIneg o s
  | .fabs o => Sys2Proof.Machine.execFabs o s
  | .fneg o => Sys2Proof.Machine.execFneg o s
  | .ldv o => Sys2Proof.Machine.execLdv o s
  | .stv o => Sys2Proof.Machine.execStv o s
  | .atom o => Sys2Proof.Machine.execAtom o s
  | .atomU o => Sys2Proof.Machine.execAtomU o s
  | .pres o => Sys2Proof.Machine.execPres o s
  | .fint o => Sys2Proof.Machine.execFint o s
  | .not o => Sys2Proof.Machine.execNot o s
  | .notU o => Sys2Proof.Machine.execNotU o s
  | .brev o => Sys2Proof.Machine.execBrev o s
  | .sin o => Sys2Proof.Machine.execSin o s
  | .cos o => Sys2Proof.Machine.execCos o s
  | .tanh o => Sys2Proof.Machine.execTanh o s
  | .sqrt o => Sys2Proof.Machine.execSqrt o s
  | .movi o => Sys2Proof.Machine.execMovi o s
  | .moviU o => Sys2Proof.Machine.execMoviU o s
  | .iaddi u o => Sys2Proof.Machine.execIaddi u o s
  | .imuli u o => Sys2Proof.Machine.execImuli u o s
  | .andi u o => Sys2Proof.Machine.execAndi u o s
  | .ori u o => Sys2Proof.Machine.execOri u o s
  | .fmuli o => Sys2Proof.Machine.execFmuli o s
  | .faddi o => Sys2Proof.Machine.execFaddi o s
  | .fma o => Sys2Proof.Machine.execFma o s
  | .imac o => Sys2Proof.Machine.execImac o s
  | .imacU o => Sys2Proof.Machine.execImacU o s
  | .iadd64 o => Sys2Proof.Machine.execIadd64 o s
  | .iadd64U o => Sys2Proof.Machine.execIadd64U o s
  | .isub64 o => Sys2Proof.Machine.execIsub64 o s
  | .isub64U o => Sys2Proof.Machine.execIsub64U o s
  | .bfx o => Sys2Proof.Machine.execBfx o s
  | .bfxU o => Sys2Proof.Machine.execBfxU o s
  | .bfi o => Sys2Proof.Machine.execBfi o s
  | .bfiU o => Sys2Proof.Machine.execBfiU o s
  | .fclass o => Sys2Proof.Machine.execFclass o s
  | .logistic o => Sys2Proof.Machine.execLogistic o s
  | .cvt o => Sys2Proof.Machine.execCvt o s
  | .qnt o => Sys2Proof.Machine.execQnt o s
  | .dqn o => Sys2Proof.Machine.execDqn o s
  | .amax o => Sys2Proof.Machine.execAmax o s
  | .cblk o => Sys2Proof.Machine.execCblk o s
  | .pfma o => Sys2Proof.Machine.execPfma o s
  | .padd o => Sys2Proof.Machine.execPadd o s
  | .pmul o => Sys2Proof.Machine.execPmul o s
  | .atoms o => Sys2Proof.Machine.execAtoms o s
  | .red o => Sys2Proof.Machine.execRed o s
  | .lreduce o => Sys2Proof.Machine.execLreduce o s
  | .peers o => Sys2Proof.Machine.execPeers o s
  | .regroup o => Sys2Proof.Machine.execRegroup o s
  | .bdot o => Sys2Proof.Machine.execBdot o s
  | .ycvt o => Sys2Proof.Machine.execYcvt o s
  | .yadd o => Sys2Proof.Machine.execYadd o s
  | .ysub o => Sys2Proof.Machine.execYsub o s
  | .ymul o => Sys2Proof.Machine.execYmul o s
  | .ydiv o => Sys2Proof.Machine.execYdiv o s
  | .yneg o => Sys2Proof.Machine.execYneg o s
  | .yrec o => Sys2Proof.Machine.execYrec o s
  | .ysqr o => Sys2Proof.Machine.execYsqr o s
  | .yuni o => Sys2Proof.Machine.execYuni o s
  | .yint o => Sys2Proof.Machine.execYint o s
  | .ycmp o => Sys2Proof.Machine.execYcmp o s
  | .yhull o => Sys2Proof.Machine.execYhull o s
  | .ypack o => Sys2Proof.Machine.execYpack o s
  | .yunpk o => Sys2Proof.Machine.execYunpk o s
  | .ymid o => Sys2Proof.Machine.execYmid o s
  | .ytest o => Sys2Proof.Machine.execYtest o s
  | .ymap o => Sys2Proof.Machine.execYmap o s
  | .yfma o => Sys2Proof.Machine.execYfma o s
  | .msign o => Sys2Proof.Machine.execMsign o s
  | .mma o => Sys2Proof.Machine.execMma o s
  | .tld o => Sys2Proof.Machine.execTld o s
  | .tst o => Sys2Proof.Machine.execTst o s
  | .tzero o => Sys2Proof.Machine.execTzero o s
  | .tcvt o => Sys2Proof.Machine.execTcvt o s
  | .tamax o => Sys2Proof.Machine.execTamax o s
  | .mwait o => Sys2Proof.Machine.execMwait o s
  | .bru o => Sys2Proof.Machine.execBru o s
  | .jmp o => Sys2Proof.Machine.execJmp o s
  | .call o => Sys2Proof.Machine.execCall o s
  | .ret o => Sys2Proof.Machine.execRet o s
  | .jmpi o => Sys2Proof.Machine.execJmpi o s
  | .loop o => Sys2Proof.Machine.execLoop o s
  | .loopi o => Sys2Proof.Machine.execLoopi o s
  | .brk o => Sys2Proof.Machine.execBrk o s
  | .yield o => Sys2Proof.Machine.execYield o s
  | .barSync o => Sys2Proof.Machine.execBarSync o s
  | .barArrive o => Sys2Proof.Machine.execBarArrive o s
  | .barWait o => Sys2Proof.Machine.execBarWait o s
  | .gbar o => Sys2Proof.Machine.execGbar o s
  | .stgw o => Sys2Proof.Machine.execStgw o s
  | .stga o => Sys2Proof.Machine.execStga o s
  | .fence o => Sys2Proof.Machine.execFence o s
  | .part o => Sys2Proof.Machine.execPart o s
  | .csrr o => Sys2Proof.Machine.execCsrr o s
  | .csrw o => Sys2Proof.Machine.execCsrw o s
  | .clk o => Sys2Proof.Machine.execClk o s
  | .burn o => Sys2Proof.Machine.execBurn o s
  | .shunt o => Sys2Proof.Machine.execShunt o s
  | .curr o => Sys2Proof.Machine.execCurr o s
  | .trap o => Sys2Proof.Machine.execTrap o s
  | .launch o => Sys2Proof.Machine.execLaunch o s
  | .gwait o => Sys2Proof.Machine.execGwait o s
  | .wdog o => Sys2Proof.Machine.execWdog o s
  | .fcnt o => Sys2Proof.Machine.execFcnt o s
  | .cbld o => Sys2Proof.Machine.execCbld o s
  | .yring o => Sys2Proof.Machine.execYring o s
  | .ctime o => Sys2Proof.Machine.execCtime o s
  | .pref o => Sys2Proof.Machine.execPref o s
  | .lockl o => Sys2Proof.Machine.execLockl o s
  | .unlockl o => Sys2Proof.Machine.execUnlockl o s
  | .cinv o => Sys2Proof.Machine.execCinv o s
  | .cwb o => Sys2Proof.Machine.execCwb o s
  | .opcl o => Sys2Proof.Machine.execOpcl o s
  | .mset o => Sys2Proof.Machine.execMset o s
  | .mstat o => Sys2Proof.Machine.execMstat o s
  | .tagr o => Sys2Proof.Machine.execTagr o s
  | .tagw o => Sys2Proof.Machine.execTagw o s
  | .engShape o => Sys2Proof.Machine.execEngShape o s
  | .engCopy o => Sys2Proof.Machine.execEngCopy o s
  | .engPlane o => Sys2Proof.Machine.execEngPlane o s
  | .engGather o => Sys2Proof.Machine.execEngGather o s
  | .engScatter o => Sys2Proof.Machine.execEngScatter o s
  | .engFill o => Sys2Proof.Machine.execEngFill o s
  | .engUnplane o => Sys2Proof.Machine.execEngUnplane o s
  | .engSend o => Sys2Proof.Machine.execEngSend o s
  | .engRecv o => Sys2Proof.Machine.execEngRecv o s
  | .engArm o => Sys2Proof.Machine.execEngArm o s
  | .engCntrd o => Sys2Proof.Machine.execEngCntrd o s
  | .engCntadd o => Sys2Proof.Machine.execEngCntadd o s
  | .engReduce o => Sys2Proof.Machine.execEngReduce o s
  | .engCancel o => Sys2Proof.Machine.execEngCancel o s
  | .engWait o => Sys2Proof.Machine.execEngWait o s
  | .engQuery o => Sys2Proof.Machine.execEngQuery o s
  | .unassignedExtendedOpcode u r => Sys2Proof.Machine.execUnassignedExtendedOpcode u r s
  | .loopBack g => Sys2Proof.Machine.execLoopBack g s
  | .loadDataReturn l => Sys2Proof.Machine.execLoadDataReturn l s
  | .pageWalk l => Sys2Proof.Machine.execPageWalk l s
  | .faultResponse l => Sys2Proof.Machine.execFaultResponse l s
  | .storeComplete l => Sys2Proof.Machine.execStoreComplete l s
  | .tileOperationComplete core op => Sys2Proof.Machine.execTileOperationComplete core op s
  | .mmaComplete core => Sys2Proof.Machine.execMmaComplete core s
  | .mateAgreement core => Sys2Proof.Machine.execMateAgreement core s
  | .engineWriteProgress op => Sys2Proof.Machine.execEngineWriteProgress op s
  | .engineOperationEnd op overrun => Sys2Proof.Machine.execEngineOperationEnd op overrun s
  | .fetchFault g => Sys2Proof.Machine.execFetchFault g s
  | .mergeWindowClose o id => Sys2Proof.Machine.execMergeWindowClose o id s
  | .faultQueueRetry o id => Sys2Proof.Machine.execFaultQueueRetry o id s
  | .firmwareFaultService => Sys2Proof.Machine.execFirmwareFaultService s
  | .resume word => Sys2Proof.Machine.execResume word s
  | .releaseAtHome l => Sys2Proof.Machine.execReleaseAtHome l s
  | .acquireAtHome l => Sys2Proof.Machine.execAcquireAtHome l s
  | .pull die epoch => Sys2Proof.Machine.execPull die epoch s
  | .dispatchRequest die => Sys2Proof.Machine.execDispatchRequest die s
  | .teamStart team => Sys2Proof.Machine.execTeamStart team s
  | .teamRetire team => Sys2Proof.Machine.execTeamRetire team s
  | .gridRetire launch => Sys2Proof.Machine.execGridRetire launch s
  | .graphNodeFire graph => Sys2Proof.Machine.execGraphNodeFire graph s
  | .gbarComplete gang b => Sys2Proof.Machine.execGbarComplete gang b s
  | .completionTimePassed g => Sys2Proof.Machine.execCompletionTimePassed g s
  | .barrierTimeout team => Sys2Proof.Machine.execBarrierTimeout team s
  | .pairTimeout core => Sys2Proof.Machine.execPairTimeout core s
  | .estimatorWindowEnd cluster => Sys2Proof.Machine.execEstimatorWindowEnd cluster s
  | .classChangeEnd cluster => Sys2Proof.Machine.execClassChangeEnd cluster s
  | .forcedStop team => Sys2Proof.Machine.execForcedStop team s
  | .teamSaveEnd team => Sys2Proof.Machine.execTeamSaveEnd team s
  | .teamRestore team core => Sys2Proof.Machine.execTeamRestore team core s
  | .pairedSignature team => Sys2Proof.Machine.execPairedSignature team s
  | .counterIrq launch counter => Sys2Proof.Machine.execCounterIrq launch counter s
  | .windowAck ctx => Sys2Proof.Machine.execWindowAck ctx s
  | .groupBoost g => Sys2Proof.Machine.execGroupBoost g s
  | .issueLimitSwitch g => Sys2Proof.Machine.execIssueLimitSwitch g s
  | .faultServiceTimeout o id => Sys2Proof.Machine.execFaultServiceTimeout o id s
  | .noRecvTimeout op => Sys2Proof.Machine.execNoRecvTimeout op s
  | .chunkLanding c => Sys2Proof.Machine.execChunkLanding c s
  | .peerUnreachable op => Sys2Proof.Machine.execPeerUnreachable op s
  | .homeSlotUnreachable l => Sys2Proof.Machine.execHomeSlotUnreachable l s
  | .homeEpochAgePull line die => Sys2Proof.Machine.execHomeEpochAgePull line die s
  | .dirtyByteDeadline die line => Sys2Proof.Machine.execDirtyByteDeadline die line s
  | .scrub p f => Sys2Proof.Machine.execScrub p f s
  | .preemptionRequest launch => Sys2Proof.Machine.execPreemptionRequest launch s
  | .powerIntervalEnd m => Sys2Proof.Machine.execPowerIntervalEnd m s
  | .hotSpotMigration cluster temps => Sys2Proof.Machine.execHotSpotMigration cluster temps s
  | .hotSpotStepUp cluster => Sys2Proof.Machine.execHotSpotStepUp cluster s
  | .arrivalReport peer grp number time saved => Sys2Proof.Machine.execArrivalReport peer grp number time saved s
  | .budgetMessage watts => Sys2Proof.Machine.execBudgetMessage watts s
  | .errorIrq unit => Sys2Proof.Machine.execErrorIrq unit s
  | .dieFailure die => Sys2Proof.Machine.execDieFailure die s
  | .memorySideDieFailure home => Sys2Proof.Machine.execMemorySideDieFailure home s
  | .ioDieFailure => Sys2Proof.Machine.execIoDieFailure s
  | .coreFailure core => Sys2Proof.Machine.execCoreFailure core s
  | .dawn inp => Sys2Proof.Machine.execDawn inp s
  | .dawnPtpWaitExpiry => Sys2Proof.Machine.execDawnPtpWaitExpiry s
  | .ptpSync offset => Sys2Proof.Machine.execPtpSync offset s
  | .ptpHoldover => Sys2Proof.Machine.execPtpHoldover s
  | .keepalive => Sys2Proof.Machine.execKeepalive s
  | .linkLoss ep => Sys2Proof.Machine.execLinkLoss ep s
  | .connectionRequest ep mode => Sys2Proof.Machine.execConnectionRequest ep mode s
  | .unknownMessage r type => Sys2Proof.Machine.execUnknownMessage r type s
  | .status r => Sys2Proof.Machine.execStatus r s
  | .attest r nonce => Sys2Proof.Machine.execAttest r nonce s
  | .semClaim r => Sys2Proof.Machine.execSemClaim r s
  | .semRelease r => Sys2Proof.Machine.execSemRelease r s
  | .contextCreate r ctx area quotas => Sys2Proof.Machine.execContextCreate r ctx area quotas s
  | .contextEnd r => Sys2Proof.Machine.execContextEnd r s
  | .window r n w0 w1 w2 w3 => Sys2Proof.Machine.execWindow r n w0 w1 w2 w3 s
  | .faultRoute r claim => Sys2Proof.Machine.execFaultRoute r claim s
  | .recordFree r first count => Sys2Proof.Machine.execRecordFree r first count s
  | .plierrovLaunch r packet => Sys2Proof.Machine.execPlierrovLaunch r packet s
  | .threshold r launch counter thr => Sys2Proof.Machine.execThreshold r launch counter thr s
  | .graphLoad r graph nodes edges => Sys2Proof.Machine.execGraphLoad r graph nodes edges s
  | .graphPush r graph edge tokens => Sys2Proof.Machine.execGraphPush r graph edge tokens s
  | .rmaRead r va len => Sys2Proof.Machine.execRmaRead r va len s
  | .rmaWrite r va data => Sys2Proof.Machine.execRmaWrite r va data s
  | .rmaAtomic r va kind wide operand compare => Sys2Proof.Machine.execRmaAtomic r va kind wide operand compare s
  | .ptSet r home level page expect new => Sys2Proof.Machine.execPtSet r home level page expect new s
  | .migrate r home level page new => Sys2Proof.Machine.execMigrate r home level page new s
  | .reclaim r home level page => Sys2Proof.Machine.execReclaim r home level page s
  | .faultResume r word => Sys2Proof.Machine.execFaultResume r word s
  | .limits r b => Sys2Proof.Machine.execLimits r b s
  | .partition r clusters target => Sys2Proof.Machine.execPartition r clusters target s
  | .clusterMap r die map => Sys2Proof.Machine.execClusterMap r die map s
  | .errorStatus r thresholds => Sys2Proof.Machine.execErrorStatus r thresholds s
  | .msConfigPtroot r unit value => Sys2Proof.Machine.execMsConfigPtroot r unit value s
  | .msConfigLease r unit value => Sys2Proof.Machine.execMsConfigLease r unit value s
  | .msConfigPeertab r unit slot value => Sys2Proof.Machine.execMsConfigPeertab r unit slot value s
  | .msConfigPoolb r unit value => Sys2Proof.Machine.execMsConfigPoolb r unit value s
  | .msConfigPooll r unit value => Sys2Proof.Machine.execMsConfigPooll r unit value s
  | .thermal r thresholds => Sys2Proof.Machine.execThermal r thresholds s
  | .peerTable r first entries => Sys2Proof.Machine.execPeerTable r first entries s
  | .portRetirement port => Sys2Proof.Machine.execPortRetirement port s
  | .peerAccessArrival a => Sys2Proof.Machine.execPeerAccessArrival a s

end Sys2Proof.Machine
end

