-- ==== Sys2Proof/Machine/Formed.lean ====
section
/-! DEFINITION. The issue of one group: the interval of a checkpointed team at an issue (R433, R434, R437), formed groups (R241), the words
of the instruction and its run (R99, R239, R240). -/
namespace Sys2Proof.Machine
open Sys2Proof

/-- The state that an outcome answers. -/
def stateOf (o : Out) : Option State :=
  match o with
  | .next t => some t
  | _ => none

def mapNext (f : State → State) (o : Out) : Out :=
  match o with
  | .next t => .next (f t)
  | o => o

/-! ## The intervals of R433 at an issue -/

/-- Instructions that end the interval of a checkpointed team (R433). -/
def endsInterval (i : Instr) : Bool :=
  match i with
  | .engShape .. | .engCopy .. | .engPlane .. | .engGather .. | .engScatter .. | .engFill .. | .engUnplane .. | .engSend ..
  | .engRecv .. | .engArm .. | .engCntrd .. | .engCntadd .. | .engReduce .. | .engCancel .. | .engWait .. | .engQuery ..
  | .launch .. | .atom .. | .atomU .. | .red .. | .gbar .. => true
  | .st o | .stU o | .sts o | .stv o => o.order == .rel && o.scope != 0
  | .fence o => o.mode != 2 && Mode.scopeOf o 2 != 0
  | _ => false

/-- Whether a group may issue an instruction now. -/
inductive IssueGate where
  | go | wait
  /-- The interval must end before the instruction (R433). -/
  | request
  /-- The interval of the group's last instruction must end before anything further (R433). -/
  | close
deriving DecidableEq, Repr

/-- Threads' retired instructions in all. -/
def Group.retiredSum (g : Group) : Nat := (g.threads.map (·.retired)).sum

/-- A group of a twin that the other twin's same group is ahead of (R437). -/
def State.behindTwin (s : State) (t : Team) (slot : Nat) (g : Group) : Bool :=
  match t.twin.bind fun (u, _) => s.teams.find? u with
  | some u => match u.groups.find? slot with | some h => decide (g.retiredSum < h.retiredSum) | none => false
  | none => false

/-- The early end has been asked for in either twin. -/
def State.earlyAsked (s : State) (t : Team) (iv : Interval) : Bool :=
  iv.early || ((t.twin.bind fun (u, _) => s.intervals.find? u).any (·.early))

/-- A group waits at a gang barrier, at which its team's other groups have still to arrive. -/
def Group.inGbar (g : Group) : Bool :=
  g.mode == .barrier && match g.wait with | .gbar .. | .gbarNext .. => true | _ => false

/-- What an interval lets a group issue. While one group's GBAR waits for the others of its team, these go on; what it has done stays done
(R433; log 35). -/
def State.gateOf (s : State) (r : GrpRef) (t : Team) (g : Group) (i : Instr) : IssueGate :=
  match s.intervals.find? r.team with
  | none => .go
  | some iv =>
    let free := if endsInterval i then IssueGate.request else .go
    if iv.atBoundary then .wait
    else if s.earlyAsked t iv then (if t.k.paired && s.behindTwin t r.grp g then .go else .wait)
    else if iv.after.contains r.grp then .close
    else match iv.own with
      | some (h, false) => if h = r.grp then .go else .wait
      | some (h, true) => if h != r.grp && (t.groups.get {} h).inGbar then free else .wait
      | none => free

/-- Ask for the early end before an instruction, or before whatever follows one (R433). -/
def State.requestEnd (s : State) (r : GrpRef) (own : Bool) : State :=
  { s with intervals := s.intervals.adjust r.team fun iv =>
      if own then { iv with early := true, own := some (r.grp, false), after := iv.performed } else { iv with early := true } }

/-- The instruction that has an interval of its own has issued: once it completes the boundary steps run again. -/
def State.noteOwn (s : State) (r : GrpRef) (before : Nat) : State :=
  match s.group? r, s.intervals.find? r.team with
  | some (t, g), some iv =>
    if iv.own = some (r.grp, false) ∧ g.retiredSum ≠ before then
      { s with intervals := s.intervals.put r.team { iv with early := t.k.paired, own := some (r.grp, true) } }
    else s
  | _, _ => s

/-- Sectors that a paired team's buffer holds or is about to hold (R434). -/
def State.sectorsDue (s : State) (id : Nat) (t : Team) (iv : Interval) : Nat :=
  let log := ((s.core t.core).log.map (·.2)).filter fun e => e.team == id && e.isWrite
  let span := fun (e : LogEntry) (l : LogLane) => (List.range (if e.kind = .tst then 4 else 1)).map fun k => l.ia / 64 + k
  let due := log.flatMap fun e => (e.lanes.filter (·.waiting)).flatMap (span e)
  (due.foldl (fun (m : List Nat) k => if m.contains k || (iv.held.find? k).isSome then m else k :: m) []).length + iv.held.length + iv.heldVault.length

/-- A paired team's store for which the buffer has no room waits for an early end (R434); `pre` is the state before it. -/
def State.pairedRoom (pre post : State) (id : Nat) : State :=
  match post.teams.find? id, post.intervals.find? id with
  | some t, some iv =>
    if t.k.paired && decide (post.sectorsDue id t iv > 1024) then
      { pre with intervals := pre.intervals.adjust id fun iv => { iv with early := true } }
    else post
  | _, _ => post

/-- The boundary is due: an early end is asked for, or an instruction that has an interval of its own has completed (R433). -/
def Interval.due (iv : Interval) (t : Team) : Bool :=
  iv.early || match iv.own with
    | some (h, true) => (t.groups.find? h).all fun g => g.mode != .barrier && g.wait == .none
    | _ => false

/-- The early boundary of a team that is only checkpointed (R431, R433): nothing of the team is in flight. -/
def State.earlyBoundary (s : State) (id : Nat) : Option State :=
  match s.teams.find? id, s.intervals.find? id with
  | some t, some iv => if !iv.due t || t.k.paired || t.mode = .stopped || !s.atStandstill id t then none else some (s.boundary id)
  | _, _ => none

/-- The groups of a twin wait for the other twin, in BARRIER (R437): those that an agreed early end holds, and the lowest group of a twin
that has come to its end. -/
def State.twinWaits (s : State) (id : Nat) : Option State :=
  match s.teams.find? id, s.intervals.find? id with
  | some t, some iv =>
    let held := fun ((k, g) : Nat × Group) =>
      if t.exited then k == (lowestGroup t).1 && g.mode == .done
      else s.earlyAsked t iv && !iv.atBoundary && g.mode == .ready && !g.loopDue && !s.behindTwin t k g
    if !t.k.paired || t.twin.isNone || t.mode = .stopped || !t.groups.any held then none
    else
      let wait := fun (p : Nat × Group) => if held p then (p.1, { p.2.await s.time .barrier .twin with mark := s.teamCycle t }) else p
      some (s.updTeam id fun t => { t with groups := t.groups.map wait })
  | _, _ => none

/-! ## Formed groups (R241) -/

def isVset (i : Instr) : Bool := i.raw?.any fun r => !r.u

/-- Instructions that a formed group issues: V-set ones, REGROUP and the matrix commands apart. -/
def formable (i : Instr) : Bool :=
  isVset i && match i with
    | .regroup .. | .tld .. | .tst .. | .msign .. | .mma .. | .tzero .. | .tcvt .. | .tamax .. | .mwait .. => false
    | _ => true

/-- Instructions whose values depend on the tags of their sources: under tags that differ each member makes them by itself (R241, R245). -/
def byTags (i : Instr) : Bool :=
  match i with
  | .ld .. | .st .. | .lds .. | .sts .. | .ldv .. | .stv .. | .atom .. | .atoms .. | .red .. | .pres .. => false
  | _ => true

/-- The guard of an instruction selects a thread with these predicates (R22). -/
def guardSelects (i : Instr) (p : BitVec 8) : Bool :=
  match (i.raw?.map fun r => guardOf r.x) with
  | some (.ok (some q)) => guardHolds q p
  | _ => true

/-- Instructions that each member makes by itself, on its own threads: those that cross lanes, whose blocks lie in one home group
(R289, R306), and those that change the flow of threads (R295, R298, R299). -/
def byMember (i : Instr) : Bool :=
  match i with
  | .lxch .. | .poll .. | .lreduce .. | .peers .. | .amax .. | .bra .. | .braNodiv .. | .meet .. | .exit .. => true
  | _ => false
def isBranch (i : Instr) : Bool :=
  match i with
  | .bra .. | .braNodiv .. => true
  | _ => false

/-- The latches of a formed group: each lane's values are those of its home group. -/
def joinLatches (lead : Group) (ms : List (Nat × Group)) : List Latch :=
  lead.x.zipIdx.map fun (y, i) =>
    let own := fun (m : Group) (v : Sp W32) => m.active.foldl (fun v t => Sp.set 0 v t.lane ((latchAt m.x i).lane t.lane)) v
    { y with vals := ms.foldl (fun v (_, m) => own m v) [] }

/-- Accesses that some member's registers wait for. -/
def joinPend (l : List (Sp (List Nat))) : Sp (List Nat) :=
  l.foldl (fun p q => q.foldl (fun p (n, us) => Sp.set [] p n (Sp.get [] p n ++ us.filter fun u => !(Sp.get [] p n).contains u)) p) []

/-- The formed group as one group: the union of its members' current sets, with each lane's home. -/
def joinGroups (lead : Group) (ms : List (Nat × Group)) : Group :=
  let ths := ms.flatMap fun (_, m) => m.active.map fun y => { y with meet := none }
  let homes := ms.flatMap fun (k, m) => m.active.map fun y => (y.lane, (k, m.s))
  { lead with
    threads := inOrder (fun a b => decide (a.lane ≤ b.lane)) ths, homes := homes.foldl (fun h (l, x) => Sp.put h l x) [],
    mode := .ready, levels := [], x := joinLatches lead ms, pendV := joinPend (ms.map (·.2.pendV)), pendS := joinPend (ms.map (·.2.pendS)),
    superseded := (ms.flatMap (·.2.superseded)).eraseDups, horizon := ms.foldl (fun m (_, g) => max m g.horizon) 0 }

/-- The formed group cut down to the lanes of one member, under its tags. -/
def ofMember (j : Group) (k : Nat) (m : Group) : Group :=
  { j with threads := j.threads.filter fun y => (j.homes.find? y.lane).any (·.1 == k), homes := j.homes.filter fun (_, h, _) => h == k, tags := m.tags }

/-- Members that may join a leader: READY at its PC, no thread at its meeting address, disjoint current sets (R241). -/
def mayJoin (lead m : Group) : Bool :=
  m.mode == .ready && !m.loopDue && m.switchDue.isNone && m.formed.isEmpty && m.pc == lead.pc && !(m.active.any fun y => y.meet == some y.pc) &&
    !(m.active.any fun y => lead.active.any fun z => z.lane == y.lane)

/-- Join up to three groups to a leader, where its next instruction allows it. -/
def State.merge (s : State) (r : GrpRef) (others : List Nat) : Option State :=
  match s.group? r with
  | none => none
  | some (t, g) =>
    let ms := others.filterMap fun k => (t.groups.find? k).map fun m => (k, m)
    let all := g :: ms.map (·.2)
    let apart := (List.range all.length).all fun a => (List.range a).all fun b => mayJoin (all.getD b {}) (all.getD a {})
    if !t.k.merge || !State.mayIssue t g || !g.formed.isEmpty || g.switchDue.isSome || ms.length != others.length || others.isEmpty ||
      others.length > 3 || others.contains r.grp || !decide others.Nodup || g.active.any (fun y => y.meet == some y.pc) || !apart then none else
    match s.nextInstr t g with
    | .instr i _ =>
      if !isVset i || readsLatch i then none else
      let place := fun ((k, m) : Nat × Group) =>
        if k = r.grp then (k, { m.clearLatches with mode := .formed, formed := r.grp :: others, readySince := s.time })
        else if others.contains k then (k, { m.clearLatches with mode := .formed, wait := .none, readySince := s.time }) else (k, m)
      some (s.updTeam r.team fun t => { t with groups := t.groups.map place })
    | _ => none

/-- Run an instruction for a group that holds the issue slot. -/
def State.run (s : State) (r : GrpRef) (i : Instr) (ws : List W32) : Out :=
  exec i { s with cur := some (r, ws.getD 0 0, ws.getD 1 0) }
/-- The same for a group put in its place; none where it ends in no state. -/
def State.runAs (s : State) (r : GrpRef) (g : Group) (i : Instr) (ws : List W32) : Option State := stateOf ((s.setGroup r g).run r i ws)

/-- The mask word of an instruction with S = 1. -/
def spOf (i : Instr) : Option Mask := i.raw?.bind (·.sp)

/-! ### Traps of a formed group -/

/-- A run of an instruction ended its team, or rolled it back. -/
def State.ends (pre post : State) (id : Nat) : Bool :=
  match pre.teams.find? id, post.teams.find? id with
  | some t, some u => decide (u.mode = .stopped) || u.rollbacks != t.rollbacks
  | _, _ => true

/-- Where R55 places the trap that a run has raised: the code stands in its record. -/
def trapRank (pre post : State) : Nat :=
  match (post.out.drop pre.out.length).find? fun m => m.type == 0x9001 with
  | some m => [7, 0, 1, 4, 2, 3].getD ((m.body.getD 1 0).toNat / 2 ^ 56) 7
  | none => 7

/-- Of the members' runs that end the team, the one whose trap R55 places first, then the one of the lowest lane (R241). -/
def firstEnd (pre : State) (id : Nat) (runs : List (Nat × State)) : Option State :=
  let bad := (runs.filter fun (_, u) => pre.ends u id).map fun (l, u) => (trapRank pre u, l, u)
  (bad.foldl (fun (o : Option (Nat × Nat × State)) x => match o with
    | none => some x
    | some y => if x.1 < y.1 || (x.1 == y.1 && decide (x.2.1 < y.2.1)) then some x else some y) none).map (·.2.2)

def lowLane (g : Group) : Nat := (g.threads.map (·.lane)).foldl min 64

/-! ### One member after the formed group's instruction -/

/-- What a formed group's instruction leaves of a member: `j` and `v` are the formed group before and after, `own` the member's own run where
the members' tags differ, and `t` the time to which the instruction raises the horizon of a member with a selected lane (R178). -/
def splitMember (i : Instr) (next now t : Nat) (j v : Group) (own : Option Group) (m : Group) : Group :=
  let thread := fun (y : Thread) =>
    if y.mode != .active then y else
    match v.at y.lane with
    | none => y
    | some z => { z with meet := y.meet, mode := .active, pc := next }
  let new := v.pendV.map fun (n, us) => (n, us.filter fun u => !(Sp.get [] j.pendV n).contains u)
  let tagged := fun (l : List Latch) => match own with
    | some o => (l.zip o.x).map fun (y, z) => { y with tag := z.tag }
    | none => l
  { m with
    threads := m.threads.map thread, pc := next, ipc := v.ipc, run := v.run, boosted := v.boosted, readySince := now, superseded := v.superseded,
    tags := match own with | some o => o.tags | none => v.tags, x := tagged v.x,
    pendV := new.foldl (fun p (n, us) => if us.isEmpty then p else Sp.set [] p n (Sp.get [] p n ++ us)) m.pendV,
    horizon := if m.active.any fun y => guardSelects i y.p then max m.horizon t else m.horizon }

/-- A member goes on by itself after the formed group's instruction: its loop end, or its meetings and its switch point. -/
def State.memberFlow (s : State) (r : GrpRef) (sp : Option Mask) (loopEnd : Bool) : State :=
  match s.group? r with
  | none => s
  | some (_, g) => if loopEnd then s.setGroup r { g with loopDue := true, spDue := sp.map some } else s.settled r sp

/-- The members of a formed group stay in it: each is READY at one PC, with nothing due there. -/
def staysFormed (l : List Group) : Bool :=
  match l with
  | [] => false
  | a :: _ => l.all fun m => m.mode == .ready && m.wait == .none && !m.loopDue && m.switchDue.isNone && m.pc == a.pc &&
      !m.active.isEmpty && !(m.active.any fun y => y.meet == some y.pc)

/-- An instruction that each member makes by itself. Where it parts the formed group, or the members' branches part, none: the group
dissolves before it (R241, R295). -/
def State.runParts (s : State) (r : GrpRef) (t : Team) (g : Group) (i : Instr) (ws : List W32) : Option State :=
  let ms := t.members g
  let ready := fun (m : Group) => { m with mode := .ready, wait := .none, formed := [] }
  let ref := fun (k : Nat) => ({ team := r.team, grp := k } : GrpRef)
  let apart := ms.filterMap fun (k, m) => (s.runAs (ref k) (ready m) i ws).map fun u => (lowLane { m with threads := m.active }, u)
  if apart.length != ms.length then none else
  match firstEnd s r.team apart with
  | some u => if isBranch i then none else some u
  | none =>
    let last := ms.foldl (fun (o : Option State) (k, m) => o.bind fun u => u.runAs (ref k) (ready m) i ws) (some s)
    last.bind fun u =>
      let after := ms.filterMap fun (k, m) => (u.group? (ref k)).map fun p => (m, p.2)
      let parted := after.any fun (m, v) => v.pc != (after.headD ({}, {})).2.pc || v.active.length != m.active.length
      if after.any (fun (_, v) => v.wait != .none && v.mode != .meeting) || (isBranch i && parted) then none else
      -- one issue of the formed group, not one for each member (R413)
      let u1 := u.updCore t.core fun c => { c with est := { c.est with sw := c.est.sw - (ms.length - 1) * weight i 0 } }
      let members := fun (f : Nat → Group → Group) => u1.updTeam r.team fun t =>
        { t with groups := t.groups.map fun (k, m) => (k, if g.formed.contains k then f k m else m) }
      if (spOf i).isNone && staysFormed (after.map (·.2)) then
        some (members fun k m => { m with mode := .formed, formed := if k = r.grp then g.formed else [] })
      else some (members fun _ m => m.clearLatches)

/-- The formed group's instruction; none where it dissolves before it: a wait, a parting, a loop end that would trap. Its members' tags
are checked and written each as its own (R241), and so are their horizons (R178). -/
def State.runJoined (s : State) (r : GrpRef) (t : Team) (g : Group) (i : Instr) (ws : List W32) (same : Bool) : Option State :=
  let ms := t.members g
  let j := joinGroups g ms
  let next := g.pc + 4 * ws.length
  let own := if same then [] else ms.filterMap fun (k, m) => (s.runAs r (ofMember j k m) i ws).map fun u => (k, lowLane (ofMember j k m), u)
  match firstEnd s r.team (own.map (·.2)), s.runAs r j i ws with
  | some u, _ => some u
  | none, none => none
  | none, some u =>
    if s.ends u r.team then some u else
    (u.group? r).bind fun (_, v) =>
      let ends := ms.filter fun (_, m) => m.atLoopEnd next
      if !(v.mode = .ready || v.mode = .saving) || v.wait != .none || v.pc != next || ends.any (fun (_, m) => !m.converged) then none else
      -- the instruction's own time, on horizons that have passed
      let t := (((s.runAs r { j with horizon := 0 } i ws).bind (·.group? r)).map fun p => p.2.horizon).getD 0
      let mine := fun (k : Nat) => (own.find? fun p => p.1 == k).bind fun p => (p.2.2.group? r).map (·.2)
      let put := fun ((k, m) : Nat × Group) => match ms.find? fun p => p.1 == k with
        | none => (k, m)
        | some (_, m0) => (k, splitMember i next s.time t j v (mine k) m0)
      let u1 := u.updTeam r.team fun t => { t with groups := t.groups.map put }
      let met := ms.any fun (_, m) => m.active.any fun y => y.meet == some next
      if (spOf i).isSome || met || !ends.isEmpty then
        some (ms.foldl (fun (w : State) (k, _) => w.memberFlow { team := r.team, grp := k } (spOf i) (ends.any fun p => p.1 == k)) (u1.dissolve r))
      else some u1

def State.runFormed (s : State) (r : GrpRef) (t : Team) (g : Group) (i : Instr) (ws : List W32) : Option State :=
  let same := (t.members g).all fun (_, m) => m.tags == g.tags
  if byMember i || (!same && byTags i) then s.runParts r t g i ws else s.runJoined r t g i ws same

/-! ## The issue of one group -/

/-- Words of an instruction come through the die's L2 (R72, R76). -/
def State.fetched (s : State) (die : Nat) (ws : List (List W64)) (va : Nat) : Nat → State
  | 0 => s
  | n + 1 =>
    let s1 := match checkAccess ws va 4 permX with
      | .ok ia => if homeOf ia ≥ 8 then s else (s.fetchLine die (lineOf ia)).getD s
      | .error _ => s
    s1.fetched die ws (va + 4) n

/-- Issue of a decoded instruction by a group alone. -/
def State.issueAlone (s : State) (r : GrpRef) (t : Team) (g : Group) (i : Instr) (ws : List W32) : Out :=
  let s1 := s.fetched (dieOf t.core) (s.ctx t.ctx).windows g.pc ws.length
  mapNext (fun u => ((s1.pairedRoom u r.team).noteOwn r g.retiredSum)) (s1.run r i ws)

/-- A group that had waited for a log entry has issued: an entry that it has not taken is the next waiter's (R93). -/
def State.leftLog (s : State) (r : GrpRef) (t : Team) (g : Group) : State :=
  if (s.group? r).any fun (_, h) => h.wait == .logEntry then s else s.passLog t.core g.wait

/-- The issue of a decoded instruction by a group, formed or not, that its interval lets go. -/
def State.issueOne (s : State) (r : GrpRef) (t : Team) (g : Group) (i : Instr) (ws : List W32) : Out :=
  if g.formed.isEmpty then s.issueAlone r t g i ws
  else
    let alone := (s.dissolve r).issueAlone r t g i ws
    let s1 := s.fetched (dieOf t.core) (s.ctx t.ctx).windows g.pc ws.length
    if !formable i then alone
    else match s1.runFormed r t g i ws with
      | some u => .next ((s1.pairedRoom u r.team).noteOwn r g.retiredSum)
      | none => alone

/-- The next instruction of a group issues; none where the group may not issue now. After 32 consecutive issues the core switches away from
the group first, unless that instruction reads a latch; the second of a pair is no issue of its own there (R239, R405). -/
def State.issueAt (s : State) (r : GrpRef) (second : Bool) : Option Out :=
  match s.group? r with
  | none => none
  | some (t, g) =>
    if !State.mayIssue t g || (s.cluster (clusterOf t.core)).changing.isSome then none else
    match s.nextInstr t g with
    | .absent _ _ => (stateOf (execFetchFault r s)).map .next
    | n =>
      if g.switchDue.isSome || (decide (32 ≤ g.run) && !second && (match n with | .instr i _ => !readsLatch i | _ => true)) then none else
      match n with
      | .absent _ _ => none
      | .violation c => some (.next (s.take r (tWindow c g.pc none)))
      | .illegal _ => some (.next (s.take r tIllegalInstruction))
      | .instr i ws =>
        match s.gateOf r t g i with
        | .wait => none
        | .request => some (.next (s.requestEnd r true))
        | .close => some (.next (s.requestEnd r false))
        | .go => some (mapNext (fun u => u.leftLog r t g) (s.issueOne r t g i ws))

end Sys2Proof.Machine
end

