-- ==== Sys2Proof/Machine/Pipes.lean ====
section
/-! DEFINITION. Issue in a cycle: the pipes of a core, the pair of one group, the throttle, and the choice of a group (R405, R406, R416,
R420). -/
namespace Sys2Proof.Machine
open Sys2Proof

/-! ## Pipes (R405) -/

/-- The pipe of an instruction (R405). -/
def pipeOf (i : Instr) (width : Nat) : Pipe :=
  match i with
  | .rcp .. | .rsq .. | .exp2 .. | .log2 .. | .sin .. | .cos .. | .tanh .. | .sqrt .. | .logistic .. => .special
  | .ld .. | .ldU .. | .st .. | .stU .. | .lds .. | .sts .. | .ldv .. | .stv .. | .pres .. | .pref .. | .cinv .. | .cwb ..
  | .lockl .. | .unlockl .. | .atom .. | .atomU .. | .atoms .. | .red .. | .engShape .. | .engCopy .. | .engPlane ..
  | .engGather .. | .engScatter .. | .engFill .. | .engUnplane .. | .engSend .. | .engRecv .. | .engArm .. | .engCntrd ..
  | .engCntadd .. | .engReduce .. | .engCancel .. | .engWait .. | .engQuery .. => .memory
  | .mma .. | .tzero .. | .tcvt .. | .tamax .. | .mwait .. | .msign .. | .mset .. | .mstat .. | .tld .. | .tst .. => .matrix
  | i => if isVset i then (if width = 64 then .vectors else .vector) else .uniform

/-- Two pipes that one cycle cannot give to two instructions, or only as the two vector pipes. -/
def Pipe.meets (p q : Pipe) : Bool :=
  p == q || match p, q with | .vector, .vectors | .vectors, .vector => true | _, _ => false

/-- What a core has issued in a cycle of its clock. -/
def Core.pipesAt (x : Core) (c : Nat) : List Pipe := if x.last = some c then x.pipes else []
def Core.issuersAt (x : Core) (c : Nat) : List (GrpRef × Nat) := if x.last = some c then x.issuers else []

/-- The cycles of a core's clock that fall in the present nanosecond and in the window under way, those before its last issue apart
(log 8). -/
def State.cyclesNow (s : State) (core : Nat) : List Nat :=
  let cl := s.cluster (clusterOf core)
  let lo := cycleFrom cl.cls (s.time - cl.base)
  ((List.range 4).map (lo + ·)).filter fun c =>
    decide (c ≤ cycleTo cl.cls (s.time - cl.base)) && decide (c / 256 = cl.windows) && (s.core core).last.all fun b => decide (b ≤ c)

/-- A pipe is free in a cycle; the dusk throttle closes the vector and matrix pipes in odd cycles (R405, R416). -/
def State.pipeFree (s : State) (core c : Nat) (p : Pipe) : Bool :=
  let x := s.core core
  let taken := x.pipesAt c
  let open_ := !(x.est.throttled && c % 2 == 1)
  match p with
  | .vector => open_ && !taken.contains .vectors && decide (taken.count .vector < 2)
  | .vectors => open_ && !taken.contains .vectors && !taken.contains .vector
  | .matrix => open_ && !taken.contains .matrix
  | .special => !taken.contains .special && decide (x.special ≤ c)
  | p => !taken.contains p

/-- Group `r` has issued the instruction at `pc` in a cycle, on a pipe of its core. -/
def State.stamp (s : State) (core c : Nat) (r : GrpRef) (pc : Nat) (p : Pipe) (width : Nat) : State :=
  s.updCore core fun x => { x with
    last := some c, pipes := p :: x.pipesAt c, issuers := (r, pc) :: x.issuersAt c,
    special := if p = .special then c + width / 8 else x.special }

/-! ## The pair of one group (R405) -/

/-- The most registers that one operand of an instruction names; 8 where that hangs on a tag. -/
def operandSpan (i : Instr) : Nat :=
  match i with
  | .mov .. | .movU .. | .movi .. | .moviU .. | .iadd .. | .iaddU .. | .isub .. | .isubU .. | .imul .. | .imulU .. | .imulh .. | .imulhU ..
  | .imulhu .. | .imulhuU .. | .imin .. | .iminU .. | .imax .. | .imaxU .. | .iminu .. | .iminuU .. | .imaxu .. | .imaxuU .. | .and .. | .andU ..
  | .or .. | .orU .. | .xor .. | .xorU .. | .shl .. | .shlU .. | .shr .. | .shrU .. | .sar .. | .sarU .. | .sel .. | .selU .. | .popc ..
  | .popcU .. | .clz .. | .clzU .. | .iabs .. | .iabsU .. | .ineg .. | .not .. | .notU .. | .brev .. | .bfx .. | .bfxU .. | .bfi .. | .bfiU ..
  | .iaddi .. | .imuli .. | .andi .. | .ori .. | .rcp .. | .rsq .. | .exp2 .. | .log2 .. | .sin .. | .cos .. | .tanh .. | .sqrt ..
  | .logistic .. | .curr .. | .burn .. | .wdog .. | .csrr .. => 1
  | .fadd o | .fsub o | .fmul o | .fmin o | .fmax o | .fma o | .fabs o | .fneg o | .fint o => if isF64 o.fmt then 2 else 1
  | .fmuli o | .faddi o => if isF64 o.o.fmt then 2 else 1
  | .icmp o | .icmpU o | .fcmp o => cmpWidth o.fmt
  | .icmpi o => cmpWidth o.o.fmt
  | .ld .. | .ldU .. | .st .. | .stU .. | .lds .. | .sts .. | .ldv .. | .stv .. | .atom .. | .atomU .. | .atoms .. | .red .. | .iadd64 ..
  | .iadd64U .. | .isub64 .. | .isub64U .. | .lea .. | .leaU .. | .clk .. | .ctime .. => 2
  | _ => 8

/-- The registers that an operand at `n` may name: a run is aligned to its length (R16). -/
def runFrom (i : Instr) (n : Nat) : List Nat :=
  (List.range (min (operandSpan i) (if n % 8 = 0 then 8 else if n % 4 = 0 then 4 else if n % 2 = 0 then 2 else 1))).map (n + ·)

/-- Instructions that write no register. -/
def writesNone (i : Instr) : Bool :=
  match i with
  | .st .. | .stU .. | .sts .. | .stv .. | .red .. | .icmp .. | .icmpU .. | .icmpi .. | .fcmp .. | .nop .. | .nopU .. | .burn .. | .wdog ..
  | .csrw .. | .exit .. | .exitU .. | .tst .. => true
  | _ => false

/-- The registers that an instruction may write and read, each with its set: true for the uniform one. -/
def regsWritten (i : Instr) : List (Bool × Nat) :=
  match i.raw? with
  | some r => if writesNone i || r.w then [] else (runFrom i r.d.toNat).map fun n => (r.u, n)
  | none => []
def regsRead (i : Instr) : List (Bool × Nat) :=
  let u := i.raw?.any (·.u)
  let stored := match i with
    | .st o | .stU o | .sts o | .stv o => if o.h.long then [] else [Src.reg o.d]
    | .engShape o => (List.range 8).filterMap fun j => match o.a with | .reg n => some (Src.reg (n + BitVec.ofNat 7 j)) | _ => none
    | _ => []
  (sources i ++ stored).flatMap fun c => match c with
    | .reg n => (runFrom i n.toNat).map fun k => (u, k)
    | .bcast n => (runFrom i n.toNat).map fun k => (true, k)
    | _ => []

/-- The predicates that an instruction may write and read, each with its set. -/
def predsWritten (i : Instr) : List (Bool × Nat) :=
  match i with
  | .icmp o | .fcmp o => [(false, o.p.toNat)]
  | .icmpU o => [(true, o.p.toNat)]
  | .icmpi o => [(true, o.o.p.toNat)]
  | .lxch o => if ctlWrite o.c then [(false, ctlPred o.c)] else []
  | .ypack .. => (List.range 8).map fun k => (false, k)
  | _ => []
def predsRead (i : Instr) : List (Bool × Nat) :=
  let u := i.raw?.any (·.u)
  let own := match i with
    | .sel o | .selU o => [(u, (selPred o).idx.toNat)]
    | .poll o => [(u, ctlPred o.c)]
    | _ => []
  match i.raw?.map fun r => guardOf r.x with
  | some (.ok (some q)) => (u, q.idx.toNat) :: own
  | _ => own

/-- Branch-class, loop-class and safe-point instructions, of which a pair has none (R45, R46, R48). -/
def neverPaired (i : Instr) : Bool :=
  (spOf i).isSome || match i with
    | .bra .. | .braNodiv .. | .meet .. | .bru .. | .jmp .. | .jmpi .. | .call .. | .ret .. | .loop .. | .loopi .. | .brk .. => true
    | _ => false

/-- An instruction reads a register, a predicate or a latch that the one before it writes. -/
def dependsOn (j i : Instr) : Bool :=
  (regsRead j).any (fun x => (regsWritten i).contains x) || (predsRead j).any (fun x => (predsWritten i).contains x) ||
    (readsLatch j && !writesNone i && (i.raw?.map (·.u)) == j.raw?.map (·.u))

/-- The next instruction of a group may issue in the cycle in which the one at `pc` has issued (R405). -/
def State.pairs (s : State) (t : Team) (g : Group) (pc : Nat) (j : Instr) : Bool :=
  match s.nextInstr t { g with pc := pc } with
  | .instr i _ =>
    g.pc == pc + 4 * i.words && decide (0 < g.run) && !neverPaired i && !neverPaired j && !dependsOn j i &&
      (pipeOf i t.k.width != pipeOf j t.k.width || pipeOf j t.k.width == .vector)
  | _ => false

/-! ## The choice of a group (R406) -/

def rolePlace : Role → Nat
  | .copy => 0
  | .matrix => 1
  | .vector => 2

/-- A group's keys: launch priority, boost, role, age; those of a formed group are its oldest member's, and any member's boost is its
own (R406). -/
def State.issueKey (s : State) (r : GrpRef) (t : Team) (g : Group) : List Nat :=
  let ms := if g.formed.isEmpty then [(r.grp, g)] else t.members g
  let old := ms.foldl (fun (m : Nat × Group) p => if p.1 < m.1 then p else m) (r.grp, g)
  [((s.launches.find? t.launch).map (·.queue)).getD 9, (!ms.any (·.2.boosted)).toNat, rolePlace old.2.role, t.order, old.1]

/-- The groups of a core that may issue, by the keys of R406. -/
def State.candidates (s : State) (core : Nat) : List (GrpRef × Team × Group) :=
  let l := (s.residents core).flatMap fun ((id, t) : Nat × Team) =>
    (t.groups.filter fun ((_, g) : Nat × Group) => State.mayIssue t g).map fun ((k, g) : Nat × Group) =>
      let r : GrpRef := { team := id, grp := k }
      (s.issueKey r t g, r, t, g)
  (inOrder (fun a b => !lexLess b.1 a.1) l).map (·.2)

/-- The pipe that the next instruction of a group takes. -/
def State.nextPipe (s : State) (t : Team) (g : Group) : Pipe :=
  match s.nextInstr t g with
  | .instr i _ => pipeOf i t.k.width
  | _ => .uniform

/-- A group may issue in a cycle: it has not issued in it, or its next instruction pairs with the one that it has issued (R405). -/
def State.mayShare (s : State) (c : Nat) (r : GrpRef) (t : Team) (g : Group) : Bool :=
  match ((s.core t.core).issuersAt c).filter (·.1 == r) with
  | [] => true
  | [(_, pc)] => match s.nextInstr t g with | .instr j _ => s.pairs t g pc j | _ => false
  | _ => false

/-- A group has issued in a cycle of the present nanosecond, and its next instruction may yet issue in that cycle as the second of a pair:
the pair is one issue, so no switch point of R239 lies within it. -/
def State.pairOpen (s : State) (r : GrpRef) : Bool :=
  match s.group? r with
  | none => false
  | some (t, g) => State.mayIssue t g && (s.cyclesNow t.core).any fun c =>
      ((s.core t.core).issuersAt c).any (·.1 == r) && s.pipeFree t.core c (s.nextPipe t g) && s.mayShare c r t g

/-- What an issue in a cycle leaves: its pipe is taken where the instruction has issued and not begun a wait; the second of a pair is no
issue of its own (R405). -/
def State.issuedIn (s u : State) (c : Nat) (r : GrpRef) (t : Team) (g : Group) (second : Bool) : State :=
  if (u.group? r).all fun (_, h) => h.retiredSum != g.retiredSum then
    let v := if second then u.updGroup r fun h => { h with run := h.run - 1 } else u
    v.stamp t.core c r g.pc (s.nextPipe t g) t.k.width
  else u

/-- A group's issue in a cycle, where its pipe is free (R405). -/
def State.issueIn (s : State) (c : Nat) (x : GrpRef × Team × Group) : Option Out :=
  let (r, t, g) := x
  let second := ((s.core t.core).issuersAt c).any (·.1 == r)
  if !s.pipeFree t.core c (s.nextPipe t g) || !s.mayShare c r t g then none
  else (s.issueAt r second).map (mapNext fun u => s.issuedIn u c r t g second)

/-- The group stands first by its keys among those that could issue on its pipe in a cycle (R406). -/
def State.chosen (s : State) (c : Nat) (r : GrpRef) (t : Team) (g : Group) : Bool :=
  ((s.candidates t.core).find? fun x => (s.nextPipe x.2.1 x.2.2).meets (s.nextPipe t g) && (s.issueIn c x).isSome).all fun x => x.1 == r

/-- The issue of a named group, in the first cycle of the present nanosecond in which it is the one to be chosen. -/
def State.issueTurn (s : State) (r : GrpRef) : Option Out :=
  match s.group? r with
  | none => none
  | some (t, g) => (s.cyclesNow t.core).findSome? fun c => if s.chosen c r t g then s.issueIn c (r, t, g) else none

end Sys2Proof.Machine
end

