-- ==== Sys2Proof/Machine/Wire.lean ====
section
/-! DEFINITION. Plierrov messages as bytes (R446, R447, R450): what the bytes of a request ask for, and the words of a message
that the device sends. -/
namespace Sys2Proof.Machine
open Sys2Proof

/-- Bits `lo` to `lo + n - 1` of a word: their value, and the word in which they are set. -/
def bitsOf (w : W64) (lo n : Nat) : Nat := w.toNat / 2 ^ lo % 2 ^ n
def namedBits (l : List (Nat × Nat)) : W64 := l.foldl (fun (m : W64) (lo, n) => m ||| BitVec.ofNat 64 ((2 ^ n - 1) * 2 ^ lo)) 0
def allBits : W64 := 0xFFFFFFFFFFFFFFFF

/-- A bit of a body is set that no row names: `named` gives the named bits by word. -/
def unnamedSet (body named : List W64) : Bool := body.zipIdx.any fun (w, i) => w &&& ~~~(named.getD i 0) != 0

/-- The fields of `n` bits that follow one another from the start of some words. -/
def equalFields (ws : List W64) (n count : Nat) : List Nat := (List.range count).map fun i => bitsOf (ws.getD (n * i / 64) 0) (n * i % 64) n

/-- The header of a message of an endpoint (R446); `named` gives the bits of its body that R450 names. -/
def requestHead (ep : Nat) (bs : List Byte) (ws named : List W64) : Req :=
  let at_ := fun (i : Nat) => ws.getD i 0
  { ep := ep, seq := (at_ 1).extractLsb' 32 32, ctx := bitsOf (at_ 1) 16 16, tag := at_ 3, ver := (at_ 0).extractLsb' 56 8,
    zero := (at_ 0).extractLsb' 48 8, length := bitsOf (at_ 0) 0 32, status := (at_ 1).extractLsb' 0 16, time := at_ 2,
    broken := unnamedSet (ws.drop 4) named || bitsOf (at_ 0) 0 32 != bs.length }

/-- A request whose bytes break the limits of its fields. -/
def brokenIf (b : Bool) (r : Req) : Req := if b then { r with broken := true } else r

/-- The launch packet, graph records and peer entries of a body (R389, R396, R451). -/
def recordsOf (ws : List W64) (size count : Nat) : List (List W64) := (List.range count).map fun i => (List.range size).map fun j => ws.getD (size * i + j) 0

/-- MS_OP by its operation (R80). -/
def msRequest (r : Req) (op home level page : Nat) (expect new : W64) : State → Out :=
  match op with
  | 0 => execPtSet r home level page expect new
  | 1 => execMigrate r home level page new
  | 2 => execReclaim r home level page
  | _ => execPtSet (brokenIf true r) home level page expect new

/-- MS_CONFIG by its register (R79). -/
def configRequest (r : Req) (register unit slot : Nat) (value : W64) : State → Out :=
  match register with
  | 0 => execMsConfigPtroot r unit value
  | 1 => execMsConfigLease r unit value
  | 2 => execMsConfigPeertab r unit slot value
  | 3 => execMsConfigPoolb r unit value
  | 4 => execMsConfigPooll r unit value
  | _ => execMsConfigPtroot (brokenIf true r) unit value

/-- What the bytes of a message ask for: the request that they are, and its meaning (R447, R450). -/
def execMessage (ep : Nat) (bs : List Byte) : State → Out :=
  let ws := bytesWords ((bs.length + 7) / 8) bs
  let body := ws.drop 4
  let at_ := fun (i : Nat) => body.getD i 0
  let head := requestHead ep bs ws
  let whole := fun (n : Nat) => List.replicate n allBits
  let f := fun (i lo n : Nat) => bitsOf (at_ i) lo n
  match (ws.getD 0 0).toNat / 2 ^ 32 % 2 ^ 16 with
  | 0x01 => execStatus (head [])
  | 0x02 => execAttest (head (whole 4)) (BitVec.ofNat 256 (leNat ((bs.drop 32).take 32)))
  | 0x10 => execSemClaim (head [])
  | 0x11 => execSemRelease (head [])
  | 0x20 => execContextCreate (head ([namedBits [(0, 16)], namedBits [(0, 52)]] ++ whole 2)) (f 0 0 16) (f 1 0 52) (equalFields (body.drop 2) 16 8)
  | 0x21 => execContextEnd (head [])
  | 0x22 => execWindow (head (namedBits [(0, 3)] :: whole 4)) (BitVec.ofNat 3 (f 0 0 3)) (at_ 1) (at_ 2) (at_ 3) (at_ 4)
  | 0x23 => execFaultRoute (head [1]) ((at_ 0).getLsbD 0)
  | 0x24 => execRecordFree (head [namedBits [(0, 8), (16, 9)]]) (f 0 0 8) (f 0 16 9)
  | 0x30 => execPlierrovLaunch (head (whole 32)) ((List.range 32).map at_)
  | 0x31 => execThreshold (head [namedBits [(0, 12), (16, 9)], namedBits [(0, 48)]]) (f 0 0 12) (f 0 16 9) (f 1 0 48)
  | 0x32 =>
    let n := f 0 16 9
    let m := f 0 32 10
    execGraphLoad (head (namedBits [(0, 6), (16, 9), (32, 10)] :: whole (4 * n + m))) (f 0 0 6) (recordsOf (body.drop 1) 4 n)
      ((List.range m).map fun i => at_ (1 + 4 * n + i))
  | 0x33 => execGraphPush (head [namedBits [(0, 6), (16, 9), (32, 8)]]) (f 0 0 6) (f 0 16 9) (f 0 32 8)
  | 0x40 => execRmaRead (head [namedBits [(0, 57)], allBits]) (at_ 0) (at_ 1).toNat
  | 0x41 =>
    let n := (at_ 1).toNat
    execRmaWrite (brokenIf (decide (bs.length < 48 + n) || (bs.drop (48 + n)).any (· != 0)) (head (whole body.length))) (at_ 0) ((bs.drop 48).take n)
  | 0x42 => execRmaAtomic (head ([allBits, namedBits [(0, 5)]] ++ whole 2)) (at_ 0) (BitVec.ofNat 4 (f 1 0 4)) ((at_ 1).getLsbD 4) (at_ 2) (at_ 3)
  | 0x50 =>
    msRequest (head ([namedBits [(0, 2), (4, 4), (8, 2)], namedBits [(16, 36)]] ++ whole 2)) (f 0 0 2) (f 0 4 4) (f 0 8 2) (f 1 16 36 * 65536) (at_ 2) (at_ 3)
  | 0x51 => execFaultResume (head [namedBits [(0, 32)]]) ((at_ 0).setWidth 32)
  | 0x60 =>
    execLimits (head ([namedBits [(0, 53)], namedBits [(0, 5)]] ++ whole 4))
      { mask := (at_ 1).setWidth 5, cap := f 0 0 16, ramp := f 0 16 16, skew := f 0 32 21,
        floors := (List.range 8).map fun p => f (2 + p / 2) (p % 2 * 32) 16, ceilings := (List.range 8).map fun p => f (2 + p / 2) (p % 2 * 32 + 16) 16 }
  | 0x61 => execPartition (head (whole 2 ++ [namedBits [(0, 3)]])) ((equalFields body 16 8).map (BitVec.ofNat 16)) (f 2 0 3)
  | 0x62 => execClusterMap (head (namedBits [(0, 3)] :: whole 2)) (f 0 0 3) (equalFields (body.drop 1) 8 16)
  | 0x63 => execErrorStatus (head (1 :: List.replicate 17 (namedBits [(0, 48)])))
      (if (at_ 0).getLsbD 0 then some ((List.range 17).map fun u => f (1 + u) 0 48) else none)
  | 0x64 => configRequest (head [namedBits [(0, 4), (8, 4), (16, 6)], allBits]) (f 0 8 4) (f 0 0 4) (f 0 16 6) (at_ 1)
  | 0x65 => execThermal (head (whole 16)) (equalFields body 8 128)
  | 0x66 =>
    let n := f 0 16 13
    execPeerTable (head (namedBits [(0, 12), (16, 13)] :: whole (2 * n))) (f 0 0 12) ((List.range n).map fun i => (at_ (1 + 2 * i), at_ (2 + 2 * i)))
  | t => execUnknownMessage (head (whole body.length)) (BitVec.ofNat 16 t)

/-- The words of a message that the device sends: the header of R446, then the body. -/
def Msg.words (m : Msg) : List W64 :=
  [BitVec.ofNat 64 (2 ^ 56 + m.type.toNat * 2 ^ 32 + (32 + 8 * m.body.length)),
   BitVec.ofNat 64 (m.seq.toNat * 2 ^ 32 + m.ctx % 65536 * 2 ^ 16 + m.status.toNat), BitVec.ofNat 64 m.time, m.tag] ++ m.body

end Sys2Proof.Machine
end

