-- ==== Sys2Proof/Machine/Sched.lean ====
section
/-! DEFINITION. What takes place next: the turns that the outside world has fixed, or else the model's own schedule (log 2): the steps of the
package that are due, the issues of a cycle, the limits in time, or time (R376, R388, R445). -/
namespace Sys2Proof.Machine
open Sys2Proof

/-! ## Steps and the traps that they raise -/

/-- The state that an outcome answers, where it is one that is looked for. -/
def pick (p : State → Bool) (o : Out) : Option State := (stateOf o).filter p
/-- The first of some steps that takes place and leaves a state that is looked for. -/
def firstOf {α : Type} (p : State → Bool) (f : α → Out) (l : List α) : Option State := l.findSome? fun a => pick p (f a)

/-- A step has ended a resident team by a trap. -/
def State.traps (pre post : State) : Bool :=
  post.teams.any fun ((id, t) : Nat × Team) => t.mode == .stopped && (pre.teams.find? id).any fun u => u.mode != .stopped
def State.calm (pre post : State) : Bool := !pre.traps post

/-- Which of two traps of one cycle is recorded: the one of wider scope, then that of the lower group slot (R388). -/
def trapKey (pre post : State) : List Nat :=
  match (post.out.drop pre.out.length).find? fun m => m.type == 0x9001 with
  | some m => [3 - (m.body.getD 1 0).toNat / 2 ^ 50 % 4, (m.body.getD 5 0).toNat / 2 ^ 58]
  | none => [3, 64]
def firstTrap (pre : State) (l : List State) : Option State :=
  (l.foldl (fun (o : Option (List Nat × State)) u =>
    let k := trapKey pre u
    match o with
    | none => some (k, u)
    | some v => if lexLess k v.1 then some (k, u) else some v) none).map (·.2)

/-! ## Steps of the package that are due -/

def grpRefs (s : State) : List GrpRef := s.teams.flatMap fun (id, t) => t.groups.map fun ((k, _) : Nat × Group) => { team := id, grp := k }

/-- The lanes in flight of every log, the oldest entries first. -/
def laneRefs (s : State) : List LaneRef :=
  let es := s.cores.flatMap fun (c, x) => x.log.map fun ((i, e) : Nat × LogEntry) => (e.uid, c, i, e)
  (inOrder (fun a b => decide (a.1 ≤ b.1)) es).flatMap fun (_, c, i, e) =>
    (e.lanes.filter (·.waiting)).map fun x => { core := c, entry := i, lane := x.lane }

@[noinline] def laneStep (p : State → Bool) (s : State) (l : LaneRef) : Option State :=
  (pick p (execLoadDataReturn l s)).orElse fun _ => (pick p (execStoreComplete l s)).orElse fun _ =>
    (pick p (execReleaseAtHome l s)).orElse fun _ => (pick p (execAcquireAtHome l s)).orElse fun _ =>
      (pick p (execFaultResponse l s)).orElse fun _ => pick p (execPageWalk l s)

@[noinline] def tileStep (p : State → Bool) (s : State) (core : Nat) (c : Core) : Option State :=
  (firstOf p (fun (o : TileOp) => execTileOperationComplete core o.uid s) c.tileOps).orElse fun _ =>
    (pick p (execMmaComplete core s)).orElse fun _ => pick p (execMateAgreement core s)

/-- An engine operation takes at most one step in a nanosecond (log 2). -/
@[noinline] def engineStep (p : State → Bool) (s : State) (id : Nat) (o : EngOp) : Option State :=
  if o.last = some s.time then none else
  let t := (pick p (execEngineWriteProgress id s)).orElse fun _ => (pick p (execEngineOperationEnd id false s)).orElse fun _ =>
    pick p (execNoRecvTimeout id s)
  t.map fun (u : State) => u.updOp id fun o => { o with last := some s.time }

/-- Keys of the stages' records. -/
def recRefs (s : State) : List (Origin × Nat) :=
  s.stages.map fun (k, _) =>
    ({ kind := BitVec.ofNat 3 (k / 65536 / 128), die := BitVec.ofNat 3 (k / 65536 / 16 % 8), unit := BitVec.ofNat 4 (k / 65536 % 16) }, k % 65536)

@[noinline] def recordStep (p : State → Bool) (s : State) (o : Origin) (id : Nat) : Option State :=
  (pick p (execMergeWindowClose o id s)).orElse fun _ => (pick p (execFaultQueueRetry o id s)).orElse fun _ =>
    pick p (execFaultServiceTimeout o id s)

/-- The front end's next grant (R400). -/
@[noinline] def grantStep (s : State) : Option State :=
  match s.nextGrant s.serving with
  | some (.attempt _ t) => some t
  | some (.start _ t) => some t
  | some (.restore _ _ t) => some t
  | none => none

@[noinline] def teamStep (p : State → Bool) (s : State) (id : Nat) : Option State :=
  (pick p (execTeamStart id s)).orElse fun _ => (pick p (execTeamRetire id s)).orElse fun _ => (pick p (execPairedSignature id s)).orElse fun _ =>
    ((s.earlyBoundary id).filter p).orElse fun _ => ((s.twinWaits id).filter p).orElse fun _ =>
      (pick p (execTeamSaveEnd id s)).orElse fun _ => pick p (execForcedStop id s)

/-- A REGROUP that waited goes on, or ends in its trap (R109, R312, R313). -/
@[noinline] def meetStep (s : State) (id : Nat) (t : Team) : Option State :=
  if t.groups.any fun ((_, g) : Nat × Group) => g.mode == .meeting then
    let u := s.meet id
    if u = s then none else some u
  else none

/-- Loop-backs, switch points that are due, boosts, lanes, tile operations and engines. -/
@[noinline] def coreStep (p : State → Bool) (s : State) : Option State :=
  (firstOf p (fun g => execLoopBack g s) (grpRefs s)).orElse fun _ =>
  (firstOf p (fun g => if s.pairOpen g then notNow "ISSUE_LIMIT_SWITCH" else execIssueLimitSwitch g s) (grpRefs s)).orElse fun _ =>
  (firstOf p (fun g => execGroupBoost g s) (grpRefs s)).orElse fun _ =>
  ((laneRefs s).findSome? (laneStep p s)).orElse fun _ =>
  (s.cores.findSome? fun (c, x) => tileStep p s c x).orElse fun _ => s.ops.findSome? fun (id, o) => engineStep p s id o

/-- Fault records and their firmware. -/
@[noinline] def recordsStep (p : State → Bool) (s : State) : Option State :=
  ((recRefs s).findSome? fun (o, id) => recordStep p s o id).orElse fun _ => pick p (execFirmwareFaultService s)

/-- A held access has been performed, or has come to a record: no access is tried again and again in one nanosecond. -/
def State.moves (pre post : State) : Bool := decide (post.held.length < pre.held.length) || post.stages != pre.stages

/-- Waits of groups, gangs and teams that have ended, and held accesses that can be performed. -/
@[noinline] def waitsStep (p : State → Bool) (s : State) : Option State :=
  (firstOf p (fun g => execCompletionTimePassed (.group g) s) (grpRefs s)).orElse fun _ =>
  (firstOf p (fun n => execCompletionTimePassed (.memOp n) s) (List.range s.memOps.length)).orElse fun _ =>
  (firstOf (fun u => p u && s.moves u) (fun (x : Nat × HeldAccess) => execCompletionTimePassed (.held x.1) s) s.held).orElse fun _ =>
  (s.teams.findSome? fun (id, t) => (meetStep s id t).filter p).orElse fun _ =>
  (s.gangs.findSome? fun (id, _) => firstOf p (fun b => execGbarComplete id b s) (List.range 4)).orElse fun _ =>
  (s.waitOver.filter p).orElse fun _ =>
  s.teams.findSome? fun (id, _) => teamStep p s id

/-- What the I/O die and the front end have to do. -/
@[noinline] def ioStep (p : State → Bool) (s : State) : Option State :=
  (s.dawnStep.filter p).orElse fun _ => (s.attestStep.filter p).orElse fun _ =>
  (firstOf p (fun (x : Nat × Launch) => execGridRetire x.1 s) s.launches).orElse fun _ =>
  (firstOf p (fun (x : Nat × Graph) => execGraphNodeFire x.1 s) s.graphs).orElse fun _ =>
  (firstOf p (fun (x : Nat × Nat) => execCounterIrq x.1 x.2 s) s.io.irqs).orElse fun _ =>
  (firstOf p (fun u => execErrorIrq u s) s.io.errThr.keys).orElse fun _ =>
  (firstOf p (fun (x : Nat × Context) => execWindowAck x.1 s) s.contexts).orElse fun _ =>
  (s.powerFall.filter p).orElse fun _ =>
  ((grantStep s).filter p).orElse fun _ => firstOf p (fun (x : Nat × Launch) => execPreemptionRequest x.1 s) s.launches

/-- Work that can go on now and leaves a state that is looked for. -/
@[noinline] def workStep (p : State → Bool) (s : State) : Option State :=
  (coreStep p s).orElse fun _ => (recordsStep p s).orElse fun _ => (waitsStep p s).orElse fun _ => ioStep p s

/-! ## The issues of a cycle -/

/-- The cores that hold a team, in order: those of one column by their layers (R420). -/
def teamCores (s : State) : List Nat := (inOrder (fun a b => decide (a ≤ b)) (s.teams.map fun ((_, t) : Nat × Team) => t.core)).eraseDups

/-- Whether an outcome goes on without a trap; one that is no next state is the instruction's own. -/
def Out.calm (s : State) (o : Out) : Bool := match o with | .next u => s.calm u | _ => true

/-- The issues that the cores could make in the `k`-th cycle of the present nanosecond, by the keys of their groups on each core. -/
def issuesIn (s : State) (k : Nat) : List (Nat × Nat × Out) :=
  (teamCores s).flatMap fun core =>
    match (s.cyclesNow core).find? fun c => c == cycleFrom (s.classOf core) (s.time - (s.cluster (clusterOf core)).base) + k with
    | some c => (s.candidates core).filterMap fun x => (s.issueIn c x).map fun o => (core, c, o)
    | none => []

/-- What the cores issue next: an issue of the earliest cycle that has one without a trap before any that traps, or the traps of the earliest
cycle, each with its core and cycle (R376, R388). -/
def issueNow (s : State) : Option (Out ⊕ List (Nat × Nat × State)) :=
  (List.range 4).findSome? fun k =>
    let l := issuesIn s k
    match l.find? fun x => Out.calm s x.2.2 with
    | some x => some (.inl x.2.2)
    | none => if l.isEmpty then none else some (.inr (l.filterMap fun (core, c, o) => (stateOf o).map fun u => (core, c, u)))

/-! ## Limits in time -/

/-- Lines whose dirty bytes have stood for 2^16 ns, and records whose release is 2^28 ns old (R179, R181). -/
@[noinline] def ageStep (s : State) : Option State :=
  let any := fun (_ : State) => true
  (s.dies.findSome? fun (d, x) =>
    firstOf any (fun k => execDirtyByteDeadline d k s) ((x.lines.filter fun (_, l) => l.dirty != 0 && decide (s.time ≥ l.since + 2 ^ 16 - 1)).map (·.1))).orElse fun _ =>
  s.homes.findSome? fun (_, h) => h.lines.findSome? fun (k, x) => firstOf any (fun d => execHomeEpochAgePull k d s) x.recs.keys

/-- Limits in time that have passed. -/
@[noinline] def clockStep (s : State) : Option State :=
  let any := fun (_ : State) => true
  (ageStep s).orElse fun _ =>
  (firstOf any (fun (x : Nat × Cluster) => execClassChangeEnd x.1 s) s.clusters).orElse fun _ =>
  (firstOf any (fun (x : Nat × Cluster) => execEstimatorWindowEnd x.1 s) s.clusters).orElse fun _ =>
  (firstOf any (fun (x : Nat × Core) => execPairTimeout x.1 s) s.cores).orElse fun _ =>
  (stateOf (execDawnPtpWaitExpiry s)).orElse fun _ => (stateOf (execPtpHoldover s)).orElse fun _ => (stateOf (execKeepalive s)).orElse fun _ =>
  firstOf any (fun ep => execLinkLoss ep s) [s.io.ctl.1, s.io.ctl.2]

/-- Waits whose watchdog has run out: their scope is the widest (R385, R388). -/
@[noinline] def watchdogStep (s : State) : Option State := s.teams.findSome? fun ((id, _) : Nat × Team) => stateOf (execBarrierTimeout id s)

/-- The window of a cluster ends now with a trap; not while a core of it has a cycle of that window before it. -/
def windowTraps (s : State) (before : List (Nat × Nat × State)) : List State :=
  s.clusters.filterMap fun ((cl, _) : Nat × Cluster) =>
    if before.any fun (core, c, _) => clusterOf core == cl && c % 256 != 255 then none else pick s.traps (execEstimatorWindowEnd cl s)

/-- The traps of this moment, the one that is recorded first (R388). -/
def trapStep (s : State) (issues : List (Nat × Nat × State)) : Option State :=
  firstTrap s ((workStep s.traps s).toList ++ issues.map (·.2.2) ++ (s.cores.filterMap fun ((c, _) : Nat × Core) => pick s.traps (execPairTimeout c s))
    ++ windowTraps s issues)

/-- The model's own schedule: what goes on without a trap comes before the watchdogs, and these before the other traps (R376, R388). -/
def State.ownTurn (s : State) : Out :=
  match workStep s.calm s with
  | some t => .next t
  | none =>
    match issueNow s with
    | some (.inl o) => o
    | n =>
      let traps := match n with | some (.inr l) => l | _ => []
      match (watchdogStep s).orElse fun _ => (trapStep s traps).orElse fun _ => clockStep s with
      | some t => .next t
      | none => .next { s with time := s.time + 1 }

/-! ## The turns of the outside world -/

/-- Of messages that arrive in one cycle, in their order, the first that can be taken now: none overtakes an earlier one of its endpoint
(R445). The answer has the messages that are left. -/
def State.takeMessage (s : State) (passed : List (Nat × List Byte)) : List (Nat × List Byte) → Option (State × List (Nat × List Byte))
  | [] => none
  | (ep, bs) :: r =>
    if passed.any fun m => m.1 == ep then s.takeMessage ((ep, bs) :: passed) r
    else match execMessage ep bs s with
      | .next t => some (t, passed.reverse ++ r)
      | _ => s.takeMessage ((ep, bs) :: passed) r

/-- Messages of one cycle are taken in the order of their endpoints' identifiers (R445). -/
def State.messagesTurn (s : State) (l : List (Nat × List Byte)) : Option State :=
  if l.isEmpty then some s else
  (s.takeMessage [] (inOrder (fun a b => decide (a.1 ≤ b.1)) l)).map fun (t, rest) =>
    if rest.isEmpty then t else { t with turns := .messages rest :: t.turns }

/-- One turn of the outside world; none where it cannot take place now. -/
def State.takeTurn (s : State) (t : Turn) : Option Out :=
  match t with
  | .issue r => s.issueTurn r
  | .event i => (stateOf (exec i s)).map .next
  | .merge r others => (s.merge r others).map .next
  | .meet team => some (.next (s.meet team))
  | .messages l => (s.messagesTurn l).map .next
  | .acknowledged ep => some (.next (s.linkUp ep))

/-- A module whose I/O die failed does nothing until the next dawn (R440): turns are lost. -/
def State.failedTurn (s : State) : Out :=
  match s.turns with
  | [] => .next { s with time := s.time + 1 }
  | .event i :: rest =>
    let lost := { s with turns := rest }
    match exec i lost with
    | .next t => .next (if t.io.failed then lost else t)
    | _ => .next lost
  | _ :: rest => .next { s with turns := rest }

/-- The next step: the outside world's next turn where it can take place, or else the model's own. -/
def State.advance (s : State) : Out :=
  if s.io.failed then s.failedTurn else
  match s.turns with
  | [] => s.ownTurn
  | t :: rest => match ({ s with turns := rest } : State).takeTurn t with
    | some o => o
    | none => s.ownTurn

end Sys2Proof.Machine
end

