-- ==== Sys2Proof/Machine/Step.lean ====
section
/-! DEFINITION. One step of the machine, and a state whose next step fetches a given instruction. -/
namespace Sys2Proof.Machine
open Sys2Proof

/-- One step: the next turn of the outside world, or else the model's own schedule (log 2). -/
def step (s : State) : Host.Outcome State Fault Refusal := s.advance

/-- Where the placed program stands: virtual address 0x1000 of context 1, in the frame at 0x200000 of home 0. -/
def fetchPc : Nat := 0x1000
def fetchTable : Nat := 0x10000
def fetchFrame : Nat := 0x200000

/-- WIN0 of the placed context: EN, R, W, A and X over the first 4 GiB, home 0 (R60). -/
def fetchWindow : List W64 := [0, BitVec.ofNat 64 (2 ^ 32), 0, 0x1F]

/-- The descriptor of the placed kernel: one team of sixteen threads, the most registers, plane and ring sets (R389). -/
def fetchKernel : Kernel :=
  { entry := fetchPc, v := 128, s := 128, plane := true, ring := true, scratch := 40960, tensor := 81920, vault := 65536 }

/-- The placed team: one group of sixteen threads at the program's first word. -/
def fetchTeam (time : Nat) : Team :=
  { ctx := 1, k := fetchKernel, mode := .running, started := time, vault := some (0, 65536),
    groups := [(0, { threads := (List.range 16).map fun l => { tid := l, lane := l, pc := fetchPc },
                     pc := fetchPc, readySince := time, since := time })] }

/-- The package's memory with the three tables of home 0 that map its first two megabytes, and the program's words. -/
def fetchMem (m : List Host.Cell) (nbits w : Nat) : List Host.Cell :=
  let pte := fun (a e : Nat) (m : List Host.Cell) => writeBytes m (stackAt 0 a) (leBytes 8 e)
  let tables := pte fetchTable (2 ^ 61 + (fetchTable + 0x1000)) (pte (fetchTable + 0x1000) (2 ^ 61 + (fetchTable + 0x2000))
    (pte (fetchTable + 0x2000) (2 ^ 62 + fetchFrame) m))
  writeBytes tables (stackAt 0 (fetchFrame + fetchPc)) (leBytes 20 (w % 2 ^ nbits))

/-- `s` with an instruction's words placed as the program that the next step runs (log 1): what hosts, firmware and the front
end do between dawn and the first issue of a launch (R79, R399, R400, R450) stands in one update. -/
def State.withFetchWord (s : State) (nbits w : Nat) : State :=
  let h := s.home 0
  let d := s.die 0
  { s with
    turns := [.issue { team := 1, grp := 0 }],
    io := { s.io with failed := false },
    mem := fetchMem s.mem nbits w,
    homes := s.homes.put 0 { h with ptroot := fetchTable, cap := 2 ^ 36, failed := false, poisoned := [], poison := [],
                                    lines := h.lines.erase (fetchPc / 256) },
    dies := s.dies.put 0 { d with failed := false, lines := d.lines.erase (fetchPc / 256) },
    clusters := s.clusters.put 0 { s.cluster 0 with changing := none, base := s.time, sampled := s.time, windows := 0 },
    cores := s.cores.put 0 { s.core 0 with k := 1, us := 4, ut := 2, last := none, pipes := [], issuers := [], special := 0,
                                           est := { (s.core 0).est with throttled := false } },
    contexts := s.contexts.put 1 { s.ctx 1 with windows := [fetchWindow] },
    launches := s.launches.put 0 { ctx := 1, k := fetchKernel, hi := 1, next := 1, checked := true, dies := 1 },
    intervals := s.intervals.erase 1,
    held := s.held.filter fun p => !p.2.holds (fetchPc / 256),
    memOps := s.memOps.filter fun m => !m.covers fetchPc,
    next := max s.next 2,
    teams := Sp.put (s.teams.filter fun p => p.2.core != 0) 1 (fetchTeam s.time) }

end Sys2Proof.Machine
end

