-- ==== Sys2Proof/Safety.lean ====
section
/-! DEFINITION. The terms that claims use: a group at its issue, the checks of R55 passed, flow that ends in no trap,
a safe run, and the forms that the state keeps. -/
namespace Sys2Proof.Machine
open Sys2Proof

/-! ## An issue -/

/-- Group `r`, `g` of team `t`, holds the issue slot with the words `w` of its instruction. -/
structure AtIssue (s : State) (r : GrpRef) (w : W32 × W32) (t : Team) (g : Group) : Prop where
  latched : s.cur = some (r, w)
  resident : s.group? r = some (t, g)

/-- An instruction passes the precise checks of R55 and has its operands: its fields, its registers, its group's role, the
latches that it reads, and every register that it names ready (R95, R96). -/
structure Plan.Clear (p : Plan) (x : Issue) : Prop where
  form : p.illegal x = false
  mask : maskIllegal x.team.k p.h = false
  sources : p.srcs.any (srcIllegal p.u x.team.k) = false
  destinations : p.dsts.any (dstIllegal p.u x.team.k) = false
  operands : p.operand x = false
  role : p.role x.grp.role = true
  latches : x.latchInvalid (p.srcs.map (·.1)) = false
  ready : x.pending p.srcs = none
  judgedReady : x.pending ((p.readable x).map (·.src)) = none
  values : (p.readable x).any (·.illegal x) = false ∧ (p.readable x).any (·.operand x) = false

/-- The tag classes of an instruction hold (R247, R272). -/
def Issue.TagsOk (x : Issue) (l : List ((Tag → Bool) × Src × Nat)) : Prop := (l.findSome? fun (ok, c) => x.classFail ok c) = none

/-- Settling a group ends in no MEET_DEADLOCK (R237). -/
def Group.Settles (g : Group) : Prop := ∃ h, g.settle = .ok h

/-- Sequential flow of a group to `next` ends in no trap: where a loop body ends the group is converged (R303), and elsewhere
it settles. -/
def Group.FlowsTo (g : Group) (next : Nat) : Prop :=
  if g.atLoopEnd next then g.converged = true else { (g.mapActive fun t => { t with pc := next }) with pc := next }.Settles

/-- A redirect of the current set to a target ends in no trap (R296). -/
def Group.JumpsTo (g : Group) (target : Nat) : Prop :=
  { (g.mapActive fun t => { t with pc := target }) with pc := target, levels := endLevels target g.levels }.Settles

/-- Sequential flow past the instruction ends in no trap. -/
def Issue.FlowsOn (x : Issue) : Prop := x.grp.FlowsTo x.next

/-- In every state in which a group issues `i`, whose checks pass and for which `ok` holds, the instruction has its effect. -/
def Acts (i : Instr) (p : Plan) (ok : Issue → Prop) (effect : Issue → State) : Prop :=
  ∀ s r w t g, AtIssue s r w t g → p.Clear (issueOf i p s r w t g) → ok (issueOf i p s r w t g) →
    exec i s = .next (effect (issueOf i p s r w t g))

/-- The same for an instruction after which flow goes on in sequence. -/
def Runs (i : Instr) (p : Plan) (ok : Issue → Prop) (effect : Issue → State) : Prop :=
  Acts i p (fun x => x.FlowsOn ∧ ok x) fun x => x.seq (effect x)

/-- A V-set register-to-register instruction runs: the tag classes of its operands hold, and the ties among them. -/
def VRuns (i : Instr) (o : Alu) (q : Op) : Prop :=
  Runs i (q.plan false o) (fun x => x.TagsOk (q.classes o) ∧ q.tie x = .ok ())
    fun x => x.wroteV o.w o.d.toNat q.kd (q.tag x) (q.results x o)

/-- A U-set register-to-register instruction runs. -/
def URuns (i : Instr) (o : Alu) (q : Op) : Prop :=
  Runs i (q.plan true o) (fun _ => True) fun x => x.wroteU o.w o.d.toNat q.kd (q.value x (q.lane x o groupThread))

/-- A ring-set instruction runs: its working tag is `w`, its ring `r` (R351). -/
def YRuns (i : Instr) (o : Alu) (q : YOp) : Prop :=
  ∀ w r, Runs i (q.plan o) (fun x => yWork x o q.ok q.srcs = .ok (w, r)) fun x => x.wroteV o.w o.d.toNat 1 (q.tag w) (q.results x w r)

/-- A one-result cross-lane instruction runs (R306). -/
def LRuns (i : Instr) (o : Mode) (q : LaneOp) : Prop :=
  Runs i (q.plan o) (fun x => x.TagsOk q.tags) fun x => x.wroteV o.w o.d.toNat q.k q.tag (q.results x o)

/-- A U-set instruction runs where its guard selects it; elsewhere flow goes on, and what it leaves is `skip` (R273). -/
def SRuns (i : Instr) (p : Plan) (ok : Issue → Prop) (effect skip : Issue → State) : Prop :=
  Runs i p (fun x => x.selected = true ∧ ok x) effect ∧ Runs i p (fun x => x.selected = false) skip

/-- A matrix instruction of the V-set runs where some lane is selected; elsewhere flow goes on (R327). -/
def MRuns (i : Instr) (p : Plan) (ok : Issue → Prop) (effect skip : Issue → State) : Prop :=
  Runs i p (fun x => x.acts = true ∧ ok x) effect ∧ Runs i p (fun x => x.acts = false) skip

/-- A global access is admitted (R67, R93, R97, R147, R148): every lane's checks pass and give the addresses `ias`, no range
is locked, the ordering waits are over, and, where a lane is selected, entry `i` is free. -/
structure Issue.Admits (x : Issue) (a : Access) (ias : List (Nat × Nat)) (i : Nat) : Prop where
  places : x.places a = .ok ias
  unlocked : x.unlocked a ias = .ok ()
  gate : x.gate = .ok ()
  order : x.orderGate a.entry = .ok ()
  through : x.slots ≠ [] → x.throughGate a.entry = .ok ()
  entry : x.slots ≠ [] → x.freeEntry = some i

/-- What an admitted access leaves: its entry in the log and its destination pending on it (R92, R95). -/
def Issue.sent (x : Issue) (a : Access) (ias : List (Nat × Nat)) (i : Nat) : State :=
  if x.slots.isEmpty then x.awaits a none x.s else x.awaits a (some a.entry.uid) (x.enterLog i (x.logged a ias))

/-- The issuing group with the destination of an access pending on its entry, or unchanged and pushed where no lane is selected (R95). -/
def Issue.expects (x : Issue) (a : Access) : Group :=
  if a.load then x.grp.expect x.u a.entry.w a.entry.d a.k a.entry.tag (if x.slots.isEmpty then none else some a.entry.uid) else x.grp

/-- An instruction of one global access runs. -/
def GRuns (i : Instr) (p : Plan) (ok : Issue → Prop) (a : Issue → Access) : Prop :=
  ∀ ias k, Runs i p (fun x => ok x ∧ x.Admits (a x) ias k) fun x => x.sent (a x) ias k

/-- The instructions of one global access: what they ask for, what must hold besides their checks, and the access (R145, R149). -/
def globalAccess : Instr → Option (Plan × (Issue → Prop) × (Issue → Access))
  | .ld o => some (ldPlan false o, fun x => x.TagsOk (memClasses (ldPlan false o).srcs), ldAccess o)
  | .ldU o => some (ldPlan true o, fun _ => True, ldAccess o)
  | .st o => some (stPlan false o, fun x => x.TagsOk (memClasses (stPlan false o).srcs), stAccess o)
  | .stU o => some (stPlan true o, fun _ => True, stAccess o)
  | .atom o => some (atomPlan false o, fun x => x.TagsOk (atmClasses 2 o) ∧ x.team.k.paired = false, atmAccess .atomic o)
  | .atomU o => some (atomPlan true o, fun x => x.TagsOk (atmClasses 2 o) ∧ x.team.k.paired = false, atmAccess .atomic o)
  | .red o => some (redPlan o, fun x => x.TagsOk (atmClasses 2 o) ∧ x.team.k.paired = false, atmAccess .red o)
  | _ => none

/-- An ENG may act: its team is not paired and its group's accesses have completed (R158). -/
def Issue.EngReady (x : Issue) : Prop := x.team.k.paired = false ∧ x.settledEntries = .ok ()

/-- The two lane branches. -/
def laneBranch (nodiv : Bool) (o : Bra) : Instr := if nodiv then .braNodiv o else .bra o

/-- BAR.SYNC and BAR.ARRIVE. -/
def barArrival (sync : Bool) (o : Mode) : Instr := if sync then .barSync o else .barArrive o

/-- The copy functions of an engine. -/
def copyInstr (f : CopyFn) (o : Eng) : Instr :=
  match f with
  | .copy => .engCopy o
  | .plane => .engPlane o
  | .gather => .engGather o
  | .scatter => .engScatter o
  | .fill => .engFill o
  | .unplane => .engUnplane o

/-! ## Register-to-register instructions -/

/-- The V-set instructions that write registers from registers: their fields, and their operation (R272, R273). -/
def vectorOp : Instr → Option (Alu × Op)
  | .mov o => some (o, movOp o)
  | .sel o => some (o, selOp o)
  | .iadd o => some (o, intOp o true (· + ·))
  | .isub o => some (o, intOp o true (· - ·))
  | .imul o => some (o, intOp o true (· * ·))
  | .imulh o => some (o, wordOp o mulHigh)
  | .imulhu o => some (o, wordOp o mulHighU)
  | .imin o => some (o, wordOp o minS)
  | .imax o => some (o, wordOp o maxS)
  | .iminu o => some (o, wordOp o minU)
  | .imaxu o => some (o, wordOp o maxU)
  | .iabs o => some (o, int1Op o fun a => a.natAbs)
  | .ineg o => some (o, int1Op o fun a => -a)
  | .imac o => some (o, imacOp o)
  | .bdot o => some (o, bdotOp o)
  | .iadd64 o => some (o, int64Op o (· + ·))
  | .isub64 o => some (o, int64Op o (· - ·))
  | .lea o => some (o, leaOp o)
  | .and o => some (o, bitsOp o (· &&& ·))
  | .or o => some (o, bitsOp o (· ||| ·))
  | .xor o => some (o, bitsOp o (· ^^^ ·))
  | .not o => some (o, bits1Op o (~~~ ·))
  | .shl o => some (o, bitsOp o shl32)
  | .shr o => some (o, bitsOp o shr32)
  | .sar o => some (o, bitsOp o sar32)
  | .popc o => some (o, bits1Op o popcount)
  | .clz o => some (o, bits1Op o clz32)
  | .brev o => some (o, bits1Op o brev32)
  | .bfx o => some (o, bfxOp o)
  | .bfi o => some (o, bfiOp o)
  | .movi o => some (o.o, moviOp o)
  | .iaddi false o => some (o.o, immOp (intOp o.o true (· + ·)) o.imm)
  | .imuli false o => some (o.o, immOp (intOp o.o true (· * ·)) o.imm)
  | .andi false o => some (o.o, immOp (bitsOp o.o (· &&& ·)) o.imm)
  | .ori false o => some (o.o, immOp (bitsOp o.o (· ||| ·)) o.imm)
  | .fadd o => some (o, fltOp o false fun m a b _ => Val.add m a b)
  | .fsub o => some (o, fltOp o false fun m a b _ => Val.add m a b.neg)
  | .fmul o => some (o, fltOp o false fun _ a b _ => Val.mul a b)
  | .fma o => some (o, fltOp o true fun m a b c => Val.add m (Val.mul a b) c)
  | .fmuli o => some (o.o, fltImmOp o fun _ a b _ => Val.mul a b)
  | .faddi o => some (o.o, fltImmOp o fun m a b _ => Val.add m a b)
  | .fmin o => some (o, minmaxOp o false)
  | .fmax o => some (o, minmaxOp o true)
  | .fabs o => some (o, signOp o fun a s => a &&& ~~~s)
  | .fneg o => some (o, signOp o fun a s => a ^^^ s)
  | .fint o => some (o, fintOp o)
  | .fclass o => some (o, fclassOp o)
  | .rcp o => some (o, sfuOp o .rcp)
  | .rsq o => some (o, sfuOp o .rsq)
  | .exp2 o => some (o, sfuOp o .exp2)
  | .log2 o => some (o, sfuOp o .log2)
  | .sin o => some (o, sfuOp o .sin)
  | .cos o => some (o, sfuOp o .cos)
  | .tanh o => some (o, sfuOp o .tanh)
  | .sqrt o => some (o, sfuOp o .sqrt)
  | .logistic o => some (o, sfuOp o .logistic)
  | .padd o => some (o, packedOp o false fun m a b _ => Val.add m a b)
  | .pmul o => some (o, packedOp o false fun _ a b _ => Val.mul a b)
  | .pfma o => some (o, packedOp o true fun m a b c => Val.add m (Val.mul a b) c)
  | _ => none

/-- The U-set instructions that write registers from registers. -/
def uniformOp : Instr → Option (Alu × Op)
  | .movU o => some (o, movOp o)
  | .selU o => some (o, selOp o)
  | .iaddU o => some (o, intOp o true (· + ·))
  | .isubU o => some (o, intOp o true (· - ·))
  | .imulU o => some (o, intOp o true (· * ·))
  | .imulhU o => some (o, wordOp o mulHigh)
  | .imulhuU o => some (o, wordOp o mulHighU)
  | .iminU o => some (o, wordOp o minS)
  | .imaxU o => some (o, wordOp o maxS)
  | .iminuU o => some (o, wordOp o minU)
  | .imaxuU o => some (o, wordOp o maxU)
  | .iabsU o => some (o, int1Op o fun a => a.natAbs)
  | .imacU o => some (o, imacOp o)
  | .iadd64U o => some (o, int64Op o (· + ·))
  | .isub64U o => some (o, int64Op o (· - ·))
  | .leaU o => some (o, leaOp o)
  | .andU o => some (o, bitsOp o (· &&& ·))
  | .orU o => some (o, bitsOp o (· ||| ·))
  | .xorU o => some (o, bitsOp o (· ^^^ ·))
  | .notU o => some (o, bits1Op o (~~~ ·))
  | .shlU o => some (o, bitsOp o shl32)
  | .shrU o => some (o, bitsOp o shr32)
  | .sarU o => some (o, bitsOp o sar32)
  | .popcU o => some (o, bits1Op o popcount)
  | .clzU o => some (o, bits1Op o clz32)
  | .bfxU o => some (o, bfxOp o)
  | .bfiU o => some (o, bfiOp o)
  | .moviU o => some (o.o, moviOp o)
  | .iaddi true o => some (o.o, immOp (intOp o.o true (· + ·)) o.imm)
  | .imuli true o => some (o.o, immOp (intOp o.o true (· * ·)) o.imm)
  | .andi true o => some (o.o, immOp (bitsOp o.o (· &&& ·)) o.imm)
  | .ori true o => some (o.o, immOp (bitsOp o.o (· ||| ·)) o.imm)
  | _ => none

/-- A group keeps what an instruction does not write: the registers and tags other than `v`, the uniform registers other than
`w`, its predicates but for those that `p` and `q` allow, its partition sizes, loop counters, return stack, horizon and role, the
accesses that registers wait for and its arrivals at barriers. -/
structure Group.Keeps (g h : Group) (v w : Nat → Prop) (p q : Prop) : Prop where
  registers : ∀ n, ¬ v n → h.threads.map (fun x => (x.tid, x.lane, x.reg n)) = g.threads.map fun x => (x.tid, x.lane, x.reg n)
  tags : ∀ n, ¬ v n → h.tag n = g.tag n
  uniforms : ∀ n, ¬ w n → h.sreg n = g.sreg n
  predicates : ¬ p → h.threads.map (fun x => (x.tid, x.p)) = g.threads.map fun x => (x.tid, x.p)
  groupPredicates : ¬ q → h.q = g.q
  masks : h.g = g.g
  counters : h.lc = g.lc
  returns : h.ret = g.ret
  horizon : h.horizon = g.horizon
  role : h.role = g.role
  pending : h.pendV = g.pendV ∧ h.pendS = g.pendS
  arrivals : h.outB = g.outB ∧ h.outG = g.outG

/-- Every state outside group `r` stands but for exception counters and the estimator's sum: memory byte for byte, the other
groups and teams, caches, homes, contexts, engines, barriers, graphs, messages and traffic. -/
structure State.KeptOutside (s u : State) (r : GrpRef) : Prop where
  memory : ∀ a, readByte u.mem a = readByte s.mem a
  external : ∀ a, readByte u.ext a = readByte s.ext a
  teams : ∀ id, id ≠ r.team → u.teams.find? id = s.teams.find? id
  team : ∀ t, s.teams.find? r.team = some t → ∃ m, u.teams.find? r.team = some { t with groups := m } ∧
    ∀ k, k ≠ r.grp → m.find? k = t.groups.find? k
  cores : ∀ c, { u.core c with est := (s.core c).est } = s.core c
  dies : u.dies = s.dies
  homes : u.homes = s.homes
  contexts : u.contexts = s.contexts
  ops : u.ops = s.ops
  gangs : u.gangs = s.gangs
  saved : u.saved = s.saved
  stages : u.stages = s.stages
  columns : u.columns = s.columns
  clusters : u.clusters = s.clusters
  held : u.held = s.held
  memOps : u.memOps = s.memOps
  graphs : u.graphs = s.graphs
  net : u.net = s.net
  absent : u.peerAbsent = s.peerAbsent
  badFrames : u.badFrames = s.badFrames
  deadSlots : u.deadSlots = s.deadSlots
  externalPoison : u.extPoison = s.extPoison
  draws : u.draws = s.draws
  messages : u.out = s.out
  time : u.time = s.time
  io : { u.io with irqs := s.io.irqs } = s.io
  launches : ∀ k, (u.launches.find? k).map (fun l => { l with counters := [], fired := [] }) =
    (s.launches.find? k).map fun l => { l with counters := [], fired := [] }
  intervals : ∀ k, (u.intervals.find? k).map (fun i => { i with counts := [] }) = (s.intervals.find? k).map fun i => { i with counts := [] }

/-- The registers that a write of `k` words from `d` on names; a write that is discarded names none. -/
def inSpan (discarded : Bool) (d k n : Nat) : Prop := discarded = false ∧ d ≤ n ∧ n < d + k

/-- What an instruction leaves unchanged where it completes: outside its group everything, inside it all but what it writes. -/
def State.Frame (s u : State) (r : GrpRef) (g : Group) (v w : Nat → Prop) (p q : Prop) : Prop :=
  s.KeptOutside u r ∧ ∃ t h, u.group? r = some (t, h) ∧ g.Keeps h v w p q

/-- An instruction completes, in every state in which its checks pass and `ok` holds, and changes nothing outside its group, and in
it only the registers of `v`, the uniform registers of `w`, and predicates where `p` and `q` allow it. -/
def Confined (i : Instr) (pl : Plan) (ok : Issue → Prop) (v w : Issue → Nat → Prop) (p q : Prop) : Prop :=
  ∀ s r iw t g, AtIssue s r iw t g → pl.Clear (issueOf i pl s r iw t g) → ok (issueOf i pl s r iw t g) →
    ∃ u, exec i s = .next u ∧ s.Frame u r g (v (issueOf i pl s r iw t g)) (w (issueOf i pl s r iw t g)) p q

/-- No register. -/
def noReg (_ : Issue) (_ : Nat) : Prop := False

/-- An instruction that stores to the bytes of a set and nowhere else, and leaves the rest of its group but the horizon. -/
def Stores (s u : State) (r : GrpRef) (g : Group) (v : Nat → Prop) (stored : Nat → Prop) : Prop :=
  (∀ a, ¬ stored a → readByte u.mem a = readByte s.mem a) ∧
  s.KeptOutside { u with mem := s.mem, dies := s.dies, intervals := s.intervals } r ∧
  (∀ d, { u.die d with poison := [], release := 0 } = { s.die d with poison := [], release := 0 }) ∧
  (∀ id, id ≠ r.team → u.intervals.find? id = s.intervals.find? id) ∧
  ∃ t h, u.group? r = some (t, h) ∧ g.Keeps { h with horizon := g.horizon } v (fun _ => False) False False

/-- What a state holds on its way stays on it, and what is added to it is as `ok` says. -/
def HoldsMore (s u : State) (ok : HeldAccess → Prop) : Prop :=
  (∀ k < s.next, u.held.find? k = s.held.find? k) ∧ ∀ k h, u.held.find? k = some h → s.held.find? k = some h ∨ ok h

/-! ## Host messages (R448) -/

/-- The module takes a message: it is awake, its sender may send it, it keeps to R446 and names a context that stands, and its body is not bad. -/
structure Takes (s : State) (r : Req) (type : BitVec 16) (who : Who) (needCtx bad : Bool) : Prop where
  answers : s.io.failed = false
  awake : s.awake type = true
  controls : s.controls who r.ep = true
  semaphore : s.holdsSem who r.ep = true
  sound : s.sound r needCtx = true
  header : headerOk r (bodyNeed type) = true
  body : bad = false

/-- A message that the module takes has its effect. -/
def Handles (i : Instr) (r : Req) (type : BitVec 16) (who : Who) (needCtx bad : Bool) (go : State → State) (ok : State → Prop := fun _ => True) : Prop :=
  ∀ s, ok s → Takes s r type who needCtx bad → exec i s = .next (go (s.heard r))

/-- One that it does not take is answered with the first status of R448 that applies, in the order 1 to 4, and does nothing
else. -/
def Refuses (i : Instr) (r : Req) (type : BitVec 16) (who : Who) (needCtx bad : Bool) (ok : State → Prop := fun _ => True) : Prop :=
  ∀ s, ok s → s.io.failed = false →
    (s.awake type = false → exec i s = .next ((s.heard r).reply r type 1 [])) ∧
    (s.awake type = true → s.controls who r.ep = false → exec i s = .next ((s.heard r).reply r type 2 [])) ∧
    (s.awake type = true → s.controls who r.ep = true → s.holdsSem who r.ep = false → exec i s = .next ((s.heard r).reply r type 3 [])) ∧
    (s.awake type = true → s.controls who r.ep = true → s.holdsSem who r.ep = true → (bad = true ∨ headerOk r (bodyNeed type) = false ∨ s.sound r needCtx = false) →
      exec i s = .next ((s.heard r).reply r type 4 []))

/-! ## Forms that the state keeps -/

/-- Memory stands in its canonical form. -/
def State.MemoryCanonical (s : State) : Prop := Memory.wf s.mem = true ∧ Memory.wf s.ext = true

/-! ## Runs -/

/-- The machine goes on from a state: its next step is neither a fault nor a refusal. -/
def Safe (s : State) : Prop := ∃ t, step s = .next t

/-- States that a run reaches. -/
inductive Reaches : State → State → Prop where
  | here (s : State) : Reaches s s
  | step {s t u : State} (h : Machine.step s = .next t) (r : Reaches t u) : Reaches s u

/-- A run that never stops. -/
def RunsOn (s : State) : Prop := ∀ t, Reaches s t → Safe t

end Sys2Proof.Machine
end

