-- ==== Sys2Proof/Certificates/Slice0/Obligations.lean ====
section
/-! DEFINITION. The statements for the provers. Every `Plan` is what an instruction asks for before it acts (R55); `Plan.Clear`
says that its checks pass and its operands are there. -/
open Sys2Proof Sys2Proof.Machine

/-! ## Every program instruction completes (R55, R273) -/

/-- Integer and logic instructions of the V-set write their results, lane by lane. -/
def Obligations.IntegerLaneInstructionsComplete : Prop :=
  (∀ o, VRuns (.mov o) o (movOp o)) ∧ (∀ o, VRuns (.sel o) o (selOp o)) ∧
  (∀ o, VRuns (.iadd o) o (intOp o true (· + ·))) ∧ (∀ o, VRuns (.isub o) o (intOp o true (· - ·))) ∧
  (∀ o, VRuns (.imul o) o (intOp o true (· * ·))) ∧ (∀ o, VRuns (.imulh o) o (wordOp o mulHigh)) ∧
  (∀ o, VRuns (.imulhu o) o (wordOp o mulHighU)) ∧ (∀ o, VRuns (.imin o) o (wordOp o minS)) ∧
  (∀ o, VRuns (.imax o) o (wordOp o maxS)) ∧ (∀ o, VRuns (.iminu o) o (wordOp o minU)) ∧
  (∀ o, VRuns (.imaxu o) o (wordOp o maxU)) ∧ (∀ o, VRuns (.iabs o) o (int1Op o fun a => a.natAbs)) ∧
  (∀ o, VRuns (.ineg o) o (int1Op o fun a => -a)) ∧ (∀ o, VRuns (.imac o) o (imacOp o)) ∧
  (∀ o, VRuns (.bdot o) o (bdotOp o)) ∧ (∀ o, VRuns (.iadd64 o) o (int64Op o (· + ·))) ∧
  (∀ o, VRuns (.isub64 o) o (int64Op o (· - ·))) ∧ (∀ o, VRuns (.lea o) o (leaOp o)) ∧
  (∀ o, VRuns (.and o) o (bitsOp o (· &&& ·))) ∧ (∀ o, VRuns (.or o) o (bitsOp o (· ||| ·))) ∧
  (∀ o, VRuns (.xor o) o (bitsOp o (· ^^^ ·))) ∧ (∀ o, VRuns (.not o) o (bits1Op o (~~~ ·))) ∧
  (∀ o, VRuns (.shl o) o (bitsOp o shl32)) ∧ (∀ o, VRuns (.shr o) o (bitsOp o shr32)) ∧
  (∀ o, VRuns (.sar o) o (bitsOp o sar32)) ∧ (∀ o, VRuns (.popc o) o (bits1Op o popcount)) ∧
  (∀ o, VRuns (.clz o) o (bits1Op o clz32)) ∧ (∀ o, VRuns (.brev o) o (bits1Op o brev32)) ∧
  (∀ o, VRuns (.bfx o) o (bfxOp o)) ∧ (∀ o, VRuns (.bfi o) o (bfiOp o)) ∧
  (∀ o : Imm, VRuns (.movi o) o.o (moviOp o)) ∧
  (∀ o : Imm, VRuns (.iaddi false o) o.o (immOp (intOp o.o true (· + ·)) o.imm)) ∧
  (∀ o : Imm, VRuns (.imuli false o) o.o (immOp (intOp o.o true (· * ·)) o.imm)) ∧
  (∀ o : Imm, VRuns (.andi false o) o.o (immOp (bitsOp o.o (· &&& ·)) o.imm)) ∧
  (∀ o : Imm, VRuns (.ori false o) o.o (immOp (bitsOp o.o (· ||| ·)) o.imm))

/-- The U-set forms write one result for the group. -/
def Obligations.UniformInstructionsComplete : Prop :=
  (∀ o, URuns (.movU o) o (movOp o)) ∧ (∀ o, URuns (.selU o) o (selOp o)) ∧
  (∀ o, URuns (.iaddU o) o (intOp o true (· + ·))) ∧ (∀ o, URuns (.isubU o) o (intOp o true (· - ·))) ∧
  (∀ o, URuns (.imulU o) o (intOp o true (· * ·))) ∧ (∀ o, URuns (.imulhU o) o (wordOp o mulHigh)) ∧
  (∀ o, URuns (.imulhuU o) o (wordOp o mulHighU)) ∧ (∀ o, URuns (.iminU o) o (wordOp o minS)) ∧
  (∀ o, URuns (.imaxU o) o (wordOp o maxS)) ∧ (∀ o, URuns (.iminuU o) o (wordOp o minU)) ∧
  (∀ o, URuns (.imaxuU o) o (wordOp o maxU)) ∧ (∀ o, URuns (.iabsU o) o (int1Op o fun a => a.natAbs)) ∧
  (∀ o, URuns (.imacU o) o (imacOp o)) ∧ (∀ o, URuns (.iadd64U o) o (int64Op o (· + ·))) ∧
  (∀ o, URuns (.isub64U o) o (int64Op o (· - ·))) ∧ (∀ o, URuns (.leaU o) o (leaOp o)) ∧
  (∀ o, URuns (.andU o) o (bitsOp o (· &&& ·))) ∧ (∀ o, URuns (.orU o) o (bitsOp o (· ||| ·))) ∧
  (∀ o, URuns (.xorU o) o (bitsOp o (· ^^^ ·))) ∧ (∀ o, URuns (.notU o) o (bits1Op o (~~~ ·))) ∧
  (∀ o, URuns (.shlU o) o (bitsOp o shl32)) ∧ (∀ o, URuns (.shrU o) o (bitsOp o shr32)) ∧
  (∀ o, URuns (.sarU o) o (bitsOp o sar32)) ∧ (∀ o, URuns (.popcU o) o (bits1Op o popcount)) ∧
  (∀ o, URuns (.clzU o) o (bits1Op o clz32)) ∧ (∀ o, URuns (.bfxU o) o (bfxOp o)) ∧
  (∀ o, URuns (.bfiU o) o (bfiOp o)) ∧ (∀ o : Imm, URuns (.moviU o) o.o (moviOp o)) ∧
  (∀ o : Imm, URuns (.iaddi true o) o.o (immOp (intOp o.o true (· + ·)) o.imm)) ∧
  (∀ o : Imm, URuns (.imuli true o) o.o (immOp (intOp o.o true (· * ·)) o.imm)) ∧
  (∀ o : Imm, URuns (.andi true o) o.o (immOp (bitsOp o.o (· &&& ·)) o.imm)) ∧
  (∀ o : Imm, URuns (.ori true o) o.o (immOp (bitsOp o.o (· ||| ·)) o.imm))

/-- Floating-point instructions and the functions of the special pipe write their results, lane by lane. -/
def Obligations.FloatInstructionsComplete : Prop :=
  (∀ o, VRuns (.fadd o) o (fltOp o false fun m a b _ => Val.add m a b)) ∧
  (∀ o, VRuns (.fsub o) o (fltOp o false fun m a b _ => Val.add m a b.neg)) ∧
  (∀ o, VRuns (.fmul o) o (fltOp o false fun _ a b _ => Val.mul a b)) ∧
  (∀ o, VRuns (.fma o) o (fltOp o true fun m a b c => Val.add m (Val.mul a b) c)) ∧
  (∀ o : Imm, VRuns (.fmuli o) o.o (fltImmOp o fun _ a b _ => Val.mul a b)) ∧
  (∀ o : Imm, VRuns (.faddi o) o.o (fltImmOp o fun m a b _ => Val.add m a b)) ∧
  (∀ o, VRuns (.fmin o) o (minmaxOp o false)) ∧ (∀ o, VRuns (.fmax o) o (minmaxOp o true)) ∧
  (∀ o, VRuns (.fabs o) o (signOp o fun a s => a &&& ~~~s)) ∧ (∀ o, VRuns (.fneg o) o (signOp o fun a s => a ^^^ s)) ∧
  (∀ o, VRuns (.fint o) o (fintOp o)) ∧ (∀ o, VRuns (.fclass o) o (fclassOp o)) ∧
  (∀ o, VRuns (.rcp o) o (sfuOp o .rcp)) ∧ (∀ o, VRuns (.rsq o) o (sfuOp o .rsq)) ∧
  (∀ o, VRuns (.exp2 o) o (sfuOp o .exp2)) ∧ (∀ o, VRuns (.log2 o) o (sfuOp o .log2)) ∧
  (∀ o, VRuns (.sin o) o (sfuOp o .sin)) ∧ (∀ o, VRuns (.cos o) o (sfuOp o .cos)) ∧
  (∀ o, VRuns (.tanh o) o (sfuOp o .tanh)) ∧ (∀ o, VRuns (.sqrt o) o (sfuOp o .sqrt)) ∧
  (∀ o, VRuns (.logistic o) o (sfuOp o .logistic)) ∧
  (∀ o, VRuns (.padd o) o (packedOp o false fun m a b _ => Val.add m a b)) ∧
  (∀ o, VRuns (.pmul o) o (packedOp o false fun _ a b _ => Val.mul a b)) ∧
  (∀ o, VRuns (.pfma o) o (packedOp o true fun m a b c => Val.add m (Val.mul a b) c))

/-- Compares write one predicate bit; NOP writes nothing. -/
def Obligations.ComparesAndNopComplete : Prop :=
  (∀ o, Runs (.nop o) (nopPlan o) (fun _ => True) fun x => x.s) ∧
  (∀ o, Runs (.nopU o) (nopUPlan o) (fun _ => True) fun x => x.s) ∧
  (∀ o, Runs (.icmp o) (icmpPlan o) (fun x => x.TagsOk (icmpClasses o)) fun x => wroteP o x (icmpResults o x)) ∧
  (∀ o, Runs (.icmpU o) (icmpUPlan o) (fun _ => True) fun x => wroteQ o x (icmpUBit o x)) ∧
  (∀ o, Runs (.icmpi o) (icmpiPlan o) (fun _ => True) fun x => wroteQ o.o x (icmpiBit o x)) ∧
  (∀ o, Runs (.fcmp o) (fcmpPlan o) (fun x => x.TagsOk (fcmpClasses o)) fun x => wroteP o x (fcmpResults o x))

/-- Format conversions write what their source's tag, read at the issue, asks for. -/
def Obligations.ConversionsComplete : Prop :=
  (∀ o, Runs (.cvt o) (cvtPlan o) (fun x => widthCheck x o.a (cvtSrc x o) = .ok () ∧ x.TagsOk (cvtClasses x o))
    fun x => x.wroteV o.w o.d.toNat (cvtDst o) (mkTag o.fmt.toNat 0) (cvtResults x o)) ∧
  (∀ o, Runs (.qnt o) (qntPlan o) (fun x => qntTags x o = .ok () ∧ x.TagsOk [(clsScale (o.var.getLsbD 0), o.b, 1)])
    fun x => x.wroteV o.w o.d.toNat 1 (mkTag o.fmt.toNat (maxPack o.fmt.toNat)) (qntResults x o)) ∧
  (∀ o ta, Runs (.dqn o) (dqnPlan o) (fun x => x.tagOf o.a = some ta ∧ x.TagsOk (dqnClasses o))
    fun x => (x.claims (dqnDst o ta)).wroteV o.w o.d.toNat (elemCount ta) (mkTag 0x02 0) (dqnResults x o ta)) ∧
  (∀ o ta, Runs (.amax o) (amaxPlan o)
    (fun x => x.tagOf o.a = some ta ∧ widthCheck x o.a (amaxSrc ta) = .ok () ∧
      x.TagsOk [(fun t => amaxFormat (tagCode t), o.a, amaxSrc ta)])
    fun x => x.wroteV o.w o.d.toNat 1 (mkTag 0x02 0) (amaxResults x o ta)) ∧
  (∀ o ta tab, Runs (.cblk o) (cblkPlan o) (fun x => x.tagOf o.a = some ta ∧ codebookOf x ta = .ok tab)
    fun x => x.wroteV o.w o.d.toNat 1 (mkTag 0x04 1) (cblkResults x o ta tab))

/-- Ring-set instructions write their results on the ring that their working tag names. -/
def Obligations.RingInstructionsComplete : Prop :=
  (∀ o, YRuns (.yadd o) o (yaddOp o)) ∧ (∀ o, YRuns (.ysub o) o (ysubOp o)) ∧
  (∀ o, YRuns (.ymul o) o (ymulOp o)) ∧ (∀ o, YRuns (.ydiv o) o (ydivOp o)) ∧
  (∀ o, YRuns (.yfma o) o (yfmaOp o)) ∧ (∀ o, YRuns (.yneg o) o (ynegOp o)) ∧
  (∀ o, YRuns (.yrec o) o (yrecOp o)) ∧ (∀ o, YRuns (.ysqr o) o (ysqrOp o)) ∧
  (∀ o, YRuns (.ymap o) o (ymapOp o)) ∧ (∀ o, YRuns (.yuni o) o (yuniOp o)) ∧
  (∀ o, YRuns (.yint o) o (yintOp o)) ∧ (∀ o, YRuns (.yhull o) o (yhullOp o)) ∧
  (∀ o, YRuns (.yunpk o) o (yunpkOp o)) ∧ (∀ o, YRuns (.ymid o) o (ymidOp o)) ∧
  (∀ o, YRuns (.ytest o) o (ytestOp o)) ∧ (∀ o, YRuns (.ycmp o) o (ycmpOp o)) ∧
  (∀ o r, Runs (.ycvt o) (ycvtPlan o) (fun x => x.TagsOk [(ycvtClass, o.a, 1)] ∧ ringOf x (ycvtTag o) = .ok r)
    fun x => x.wroteV o.w o.d.toNat 1 (ycvtTag o) (ycvtResults x o r)) ∧
  (∀ o w r, Runs (.ypack o) (ypackPlan o) (fun x => yWork x o yMask [o.a] = .ok (w, r) ∧ tagCode w ≠ 0x2A)
    fun x => ypackEffect x o w r) ∧
  (∀ o, SRuns (.yring o) (yringPlan o) (fun x => yringCheck x o = .ok () ∧ x.gate = .ok ()) (fun x => yringEffect x o) fun x => wroteWords o x 1 [])

/-- Lane-crossing instructions and PART complete. -/
def Obligations.LaneCrossingInstructionsComplete : Prop :=
  (∀ o, Runs (.lxch o) (lxchPlan o) (fun x => x.TagsOk ((lxchSrcs o).map fun p => (clsAny, p.1, 1))) fun x => lxchEffect x o) ∧
  (∀ o, LRuns (.poll o) o (pollOp o)) ∧ (∀ o, LRuns (.lreduce o) o (lreduceOp o)) ∧ (∀ o, LRuns (.peers o) o (peersOp o)) ∧
  (∀ o, Runs (.part o) (partPlan o) (fun _ => True) fun x =>
    x.s.updGroup x.g fun g => if x.selected then { g with g := g.g.set 0 o.d.toNat o.b.code.toNat } else g)

/-- Control flow: branches, jumps, calls, loops, exits, YIELD and REGROUP move their threads as they say. -/
def Obligations.ControlFlowCompletes : Prop :=
  (∀ nodiv o, Runs (laneBranch nodiv o) (braPlan o) (fun x => x.grp.active.all (fun t => !braTaken o t) = true) fun x => x.s) ∧
  (∀ nodiv o, Acts (laneBranch nodiv o) (braPlan o)
    (fun x => x.grp.active ≠ [] ∧ x.grp.active.all (braTaken o) = true ∧ x.grp.JumpsTo (braTarget o x.next))
    fun x => x.jump x.s (braTarget o x.next)) ∧
  (∀ o, Acts (.bra o) (braPlan o)
    (fun x => x.grp.active.all (fun t => !braTaken o t) = false ∧ x.grp.active.all (braTaken o) = false ∧ braBarred false o x = false ∧
      (x.grp.parted o x.next).Settles)
    fun x => braPart o x) ∧
  (∀ o, Acts (.meet o) (meetPlan o) (fun x => (x.grp.meetAt (jmpTarget o x.next)).FlowsTo x.next)
    fun x => x.onGroup fun g => g.meetAt (jmpTarget o x.next)) ∧
  (∀ o, Acts (.bru o) (bruPlan o) (fun x => (x.grp.q.getLsbD o.idx.toNat != o.neg) = true ∧ x.grp.JumpsTo (braTarget o x.next))
    fun x => x.jump x.s (braTarget o x.next)) ∧
  (∀ o, Runs (.bru o) (bruPlan o) (fun x => (x.grp.q.getLsbD o.idx.toNat != o.neg) = false) fun x => x.s) ∧
  (∀ o, Acts (.jmp o) (jmpPlan o) (fun x => x.grp.JumpsTo (jmpTarget o x.next)) fun x => x.jump x.s (jmpTarget o x.next)) ∧
  (∀ o, Acts (.jmpi o) (jmpiPlan o)
    (fun x => (x.read64 groupThread o.a).toNat % 4 = 0 ∧ x.grp.JumpsTo (x.read64 groupThread o.a).toNat)
    fun x => x.jump x.s (x.read64 groupThread o.a).toNat) ∧
  (∀ o, Acts (.call o) (callPlan o) (fun x => x.grp.converged = true ∧ x.grp.JumpsTo (jmpTarget o x.next)) fun x =>
    x.jump (x.s.updGroup x.g fun g => { g with ret := x.next :: g.ret }) (jmpTarget o x.next)) ∧
  (∀ o, Acts (.ret o) (retPlan o) (fun x => x.grp.converged = true ∧ x.grp.JumpsTo (x.grp.ret.headD 0)) fun x =>
    x.jump (x.s.updGroup x.g fun g => { g with ret := g.ret.tail }) (x.grp.ret.headD 0)) ∧
  (∀ o, Acts (.exit o) (exitPlan o)
    (fun x => if x.grp.active.all x.selects then (x.grp.exit x.selects).Settles else (x.grp.exit x.selects).FlowsTo x.next)
    fun x => exitEffect x.selects x) ∧
  (∀ o, Acts (.exitU o) (exitUPlan o)
    (fun x => if x.selected then (x.grp.exit fun _ => true).Settles else x.FlowsOn) fun x => exitEffect (fun _ => x.selected) x) ∧
  (∀ o, Acts (.yield o) (yieldPlan o) (fun x => x.FlowsOn) fun x => x.yields) ∧
  (∀ o, Acts (.regroup o) (regroupPlan o)
    (fun x => x.TagsOk [(clsInt, o.a, 1)] ∧ (x.grp.offer (fun t => x.read t o.a 0) x.next o.h.sp).Settles) fun x =>
    ((x.s.updGroup x.g fun g => g.offer (fun t => x.read t o.a 0) x.next o.h.sp).settled x.g none).meet x.g.team)

/-- Loops: a level opens with its counter, a zero count passes over the body, BRK ends the level that it names. -/
def Obligations.LoopsComplete : Prop :=
  (∀ o, Runs (.loop o) (loopPlan o)
    (fun x => loopIllegal x o = false ∧ x.grp.converged = true ∧ loopCount o x ≠ 0) fun x => loopOpen o (loopCount o x) x) ∧
  (∀ o, Acts (.loop o) (loopPlan o)
    (fun x => loopIllegal x o = false ∧ x.grp.converged = true ∧ loopCount o x = 0 ∧ x.grp.FlowsTo (lopStop o x.next))
    fun x => (x.goTo (lopStop o x.next)).seq x.s) ∧
  (∀ o, Runs (.loopi o) (loopiPlan o)
    (fun x => loopIllegal x o = false ∧ x.grp.converged = true ∧ o.imm.toNat ≠ 0) fun x => loopOpen o o.imm.toNat x) ∧
  (∀ o, Acts (.loopi o) (loopiPlan o)
    (fun x => loopIllegal x o = false ∧ x.grp.converged = true ∧ o.imm.toNat = 0 ∧ x.grp.FlowsTo (lopStop o x.next))
    fun x => (x.goTo (lopStop o x.next)).seq x.s) ∧
  (∀ o, Acts (.brk o) (brkPlan o) (fun x => { x.grp with levels := (brkLevels o x).tail }.FlowsTo (brkStop o x)) fun x =>
    (x.goTo (brkStop o x)).seq (x.s.updGroup x.g fun g => { g with levels := (brkLevels o x).tail }))

/-- Global loads, stores and atomics are sent: their entry stands in the log with their lanes, their destination waits on it. -/
def Obligations.GlobalAccessesAreSent : Prop :=
  (∀ o, GRuns (.ld o) (ldPlan false o) (fun x => x.TagsOk (memClasses (ldPlan false o).srcs)) (ldAccess o)) ∧
  (∀ o, GRuns (.ldU o) (ldPlan true o) (fun _ => True) (ldAccess o)) ∧
  (∀ o, GRuns (.st o) (stPlan false o) (fun x => x.TagsOk (memClasses (stPlan false o).srcs)) (stAccess o)) ∧
  (∀ o, GRuns (.stU o) (stPlan true o) (fun _ => True) (stAccess o)) ∧
  (∀ o, GRuns (.atom o) (atomPlan false o) (fun x => x.TagsOk (atmClasses 2 o) ∧ x.team.k.paired = false) (atmAccess .atomic o)) ∧
  (∀ o, GRuns (.atomU o) (atomPlan true o) (fun x => x.TagsOk (atmClasses 2 o) ∧ x.team.k.paired = false) (atmAccess .atomic o)) ∧
  (∀ o, GRuns (.red o) (redPlan o) (fun x => x.TagsOk (atmClasses 2 o) ∧ x.team.k.paired = false) (atmAccess .red o))

/-- Scratchpad and vault accesses complete their issue on places that are there, present and not locked; those of the issuing die are
made there and then, and a store to a scratchpad of another die sets out. -/
def Obligations.LocalAccessesComplete : Prop :=
  (∀ o ps, Runs (.lds o) (localPlan o 1)
    (fun x => x.TagsOk (memClasses (localPlan o 1).srcs) ∧ padsOf x o.a o.b o.imm (widthOf o.width) = .ok ps ∧ x.gate = .ok () ∧
      padsClear x (widthOf o.width) ps = .ok () ∧ padsPresent x (widthOf o.width) ps = true)
    fun x => localLoaded o (ldsValues o x ps) x) ∧
  (∀ o ps, Runs (.sts o) (stsPlan o)
    (fun x => x.TagsOk (memClasses (stsPlan o).srcs) ∧ padsOf x o.a o.b o.imm (widthOf o.width) = .ok ps ∧ (∀ q ∈ ps, padLocked x.s (widthOf o.width) q.2 = false) ∧
      localRelease x (o.order = .rel) (x.scope o.scope) = .ok () ∧ padsClear x (widthOf o.width) ps = .ok ())
    fun x => epochTaken x (o.order = .rel) (x.scope o.scope) (!ps.isEmpty) (stsEffect o x ps)) ∧
  (∀ o ps, Runs (.ldv o) (localPlan o 2)
    (fun x => x.TagsOk (memClasses (localPlan o 2).srcs) ∧ vaultsOf x o.a o.b o.imm (widthOf o.width) = .ok ps ∧ (∀ q ∈ ps, vaultLocked x (widthOf o.width) false q.2 = false) ∧
      x.gate = .ok () ∧ ∀ q ∈ ps, x.vaultFlawed q.2.1 q.2.2 (widthOf o.width) = false)
    fun x => localLoaded o (ldvValues o x ps) x) ∧
  (∀ o ps, Runs (.stv o) (stvPlan o)
    (fun x => x.TagsOk (memClasses (stvPlan o).srcs) ∧ vaultsOf x o.a o.b o.imm (widthOf o.width) = .ok ps ∧ (∀ q ∈ ps, vaultLocked x (widthOf o.width) true q.2 = false) ∧
      stvForbidden x ps = false ∧ localRelease x (o.order = .rel) (x.scope o.scope) = .ok ())
    fun x => epochTaken x (o.order = .rel) (x.scope o.scope) (!ps.isEmpty) (stvEffect o x ps)) ∧
  (∀ o ps, Runs (.atoms o) (atomsPlan o)
    (fun x => x.TagsOk (atmClasses 1 o) ∧ padsOf x o.a .zero false (atmBytes o) = .ok ps ∧
      (∀ q ∈ ps, padLocked x.s (atmBytes o) q.2 = false) ∧ localRelease x (o.order = .rel) 0 = .ok () ∧ padsClear x (atmBytes o) ps = .ok ())
    fun x => atomsEffect o x ps) ∧
  (∀ o ps, Runs (.pres o) (presPlan o) (fun x => x.TagsOk (memClasses (presPlan o).srcs) ∧ presPlaces o x = .ok ps ∧ x.gate = .ok ())
    fun x => x.s.updGroup x.g fun g => g.writeV false o.d.toNat 1 (mkTag o.tag.toNat 0) (presValues x ps))

/-- Cache control, FENCE and CTIME complete. -/
def Obligations.CacheControlCompletes : Prop :=
  (∀ o, Runs (.pref o) (cachePlan o true [0, 2]) (fun x => x.gate = .ok ()) fun x => prefEffect o x) ∧
  (∀ o ia, SRuns (.cinv o) (cachePlan o true [0]) (fun x => cacheCheck x o = .ok ia ∧ x.gate = .ok ())
    (fun x => cinvEffect x ia) fun x => x.s) ∧
  (∀ o ia, SRuns (.cwb o) (cachePlan o true [0]) (fun x => cacheCheck x o = .ok ia ∧ x.gate = .ok ())
    (fun x => cwbEffect x ia) fun x => x.s) ∧
  (∀ o ia, SRuns (.lockl o) (cachePlan o false [0]) (fun x => cacheCheck x o = .ok ia ∧ x.gate = .ok () ∧ lockWaits x ia = false)
    (fun x => answered o x (lockLine x ia)) fun x => unanswered o x) ∧
  (∀ o ia, SRuns (.unlockl o) (cachePlan o false [0]) (fun x => cacheCheck x o = .ok ia ∧ x.gate = .ok ())
    (fun x => answered o x (unlockLine x ia)) fun x => unanswered o x) ∧
  (∀ o, SRuns (.fence o) (fencePlan o) (fun x => fenceWaits o x = .ok ()) (fun x => x.s) fun x => x.s) ∧
  (∀ o, Runs (.ctime o) (ctimePlan o) (fun _ => True) fun x => wroteWords o x 2 (pairOf (BitVec.ofNat 64 x.grp.horizon)))

/-- Barriers: an arrival counts every unexited thread of a converged group, and completes the barrier with the last one. -/
def Obligations.BarriersComplete : Prop :=
  (∀ sync o, Acts (barArrival sync o) (barPlan o (!sync))
    (fun x => x.selected = true ∧ x.grp.converged = true ∧ x.releaseGate 0 = .ok () ∧
      ∀ t ∈ x.arrivals, t ∉ (x.team.bar o.b.code.toNat).arrived)
    fun x => barArrived o.b.code.toNat sync x) ∧
  (∀ sync o, Runs (barArrival sync o) (barPlan o (!sync)) (fun x => x.selected = false) fun x => x.s) ∧
  (∀ o, Acts (.barWait o) (barPlan o true) (fun x => x.selected = true ∧ x.settledEntries = .ok () ∧ x.FlowsOn) fun x => barAwait x o.b.code.toNat) ∧
  (∀ o, Runs (.barWait o) (barPlan o true) (fun x => x.selected = false) fun x => x.s) ∧
  (∀ o, Acts (.gbar o) (gbarPlan o)
    (fun x => x.selected = true ∧ x.gangBars.broken = none ∧ o.mode ≠ 2 ∧ x.grp.converged = true ∧ gbarWaits o x = .ok () ∧
      ∀ t ∈ x.gangArrivals, t ∉ (x.gangBars.bars.get {} o.b.code.toNat).arrived)
    fun x => gbarArrived o.b.code.toNat (o.mode = 0) x) ∧
  (∀ o, Acts (.gbar o) (gbarPlan o) (fun x => x.selected = true ∧ x.gangBars.broken = none ∧ o.mode = 2 ∧ x.settledEntries = .ok () ∧ x.FlowsOn)
    fun x => gbarAwait x o.b.code.toNat) ∧
  (∀ o, Runs (.gbar o) (gbarPlan o) (fun x => x.selected = false) fun x => x.s) ∧
  (∀ o, SRuns (.stgw o) (stagePlan o) (fun x => x.releaseGate 0 = .ok ()) (fun x => stgwEffect o x (stageSlot x o)) fun x => x.s) ∧
  (∀ o, SRuns (.stga o) (stagePlan o) (fun x => stageReady o x (stageSlot x o) = true) (fun x => x.s) fun x => x.s)

/-- System instructions complete; TRAP's effect is the SOFTWARE trap that it takes. -/
def Obligations.SystemInstructionsComplete : Prop :=
  (∀ o, SRuns (.wdog o) (wdogPlan o) (fun _ => True)
    (fun x => x.s.updTeam x.g.team fun t => { t with wdog := if x.ua o = 0 then 2 ^ 26 else x.ua o }) fun x => x.s) ∧
  (∀ o, Runs (.csrr o) (csrrPlan o) (fun _ => True) fun x => wroteWords o x 2 (pairOf (csrValue x o.a.code.toNat o.b.code.toNat))) ∧
  (∀ o t, SRuns (.csrw o) (csrwPlan o)
    (fun x => csrWritable o.a.code.toNat = true ∧ csrSet x.team o.a.code.toNat (x.read64 groupThread o.b) = some t)
    (fun x => x.s.updTeam x.g.team fun u => { u with leaseLen := t.leaseLen, fpmode := t.fpmode, seed := t.seed, wdog := t.wdog })
    fun x => x.s) ∧
  (∀ o, Runs (.clk o) (clkPlan o) (fun _ => True) fun x => wroteWords o x 2 (pairOf (BitVec.ofNat 64 (clkValue o x)))) ∧
  (∀ o, Runs (.fcnt o) (fcntPlan o) (fun x => x.selected = false ∨ x.countsDue = none)
    fun x => wroteWords o x 2 (pairOf (BitVec.ofNat 64 (fcntValue x (x.ua o))))) ∧
  (∀ o, SRuns (.burn o) (burnPlan o) (fun _ => True) (fun x => x.s.updTeam x.g.team fun t => { t with burn := x.ua o }) fun x => x.s) ∧
  (∀ o, Runs (.curr o) (currPlan o) (fun _ => True) fun x => wroteWords o x 1 [x.unit.estWord]) ∧
  (∀ o, SRuns (.shunt o) (shuntPlan o) (fun _ => True) (fun x => shuntEffect o x)
    fun x => wroteWords o x 1 []) ∧
  (∀ o, SRuns (.opcl o) (opclPlan o) (fun _ => True) (fun x => opclEffect o x) fun x => wroteWords o x 1 []) ∧
  (∀ o st, SRuns (.gwait o) (gwaitPlan o) (fun x => gwaitStatus x (x.ua o) = some st)
    (fun x => wroteWords o x 1 [BitVec.ofNat 32 st]) fun x => wroteWords o x 1 []) ∧
  (∀ o ia slot h s, SRuns (.launch o) (launchPlan o)
    (fun x => x.team.k.paired = false ∧ checkGlobal x.context.windows (x.read64 groupThread o.a).toNat 256 permR = .ok ia ∧
      launchTry x ia = .accepted slot h s ∧ x.releaseGate 3 = .ok () ∧ x.writeThrough false = .ok ())
    (fun x => launchAnswer o x s (launchWord h 0)) fun x => wroteWords o x 1 []) ∧
  (∀ o ia st s, Runs (.launch o) (launchPlan o)
    (fun x => x.selected = true ∧ x.team.k.paired = false ∧
      checkGlobal x.context.windows (x.read64 groupThread o.a).toNat 256 permR = .ok ia ∧ launchTry x ia = .refused st s)
    fun x => launchAnswer o x s (launchWord 0 st)) ∧
  (∀ o, Acts (.trap o) (trapPlan o) (fun x => x.selected = true) fun x => x.pre.take x.g (tSoftware (x.ua o))) ∧
  (∀ o, Runs (.trap o) (trapPlan o) (fun x => x.selected = false) fun x => x.s) ∧
  (∀ o t, SRuns (.tagr o) (tagrPlan o)
    (fun x => tagOld x (x.read groupThread o.a 0).toNat false = .ok t)
    (fun x => wroteWords o x 1 [t.setWidth 32]) fun x => wroteWords o x 1 []) ∧
  (∀ o t, SRuns (.tagw o) (tagwPlan o)
    (fun x => tagOld x (x.read groupThread o.a 0).toNat true = .ok t)
    (fun x => tagwEffect o x t) fun x => wroteWords o x 1 []) ∧
  (∀ o b, SRuns (.cbld o) (cbldPlan o) (fun x => cbldPlace o x = .ok b ∧ x.gate = .ok ()) (fun x => cbldEffect o x b) fun x => x.s) ∧
  (∀ u w s r iw t g, AtIssue s r iw t g →
    exec (.unassignedExtendedOpcode u w) s = .next (({ s with cur := none } : State).take r tIllegalInstruction))

/-- Matrix instructions complete: musters, tile operations, the codebook and the paired MMA. -/
def Obligations.MatrixInstructionsComplete : Prop :=
  (∀ o, SRuns (.mset o) (msetPlan o) (fun _ => True)
    (fun x => x.setMuster x.s o.a.code.toNat
      { expected := (x.read groupThread o.b 0).toNat, count := 0, signers := 0, gen := (x.team.muster o.a.code.toNat).gen + 1 })
    fun x => x.s) ∧
  (∀ o, MRuns (.msign o) (msignPlan o) (fun x => x.tilesOut = false ∧ musterShut (x.team.muster o.a.code.toNat) x.g.grp = false)
    (fun x => msignEffect o.a.code.toNat x) fun x => x.s) ∧
  (∀ o, Runs (.mstat o) (mstatPlan o) (fun _ => True)
    fun x => x.s.updGroup x.g fun g => g.writeU false x.selected (regOf o.a) 1 [mstatWord o.b.code.toNat x]) ∧
  (∀ o, MRuns (.mwait o) (mwaitPlan o) (fun x => mwaitDone o x = true) (fun x => x.s) fun x => x.s) ∧
  (∀ o ia i, MRuns (.tld o) (tmemPlan o true)
    (fun x => o.space = 0 ∧ tileReach x o permR false = .ok ia ∧ x.gate = .ok () ∧ x.tileOrder [] [o.d.toNat] = .ok () ∧ x.freeEntry = some i)
    (fun x => tldTagged x o (tileLogged x o false i ia)) fun x => x.s) ∧
  (∀ o b, MRuns (.tld o) (tmemPlan o true)
    (fun x => o.space ≠ 0 ∧ tileRange x (o.space == 2) (tmemAddr x o) = .ok b ∧ x.gate = .ok () ∧ x.tileOrder [] [o.d.toNat] = .ok () ∧
      x.s.present x.team.core b 4096 = true)
    (fun x => tldLocal x o b) fun x => x.s) ∧
  (∀ o ia i, MRuns (.tst o) (tmemPlan o false)
    (fun x => o.space = 0 ∧ tileReach x o permW true = .ok ia ∧ x.gate = .ok () ∧ x.tileOrder [o.d.toNat] [] = .ok () ∧ x.freeEntry = some i)
    (fun x => tileLogged x o true i ia) fun x => x.s) ∧
  (∀ o b, MRuns (.tst o) (tmemPlan o false)
    (fun x => o.space ≠ 0 ∧ tileRange x (o.space == 2) (tmemAddr x o) = .ok b ∧ tstLocked x b = false ∧ x.gate = .ok () ∧
      x.tileOrder [o.d.toNat] [] = .ok ())
    (fun x => tstLocal x o b) fun x => x.s) ∧
  (∀ o, MRuns (.tzero o) (tzeroPlan o) (fun x => x.tileOrder [] (tilesFrom o.d.toNat (tzeroTiles o)) = .ok ())
    (fun x => tzeroEffect o x) fun x => x.s) ∧
  (∀ o, Runs (.tcvt o) (tcvtPlan o)
    (fun x => x.acts = true ∧ accCheck x (tileOf o.a) = .ok () ∧ x.tileOrder (tcvtWork o x).reads (tcvtWork o x).writes = .ok () ∧
      x.arrayRoom = .ok ())
    fun x => tcvtEffect o x) ∧
  (∀ o, Runs (.tcvt o) (tcvtPlan o) (fun x => x.acts = false ∧ accCheck x (tileOf o.a) = .ok ()) fun x => x.s) ∧
  (∀ o, Runs (.tamax o) (tamaxPlan o)
    (fun x => x.acts = true ∧ accCheck x o.d.toNat = .ok () ∧ x.tileOrder (tamaxWork o x).reads (tamaxWork o x).writes = .ok ())
    fun x => tamaxEffect o x) ∧
  (∀ o, Runs (.tamax o) (tamaxPlan o) (fun x => x.acts = false ∧ accCheck x o.d.toNat = .ok ())
    fun x => x.s.updGroup x.g fun g => g.writeV false (regOf o.a) 1 (mkTag 0x02 0) []) ∧
  (∀ o, Runs (.mma o) (mmaPlan o)
    (fun x => x.grp.agreed ≠ some x.grp.pc ∧ mmaReady x o = true ∧ mmaFormats x o = .ok () ∧ x.acts = true ∧ mmaStalls x o = false ∧ o.pair = false)
    fun x => x.queue (if mmaTakes x o then mmaReopen x o x.s else x.s) (mmaWork x o)) ∧
  (∀ o, Runs (.mma o) (mmaPlan o) (fun x => x.grp.agreed = some x.grp.pc) fun x => x.s)

/-- Engine instructions complete: the operation registered or the token answered, and the reply in its register. -/
def Obligations.EngineInstructionsComplete : Prop :=
  (∀ o, SRuns (.engShape o) (engShapePlan o) (fun x => x.EngReady)
    (fun x => x.s.updTeam x.g.team fun t => { t with shapes := t.shapes.put o.imm.toNat (shapeWords x o) }) fun x => engSkipped x o) ∧
  (∀ f o h e op id s w, SRuns (copyInstr f o) (copyPlan f o)
    (fun x => x.EngReady ∧ shapeAt x (o.imm.toNat % 16) = some h ∧ pickEngine x o = some e ∧
      copyOp x f o h e = .ok op ∧ x.enter x.s o op = some (id, s, w))
    (fun x => engReplied x o s w) fun x => engSkipped x o) ∧
  (∀ o st, SRuns (.engWait o) (tokenPlan o) (fun x => x.EngReady ∧ tokenNamed x o = .error st)
    (fun x => engReplied x o x.s st) fun x => engSkipped x o) ∧
  (∀ o e k st at_, SRuns (.engWait o) (tokenPlan o) (fun x => x.EngReady ∧ tokenNamed x o = .ok (e, k) ∧ k.ended = some (st, at_))
    (fun x => tokenDone x o k st) fun x => engSkipped x o) ∧
  (∀ o, SRuns (.engQuery o) (tokenPlan o) (fun x => x.EngReady) (fun x => queryEffect x o) fun x => engSkipped x o) ∧
  (∀ o, SRuns (.engCancel o) (tokenPlan o) (fun x => x.EngReady) (fun x => cancelEffect x o) fun x => engSkipped x o) ∧
  (∀ o, SRuns (.engCntrd o) (engCntrdPlan o) (fun x => x.EngReady)
    (fun x => engReplied x o x.s (BitVec.ofNat 32 (x.context.counters.get 0 (engCounter o x)))) fun x => engSkipped x o) ∧
  (∀ o, SRuns (.engCntadd o) (engCntaddPlan o) (fun x => x.EngReady)
    (fun x => engReplied x o (x.s.setCounter x.team.ctx (engCounter o x) (engSum o x)) (BitVec.ofNat 32 (engSum o x))) fun x => engSkipped x o) ∧
  (∀ o id s w, SRuns (.engArm o) (engArmPlan o)
    (fun x => x.EngReady ∧ x.enter x.s o (x.engOp true 0x3F .copy) = some (id, s, w))
    (fun x => engReplied x o (armed o x id s) w) fun x => engSkipped x o) ∧
  (∀ o h d e id s w, SRuns (.engRecv o) (engRecvPlan o)
    (fun x => x.EngReady ∧ shapeAt x (o.imm.toNat % 16) = some h ∧
      allHolds x .global [x.engAddr .global o.a] (h.len * h.rows) permW true = .ok d ∧ pickEngine x o = some e ∧
      x.enter x.s o (recvOp o x h e d) = some (id, s, w))
    (fun x => engReplied x o (recvPosted o x id s) w) fun x => engSkipped x o) ∧
  (∀ o h d e id s w, SRuns (.engSend o) (engSendPlan o)
    (fun x => x.EngReady ∧ shapeAt x (o.imm.toNat % 16) = some h ∧
      allHolds x .global [x.engAddr .global o.a] h.len permR false = .ok d ∧ (x.s.cleanRange x.die d).1.rangeHeld x.die d = false ∧ pickEngine x o = some e ∧
      x.enter (x.s.cleanRange x.die d).1 o (sendOp o x h e sendWork d (x.s.cleanRange x.die d).2) = some (id, s, w))
    (fun x => engReplied x o (sendPlaced o x id s) w) fun x => engSkipped x o) ∧
  (∀ o h d e id s w, SRuns (.engReduce o) (engReducePlan o)
    (fun x => x.EngReady ∧ shapeAt x (o.imm.toNat % 16) = some h ∧
      allHolds x .global [x.engAddr .global o.a] h.len permR false = .ok d ∧ (x.s.cleanRange x.die d).1.rangeHeld x.die d = false ∧ pickEngine x o = some e ∧
      x.enter (x.s.cleanRange x.die d).1 o (sendOp o x h e (reduceWork o) d (x.s.cleanRange x.die d).2) = some (id, s, w))
    (fun x => engReplied x o (sendPlaced o x id s) w) fun x => engSkipped x o)

/-! ## The steps of the package complete -/

/-- A lane reaches its home, is released or acquired there, or takes its data, or its store is accepted; a slot of a HOST or PEER page
that stays unreachable ends what waits for it (R77, R89, R95, R121, R139, R182, R183). -/
def Obligations.AccessStepsComplete : Prop :=
  (∀ s l e x, s.laneGo l = some (e, x) → x.stage = .sent → s.pageHeld x.ia = false → e.homeRelease = false → e.homeAcquire = false →
    s.heldStore e = false → s.needsHome l e x = true → exec (.pageWalk l) s = .next (s.pageWalk l e x)) ∧
  (∀ s l e x, s.laneGo l = some (e, x) → x.stage = .sent → s.foreign x.ia e.isWrite = true → s.time ≥ x.sent + 100000000 →
    s.heldStore e = false → s.needsHome l e x = true → exec (.homeSlotUnreachable (.lane l)) s = .next (s.stage l (.bad 3))) ∧
  (∀ s r t g va ia, s.group? r = some (t, g) → State.mayIssue t g = true → s.time ≥ g.readySince + 100000000 → s.fetchPage t g = some (va, ia) →
    exec (.homeSlotUnreachable (.fetch r)) s = .next (s.fetchTrap r 3 va)) ∧
  (∀ s op o ia w, s.ops.find? op = some o → s.mayRun op o = true → s.time ≥ max o.reached o.after + 100000000 → (ia, w) ∈ s.opPlaces o →
    s.opNeedsHome o ia w = true → s.foreign ia w = true → exec (.homeSlotUnreachable (.engine op)) s = .next (s.endOp op (stPage 3))) ∧
  (∀ s id r i ws since p, s.held.find? id = some (.rma r i ws none since) → p ∈ rmaPlaces ws i → s.foreign p.1 i.writes = true → s.pageDead p.1 = true →
    s.time ≥ since + 100000000 → exec (.homeSlotUnreachable (.held id)) s = .next (s.heldFail id 3)) ∧
  (∀ s l e x, s.laneGo l = some (e, x) → x.stage = .sent → s.pageHeld x.ia = false → e.homeRelease = true → s.heldStore e = false →
    exec (.releaseAtHome l) s = .next (s.releaseAtHome l e x)) ∧
  (∀ s l e x, s.laneGo l = some (e, x) → x.stage = .sent → s.pageHeld x.ia = false → e.homeAcquire = true →
    exec (.acquireAtHome l) s = .next (s.acquireAtHome l e x)) ∧
  (∀ s l e x v bad t, s.laneGo l = some (e, x) → e.kind = .load → x.stage = .home v bad t →
    exec (.loadDataReturn l) s = .next ((s.fillGranted l.core e x).loadReturns l e x v bad)) ∧
  (∀ s l e x v bad u, s.laneGo l = some (e, x) → e.kind = .load → x.stage = .sent → e.atHome x.ia = false →
    s.cachedLoad l.core e x = some (v, bad, u) → exec (.loadDataReturn l) s = .next (u.loadReturns l e x v bad)) ∧
  (∀ s l e x v bad t, s.laneGo l = some (e, x) → e.kind = .load → x.stage = .settling t v bad → s.acquired x t = true →
    exec (.loadDataReturn l) s = .next (s.loadReturns l e x v bad)) ∧
  (∀ s l e x v bad t, s.laneGo l = some (e, x) → e.kind = .atomic → x.stage = .home v bad t →
    exec (.loadDataReturn l) s = .next (s.return_ l v bad (some t))) ∧
  (∀ s l e x v bad t, s.laneGo l = some (e, x) → e.kind = .atomic → x.stage = .settling t v bad → s.acquired x t = true →
    exec (.loadDataReturn l) s = .next (s.return_ l v bad none)) ∧
  (∀ s l e x, s.laneGo l = some (e, x) → e.kind = .atomic → x.stage = .sent → e.atHome x.ia = false → s.hits l.core e x = true →
    exec (.loadDataReturn l) s = .next (s.atomicReturns l e x)) ∧
  (∀ s l e x v bad t, s.laneGo l = some (e, x) → e.kind = .tld → x.stage = .home v bad t →
    exec (.loadDataReturn l) s = .next (s.tileReturns l bad)) ∧
  (∀ s l e x, s.laneGo l = some (e, x) → e.kind = .tld → x.stage = .sent → e.atHome x.ia = false → s.hits l.core e x = true →
    exec (.loadDataReturn l) s = .next ((s.tileRead l.core e x).1.tileReturns l (s.tileRead l.core e x).2)) ∧
  (∀ s l e x, s.laneGo l = some (e, x) → e.kind = .store → x.stage = .sent → s.heldStore e = false → e.atHome x.ia = false →
    s.hits l.core e x = true → exec (.storeComplete l) s = .next (s.storeLands l e x)) ∧
  (∀ s l e x v bad t, s.laneGo l = some (e, x) → e.kind = .store ∨ e.kind = .tst → x.stage = .home v bad t → s.heldStore e = false →
    exec (.storeComplete l) s = .next (s.finishLane l none (some t))) ∧
  (∀ s l e x, s.laneGo l = some (e, x) → e.kind = .red → x.stage = .sent → e.atHome x.ia = false → s.hits l.core e x = true →
    exec (.storeComplete l) s = .next (s.redLands l e x)) ∧
  (∀ s l e x v t, s.laneGo l = some (e, x) → e.kind = .red → x.stage = .home v false t →
    exec (.storeComplete l) s = .next (s.finishLane l none (some t))) ∧
  (∀ s l e x v t, s.laneGo l = some (e, x) → e.kind = .red → x.stage = .settling t v false → s.acquired x t = true →
    exec (.storeComplete l) s = .next (s.finishLane l none none)) ∧
  (∀ s l e x, s.laneGo l = some (e, x) → e.kind = .tst → x.stage = .sent → s.heldStore e = false → e.atHome x.ia = false → s.hits l.core e x = true →
    exec (.storeComplete l) s = .next (s.tileLands l e x)) ∧
  (∀ s l e x, s.laneGo l = some (e, x) → s.heldStore e = true → x.stage = .sent → exec (.storeComplete l) s = .next (s.holdLane l e x))

/-- A fault is reported, posted, served and answered, or times out (R99, R100, R102 to R108, R480). -/
def Obligations.FaultStepsComplete : Prop :=
  (∀ s l e x c, s.laneAt l = some (e, x) → x.waiting = true → x.stage = .bad c →
    exec (.faultResponse l) s = .next (s.accessFault l.core l.entry c)) ∧
  (∀ s l e x lv wp peer t, s.laneAt l = some (e, x) → x.waiting = true → x.stage = .resp lv wp peer → (x.replay = 0 ∨ e.replays < 15) →
    s.reportLane l e x lv wp peer = some t → exec (.faultResponse l) s = .next t) ∧
  (∀ s l e x lv wp peer, s.laneAt l = some (e, x) → x.waiting = true → x.stage = .resp lv wp peer → x.replay ≠ 0 → e.replays ≥ 15 →
    exec (.faultResponse l) s = .next (s.accessFault l.core l.entry 5)) ∧
  (∀ s r t g va ia lv u, s.group? r = some (t, g) → State.mayIssue t g = true → s.nextInstr t g = .absent va ia → s.walk ia = .absent lv →
    s.parkFetch r t g ia lv false = some u → exec (.fetchFault r) s = .next u) ∧
  (∀ s r t g va ia c, s.group? r = some (t, g) → State.mayIssue t g = true → s.nextInstr t g = .absent va ia → s.walk ia = .bad c →
    exec (.fetchFault r) s = .next (s.fetchTrap r c va)) ∧
  (∀ s o id r, s.rec? o id = some r → r.posted = none → r.refused = false → s.time ≥ r.opened + s.stageSpan o false →
    exec (.mergeWindowClose o id) s = .next (s.post o id r)) ∧
  (∀ s o id r, s.rec? o id = some r → r.posted = none → r.refused = true → s.time ≥ r.opened + s.stageSpan o true →
    exec (.faultQueueRetry o id) s = .next (s.post o id r)) ∧
  (∀ s o id r, s.unclaimed = some (o, id) → s.rec? o id = some r → s.pageBusy (r.page * 65536) = false →
    exec .firmwareFaultService s = .next (s.served o id r)) ∧
  (∀ s word, exec (.resume word) s = .next (s.resume word)) ∧
  (∀ s o id r t, s.rec? o id = some r → r.posted = some t → s.time ≥ t + 2 ^ 33 →
    exec (.faultServiceTimeout o id) s = .next (s.failRec o id r 6))

/-- Pulls, bounds on the age of what a die holds, scrub, and error interrupts (R143, R179, R181, R183, R268, R428). -/
def Obligations.UpkeepStepsComplete : Prop :=
  (∀ s die e, s.pullAsked die e = true → exec (.pull die e) s = .next (s.pulled die e)) ∧
  (∀ s line die q, (s.slice line).recs.find? die = some q → (q.now s die).asks = true → s.time ≥ q.raised + 2 ^ 28 →
    exec (.homeEpochAgePull line die) s = .next (s.agePulled line die q.epoch)) ∧
  (∀ s die line, (s.l2 die line).dirty ≠ 0 → (s.die die).failed = false →
    exec (.dirtyByteDeadline die line) s = .next (s.cleanL2 die line).1) ∧
  (∀ s p f, exec (.scrub p f) s = .next (s.scrubbed p f)) ∧
  (∀ s launch counter, s.io.irqs.contains (launch, counter) = true → exec (.counterIrq launch counter) s = .next (s.sendIrq launch counter)) ∧
  (∀ s unit, unit < 17 → s.io.errDue unit = true → exec (.errorIrq unit) s = .next
    ((s.updIo fun io => { io with errFired := unit :: io.errFired }).notify 0x9003 0
      [BitVec.ofNat 64 unit, BitVec.ofNat 64 (s.io.errors.get 0 unit)]))

/-- Operations of the matrix unit and of the engines end, and chunks land (R160, R164, R167, R168, R326, R338 to R340). -/
def Obligations.UnitStepsComplete : Prop :=
  (∀ s core uid p t, (s.core core).opOf uid = some p → s.tileDone core uid p = some t → exec (.tileOperationComplete core uid) s = .next t) ∧
  (∀ s core p t, (s.core core).firstMma = some p → s.mmaDone core p = some t → exec (.mmaComplete core) s = .next t) ∧
  (∀ s core a b, (s.core core).mate = some a → (s.core (mateOf core)).mate = some b → s.launchOf a.2.1 = s.launchOf b.2.1 →
    s.signed core a.2.2 = s.signed (mateOf core) b.2.2 → exec (.mateAgreement core) s = .next (s.startMates core a b)) ∧
  (∀ s core t g u, (s.core core).mate = some (t, g, u) → 2 ^ 16 ≤ cyclesOf (s.classOf core) (s.time - t) →
    (∀ m, (s.core (mateOf core)).mate = some m → s.launchOf m.2.1 ≠ s.launchOf g) → ∃ also, exec (.pairTimeout core) s = .next (s.raiseTrap g { tPairTimeout with also := also })) ∧
  (∀ s op o t, s.ops.find? op = some o → s.mayRun op o = true → s.nextProgress op o = some t → exec (.engineWriteProgress op) s = .next t) ∧
  (∀ s op o, s.ops.find? op = some o → o.work.copies = true → o.total ≤ o.progress → o.compl < s.time → s.through o.die o.mark = true →
    (o.total = 0 → o.after < s.time) → exec (.engineOperationEnd op false) s = .next (s.endOp op stDone)) ∧
  (∀ s op o overrun, s.ops.find? op = some o → o.work.sends = true → o.landed = 1 → exec (.engineOperationEnd op overrun) s =
    .next ((s.updOp op fun q => { q with compl := s.time }).endOp op (if overrun then stOverrun else stDone))) ∧
  (∀ s c id o x slot cnt, s.contexts.find? c.ctx = some x → x.recv.get none c.slot = some id → s.ops.find? id = some o →
    o.work = .recv slot cnt → o.mode ≠ .suspended → (o.mode = .halted → s.mayPark id o = true) → (o.after < s.time ∨ o.after = 0) →
    (o.chunk = none → c.off + c.data.length ≤ o.len →
      exec (.chunkLanding c) s = .next (s.updOp id fun q => { q with chunk := some c, progress := 0, reached := s.time })) ∧
    (o.chunk = none → c.off + c.data.length > o.len → exec (.chunkLanding c) s = .next { s with net := s.net ++ [.answer c true] }) ∧
    (∀ t, o.chunk = some c → o.progress < c.data.length → s.landMore id o c = some t → exec (.chunkLanding c) s = .next t) ∧
    (o.chunk = some c → c.data.length ≤ o.progress → o.compl < s.time → exec (.chunkLanding c) s = .next (s.chunkLanded id o c slot cnt))) ∧
  (∀ s op o, s.ops.find? op = some o → o.work.sends = true → o.landed = 1 → s.time ≥ o.compl + 2 ^ 27 →
    exec (.noRecvTimeout op) s = .next (s.endOp op stNoRecv)) ∧
  (∀ s op o, s.ops.find? op = some o → o.work.sends = true → o.landed = 1 → s.time ≥ o.compl + 100000000 →
    exec (.peerUnreachable op) s = .next (s.endOp op stUnreachable))

/-- A group's own steps, and the ends of its waits (R178, R239, R301, R302, R372, R375, R376, R407). -/
def Obligations.GroupStepsComplete : Prop :=
  (∀ s r t g v rest u, s.group? r = some (t, g) → t.mode ≠ .stopped → g.loopDue = true → g.mode = .ready → g.levels = v :: rest →
    (g.lc.get 0 v.ctr > 1 → u = (s.setGroup r (g.again v)).settled r (g.spDue.getD none)) →
    (g.lc.get 0 v.ctr ≤ 1 → (g.close v rest).loopDue = true → u = s.setGroup r (g.close v rest)) →
    (g.lc.get 0 v.ctr ≤ 1 → (g.close v rest).loopDue = false → u = (s.setGroup r (g.close v rest)).settled r (g.spDue.getD none)) →
    exec (.loopBack r) s = .next u) ∧
  (∀ s r t g, s.group? r = some (t, g) → 32 ≤ g.run → g.mode = .ready → g.formed = [] → g.switchDue = none → t.mode = .running → g.loopDue = false →
    s.nextReadsLatch t g = some false → exec (.issueLimitSwitch r) s = .next (s.setGroup r g.rotate)) ∧
  (∀ s r t g m, s.group? r = some (t, g) → g.mode = .ready → g.formed = [] → g.switchDue = some m → t.mode = .running → g.loopDue = false →
    s.nextReadsLatch t g ≠ none → exec (.issueLimitSwitch r) s = .next (s.switchPoint r none)) ∧
  (∀ s r t g, s.group? r = some (t, g) → 32 ≤ g.run → g.mode = .formed → g.formed ≠ [] → g.switchDue = none → t.mode = .running → g.loopDue = false →
    s.nextReadsLatch t g = some false → exec (.issueLimitSwitch r) s = .next (s.switchFormed r t g)) ∧
  (∀ s r t g, s.group? r = some (t, g) → g.mode = .ready → g.boosted = false → 256 ≤ cyclesOf (s.classOf t.core) (s.time - g.readySince) →
    exec (.groupBoost r) s = .next (s.updGroup r fun g => { g with boosted := true })) ∧
  (∀ s gang b gg, s.gangs.find? gang = some gg → gg.broken = none → b < 4 → (gg.bars.get {} b).count = gg.expected →
    exec (.gbarComplete gang b) s = .next (s.completeGbar gang gg b)) ∧
  (∀ s r t g h, s.group? r = some (t, g) → g.wait = .time h → h < s.time → g.mode ≠ .stopped →
    exec (.completionTimePassed (.group r)) s = .next (s.updGroup r fun g => g.wake s.time)) ∧
  (∀ s r t g die mark h, s.group? r = some (t, g) → g.wait = .through die mark h → h < s.time → s.through die mark = true → g.mode ≠ .stopped →
    exec (.completionTimePassed (.group r)) s = .next (s.updGroup r fun g => g.wake s.time)) ∧
  (∀ s n m h, s.memOps[n]? = some m → m.ends = some h → h < s.time → exec (.completionTimePassed (.memOp n)) s =
    .next ((({ s with memOps := s.memOps.eraseIdx n } : State).msEnd m).msWake []
      (({ s with memOps := s.memOps.eraseIdx n } : State).msEnd m).memOps)) ∧
  (∀ s team t slot ws, s.teams.find? team = some t → t.mode ≠ .stopped → s.expired team t = some (slot, ws) →
    exec (.barrierTimeout team) s = .next (({ s with fresh := s.fresh + 1 } : State).raiseTrap { team := team, grp := slot }
      { tBarrierTimeout with ext := 2, words := ws }))

/-- Teams are dispatched, start, stop, are saved and restored, and retire; grids retire and graphs fire (R228, R234, R242, R243,
R397, R400, R403, R408, R437). -/
def Obligations.TeamStepsComplete : Prop :=
  (∀ s die slot u, s.nextGrant s.serving = some (.attempt slot u) → die < 8 → exec (.dispatchRequest die) s = .next u) ∧
  (∀ s die slot u, s.nextGrant s.serving = some (.start slot u) → u.io.lastDie = some die → exec (.dispatchRequest die) s = .next u) ∧
  (∀ s team core slot u, s.nextGrant s.serving = some (.restore slot team u) → u.coreOf team = core → exec (.teamRestore team core) s = .next u) ∧
  (∀ s team t, s.teams.find? team = some t → t.mode = .placed → s.poolsChanging (s.startSet team t) = false →
    exec (.teamStart team) s = .next (s.startAll (s.startSet team t))) ∧
  (∀ s team t, s.teams.find? team = some t → t.mode ≠ .stopped → s.retires team t = true →
    exec (.teamRetire team) s = .next
      (((s.lastInterval team t).reportItem t 0 0).vacate team (((s.lastInterval team t).teams.find? team).getD t))) ∧
  (∀ s team t, s.teams.find? team = some t → t.mode = .stopped → s.busySlices t = false → exec (.teamRetire team) s = .next (s.vacate team t)) ∧
  (∀ s launch l, s.launches.find? launch = some l → s.gridOver launch l = true → l.releasing = none →
    exec (.gridRetire launch) s = .next (s.releaseGrid launch l)) ∧
  (∀ s launch l t mark, s.launches.find? launch = some l → s.gridOver launch l = true → l.releasing = some (t, mark) → s.released l.dies t mark = true →
    exec (.gridRetire launch) s = .next (s.retireGrid launch)) ∧
  (∀ s id g i, s.graphs.find? id = some g → g.running = true → s.nodeIsHeld id = false → g.next = some i →
    (∀ u bs, s.nodeRead g i = .bytes u bs → exec (.graphNodeFire id) s = .next (s.nodeFires u id g i bs)) ∧
    (∀ u, s.nodeRead g i = .settling u → exec (.graphNodeFire id) s = .next u) ∧
    (∀ ia why, s.nodeRead g i = .held ia why → exec (.graphNodeFire id) s = .next (s.nodeHeld id g i ia why)) ∧
    ∀ c, s.nodeRead g i = .error c → exec (.graphNodeFire id) s = .next (s.nodeUnread id g i c)) ∧
  (∀ s team t since, s.teams.find? team = some t → t.mode = .stopping since → s.stopLimit t ≤ cyclesOf (s.classOf t.core) (s.time - since) →
    t.groups.all (fun q => q.2.hasStopped) = false → exec (.forcedStop team) s = .next (s.forceStop team t)) ∧
  (∀ s team t, s.teams.find? team = some t → s.saveReady team t = true → (∀ p ∈ s.saveSet team t, s.saveReady p.1 p.2 = true) →
    (∃ p ∈ s.saveSet team t, p.2.saveFence = none) → exec (.teamSaveEnd team) s =
      .next ((s.saveSet team t).foldl (fun (u : State) p => if p.2.saveFence.isNone then u.fenceSave p.1 p.2 else u) s)) ∧
  (∀ s team t, s.teams.find? team = some t → s.saveReady team t = true → (∀ p ∈ s.saveSet team t, s.saveReady p.1 p.2 = true ∧ s.saveFenced p.2 = true) →
    exec (.teamSaveEnd team) s = .next ((s.saveSet team t).reverse.foldl (fun (u : State) p => u.saveTeam p.1 p.2) s)) ∧
  (∀ s launch l core ids, s.launches.find? launch = some l → s.mayPreempt launch l = true →
    s.preemptFor (s.wantOf launch l) l.queue (s.roomIn launch l) = some (core, ids) → exec (.preemptionRequest launch) s = .next (s.preempt launch core ids)) ∧
  (∀ s team mate first ta tb x y k, s.teams.find? team = some ta → ta.twin = some (mate, first) → s.teams.find? mate = some tb →
    s.intervals.find? team = some x → s.intervals.find? mate = some y → ta.mode ≠ .stopped → tb.mode ≠ .stopped →
    s.pairBoundary team mate ta tb x y = some k → exec (.pairedSignature team) s =
      .next (if pairAgrees ta tb x y then s.pairPasses team mate first k x y else s.pairFails team mate ta tb x y))

/-- Windows of the estimator, class changes and intervals of the power controller end (R404, R412, R421 to R427). -/
def Obligations.PowerStepsComplete : Prop :=
  (∀ s cl, cl < 128 → s.io.dawn = 0x80 → (s.cluster cl).changing = none → (s.cluster cl).windowEnd ≤ s.time →
    exec (.estimatorWindowEnd cl) s = .next (s.windowDone cl)) ∧
  (∀ s cl t cls, (s.cluster cl).changing = some (t, cls) → t ≤ s.time → exec (.classChangeEnd cl) s = .next (s.classChanged cl cls)) ∧
  (∀ s m, s.io.dawn = 0x80 → s.io.power.mark < s.time / 1000000 → exec (.powerIntervalEnd m) s = .next (s.powerInterval m)) ∧
  (∀ s cl temps, s.io.dawn = 0x80 → cl < 128 → (s.cluster cl).hot < temps.getD cl 0 → exec (.hotSpotMigration cl temps) s = .next (s.cooled cl temps)) ∧
  (∀ s cl n, (s.cluster cl).thermalFrom = some n → (s.cluster cl).stepTo = none → exec (.hotSpotStepUp cl) s = .next (s.steppedUp cl n)) ∧
  (∀ s peer grp number time saved, s.io.dawn = 0x80 → 1 ≤ grp → grp ≤ 7 → (s.groupPeers grp).contains peer = true →
    exec (.arrivalReport peer grp number time saved) s = .next (s.arrivalNoted peer grp number time saved)) ∧
  (∀ s watts, s.io.dawn = 0x80 → exec (.budgetMessage watts) s =
    .next { s with io := { s.io with power := { s.io.power with borrowed := s.io.power.borrowed + watts } } })

/-- Failures take their effect (R439, R440, R442). -/
def Obligations.FailureStepsComplete : Prop :=
  (∀ s die, die < 8 → (s.die die).failed = false → exec (.dieFailure die) s = .next (s.dieFails die)) ∧
  (∀ s home, home < 8 → (s.home home).failed = false → exec (.memorySideDieFailure home) s =
    .next (s.updHome home fun h => { h with failed := true, lines := [] })) ∧
  (∀ s, exec .ioDieFailure s = .next (s.updIo fun io => { io with failed := true })) ∧
  (∀ s core, core < 2048 → (s.die (dieOf core)).failed = false → exec (.coreFailure core) s = .next (s.coreFails core)) ∧
  (∀ s port, port < 12 → exec (.portRetirement port) s =
    .next (s.updIo fun io => { io with deadPorts := if io.deadPorts.contains port then io.deadPorts else port :: io.deadPorts }))

/-- Dawn, package time and the links of the module (R66, R77, R444, R452 to R455). -/
def Obligations.LinkStepsComplete : Prop :=
  (∀ s inp, exec (.dawn inp) s = .next (s.powerUp.updIo fun io => { io with dawning := some inp })) ∧
  (∀ s t, s.io.ptpWait = some t → s.io.dawn = 6 → s.time ≥ t + 2000000000 →
    exec .dawnPtpWaitExpiry s = .next (s.updIo fun io => { io with dawn := 7, ptpWait := none })) ∧
  (∀ s offset, 6 ≤ s.io.dawn → s.io.dawn ≠ dawnFailed → exec (.ptpSync offset) s = .next (s.synced offset)) ∧
  (∀ s, s.io.ptp = .locked → s.time ≥ s.io.lastSync + 1000000000 →
    exec .ptpHoldover s = .next (s.updIo fun io => { io with ptp := .holdover })) ∧
  (∀ s, s.io.dawn = dawnReady → s.time ≥ s.io.kept + 10000000 → exec .keepalive s = .next s.keptAlive) ∧
  (∀ s ep, s.io.dawn = dawnReady → (ep = s.io.ctl.1 ∨ ep = s.io.ctl.2) → s.io.lost.contains ep = false →
    s.time ≥ s.io.heard.get 0 ep + 100000000 → exec (.linkLoss ep) s = .next (s.linkLost ep)) ∧
  (∀ s ep mode, s.io.failed = false → exec (.connectionRequest ep mode) s =
    .next { s with net := s.net ++ [.connection ep (decide (mode.toNat < 2))] }) ∧
  (∀ s ctx r old rest, (s.ctx ctx).acks = (r, old) :: rest → old.any (s.translated ctx).contains = false →
    exec (.windowAck ctx) s = .next ((s.updCtx ctx fun c => { c with acks := rest }).answer r 0x22 0)) ∧
  (∀ s a, s.io.dawn = dawnReady → s.io.failed = false → exec (.peerAccessArrival a) s = .next (s.peerAccess a))

/-- Dawn goes step by step (R455, R456): each image's digest enters the log before its signature is checked, and a bad signature, a
module without a column that works or a configuration image without endpoints ends it in FAILED; a silent security processor leaves the
module dead. -/
def Obligations.DawnGoesStepByStep : Prop :=
  ∀ (s : State) (inp : DawnInput), s.io.dawning = some inp →
    (s.io.dawn = 1 → inp.silent = true → ∃ u, s.dawnStep = some u ∧ u.io.failed = true) ∧
    (s.io.dawn = 1 → inp.silent = false → s.dawnStep = some (s.dawnAt 2)) ∧
    (∀ x, s.io.dawn = 2 → (dawnImages inp)[s.io.log.length]? = some x → ∃ u, s.dawnStep = some u ∧
      u.io.log = s.io.log ++ [{ image := x.id, index := s.io.log.length, version := x.version, digest := shake256 x.bytes }] ∧
      u.io.dawn = if verifies firmwareKey x.bytes x.signature then 2 else 0xFF) ∧
    (s.io.dawn = 2 → 4 ≤ s.io.log.length → s.dawnStep = some (s.dawnAt 3)) ∧
    (s.io.dawn = 3 → s.dawnStep = some (s.dawnAt 4)) ∧
    (s.io.dawn = 4 → ∃ u, s.dawnStep = some u ∧ ((∀ c < 512, c ∈ inp.deadColumns) → u.io.dawn = 0xFF) ∧
      ∀ c < 512, c ∉ inp.deadColumns → u.io.dawn = 5) ∧
    (s.io.dawn = 5 → ∃ u, s.dawnStep = some u ∧ u.io.dawn = 6 ∧ ∀ h < 8, (u.home h).cap = stackCap (inp.cap.getD h 0)) ∧
    (s.io.dawn = 6 → s.io.ptpWait = none → ∃ u, s.dawnStep = some u ∧
      if inp.ptpLocked then u.io.dawn = 7 ∧ u.io.ptp = .locked else u.io.dawn = 6 ∧ u.io.ptpWait = some s.time) ∧
    (s.io.dawn = 7 → inp.config = none → ∃ u, s.dawnStep = some u ∧ u.io.dawn = 0xFF) ∧
    (∀ a b c, s.io.dawn = 7 → inp.config = some (a, b, c) → ∃ u, s.dawnStep = some u ∧ u.io.dawn = 0x80 ∧ u.io.ctl = (a, b) ∧ u.io.coll = c)

/-! ## Every message is handled (R446 to R449) -/

/-- Messages about the module, its contexts and their windows have their effect. -/
def Obligations.ContextMessagesHandled : Prop :=
  (∀ r, Handles (.status r) r 0x01 .any false false fun u => u.onStatus r) ∧
  (∀ r nonce, Handles (.attest r nonce) r 0x02 .any false false fun u => u.onAttest r nonce) ∧
  (∀ r, Handles (.semClaim r) r 0x10 .ctl false false fun u => u.onSemClaim r) ∧
  (∀ r, Handles (.semRelease r) r 0x11 .ctl false false fun u => u.onSemRelease r) ∧
  (∀ r ctx area quotas, Handles (.contextCreate r ctx area quotas) r 0x20 .ctl false (contextCreateBad ctx area quotas)
    fun u => u.onContextCreate r ctx area quotas) ∧
  (∀ r, Handles (.contextEnd r) r 0x21 .ctl true false fun u => u.onContextEnd r) ∧
  (∀ r n w0 w1 w2 w3, Handles (.window r n w0 w1 w2 w3) r 0x22 .ctl true false fun u => u.onWindow r n w0 w1 w2 w3) ∧
  (∀ r claim, Handles (.faultRoute r claim) r 0x23 .ctl true false fun u => u.onFaultRoute r claim) ∧
  (∀ r first count, Handles (.recordFree r first count) r 0x24 .ctl true (recordFreeBad first count) fun u => u.onRecordFree r first count) ∧
  (∀ r word, Handles (.faultResume r word) r 0x51 .ctl false false fun u => u.onFaultResume r word)

/-- Messages that launch work or reach memory have their effect. -/
def Obligations.WorkMessagesHandled : Prop :=
  (∀ r packet, Handles (.plierrovLaunch r packet) r 0x30 .ctl true (plierrovLaunchBad packet) fun u => u.onPlierrovLaunch r packet) ∧
  (∀ r launch counter thr, Handles (.threshold r launch counter thr) r 0x31 .ctl false (thresholdBad launch counter thr)
    fun u => u.onThreshold r launch counter thr) ∧
  (∀ r graph nodes edges, Handles (.graphLoad r graph nodes edges) r 0x32 .ctl true (graphLoadBad r graph nodes edges)
    fun u => u.onGraphLoad r graph nodes edges) ∧
  (∀ r graph edge tokens, Handles (.graphPush r graph edge tokens) r 0x33 .ctl false false (fun u => u.onGraphPush r graph edge tokens)
    fun s => s.graphPushBad graph edge tokens = false) ∧
  (∀ r va len, Handles (.rmaRead r va len) r 0x40 .ctl true (rmaReadBad va len) (fun u => u.onRmaRead r va len)
    fun s => s.rmaWaits r.ep = false) ∧
  (∀ r va data, Handles (.rmaWrite r va data) r 0x41 .ctl true (rmaWriteBad r data) (fun u => u.onRmaWrite r va data)
    fun s => s.rmaWaits r.ep = false) ∧
  (∀ r va kind wide operand compare, Handles (.rmaAtomic r va kind wide operand compare) r 0x42 .ctl true (rmaAtomicBad kind)
    (fun u => u.onRmaAtomic r va kind wide operand compare) fun s => s.rmaWaits r.ep = false) ∧
  (∀ r home level page e x, Handles (.ptSet r home level page e x) r 0x50 .ctl false (msBad home level page)
    fun u => u.onPtSet r home level page e x) ∧
  (∀ r home level page x, Handles (.migrate r home level page x) r 0x50 .ctl false (msBad home level page)
    fun u => u.onMigrate r home level page x) ∧
  (∀ r home level page, Handles (.reclaim r home level page) r 0x50 .ctl false (msBad home level page) fun u => u.onReclaim r home level page)

/-- Settings have their effect. -/
def Obligations.SettingMessagesHandled : Prop :=
  (∀ r b, Handles (.limits r b) r 0x60 .sem false (limitsBad b) fun u => u.onLimits r b) ∧
  (∀ r clusters target, Handles (.partition r clusters target) r 0x61 .sem false (partitionBad clusters target)
    fun u => u.onPartition r clusters target) ∧
  (∀ r die map, Handles (.clusterMap r die map) r 0x62 .sem false (clusterMapBad die map) fun u => u.onClusterMap r die map) ∧
  (∀ r thr, Handles (.errorStatus r thr) r 0x63 (if thr.isSome then .sem else .ctl) false (errorStatusBad r thr) fun u => u.onErrorStatus r thr) ∧
  (∀ r unit v, Handles (.msConfigPtroot r unit v) r 0x64 .sem false (decide (unit > 8) || decide (0 > 63))
    fun u => u.configured r (ptrootRefused v) fun u => u.onMsConfigPtroot unit v) ∧
  (∀ r unit v, Handles (.msConfigLease r unit v) r 0x64 .sem false (decide (unit > 8) || decide (0 > 63))
    fun u => u.configured r (leaseRefused unit v) fun u => u.onMsConfigLease unit v) ∧
  (∀ r unit slot v b, Handles (.msConfigPeertab r unit slot v) r 0x64 .sem false (decide (unit > 8) || decide (slot > 63))
    (fun u => u.configured r b fun u => u.onMsConfigPeertab unit slot v) fun s => s.peerSlotRefused unit v = b) ∧
  (∀ r unit v, Handles (.msConfigPoolb r unit v) r 0x64 .sem false (decide (unit > 8) || decide (0 > 63))
    fun u => u.configured r (poolRefused unit v) fun u => u.onMsConfigPoolb unit v) ∧
  (∀ r unit v, Handles (.msConfigPooll r unit v) r 0x64 .sem false (decide (unit > 8) || decide (0 > 63))
    fun u => u.configured r (poolRefused unit v) fun u => u.onMsConfigPooll unit v) ∧
  (∀ r thr, Handles (.thermal r thr) r 0x65 .sem false (thermalBad thr) fun u => u.onThermal r thr) ∧
  (∀ r first entries, Handles (.peerTable r first entries) r 0x66 .sem false (peerTableBad r first entries) fun u => u.onPeerTable r first entries)

/-- A message that the module does not take is answered with the status of the first check that fails and does nothing else; a
type that R447 does not list is bad. -/
def Obligations.MessagesRefused : Prop :=
  (∀ r, Refuses (.status r) r 0x01 .any false false) ∧
  (∀ r, Refuses (.semClaim r) r 0x10 .ctl false false) ∧
  (∀ r ctx area quotas, Refuses (.contextCreate r ctx area quotas) r 0x20 .ctl false (contextCreateBad ctx area quotas)) ∧
  (∀ r first count, Refuses (.recordFree r first count) r 0x24 .ctl true (recordFreeBad first count)) ∧
  (∀ r packet, Refuses (.plierrovLaunch r packet) r 0x30 .ctl true (plierrovLaunchBad packet)) ∧
  (∀ r va data, Refuses (.rmaWrite r va data) r 0x41 .ctl true (rmaWriteBad r data) fun s => s.rmaWaits r.ep = false) ∧
  (∀ r home level page, Refuses (.reclaim r home level page) r 0x50 .ctl false (msBad home level page)) ∧
  (∀ r b, Refuses (.limits r b) r 0x60 .sem false (limitsBad b)) ∧
  (∀ r clusters target, Refuses (.partition r clusters target) r 0x61 .sem false (partitionBad clusters target)) ∧
  (∀ r unit v, Refuses (.msConfigLease r unit v) r 0x64 .sem false (decide (unit > 8) || decide (0 > 63))) ∧
  (∀ r type, requestTypes.contains type.toNat = false → ∀ s, s.io.failed = false → s.io.dawn = dawnReady →
    exec (.unknownMessage r type) s = .next ((s.heard r).reply r type 4 []))

/-! ## A step runs the decoded instruction -/

/-- The issue of a group whose words decode to `i`, in a cycle in which its pipe is free, is `exec i` on the state in which those words
are fetched and the group holds the issue slot; around it an issue notes an interval's end (R433, R434), passes on a log entry for which
the group had waited (R93) and takes the pipe (R405). A step at a turn that names the group is that issue, in the first cycle in which the
keys choose it (R406); and an issue that the model's own schedule takes is that of a candidate in a cycle of its core (log 2). -/
def Obligations.StepRunsTheDecodedInstruction : Prop :=
  (∀ (s : State) (r : GrpRef) (t : Team) (g : Group) (i : Instr) (ws : List W32) (c : Nat),
    s.group? r = some (t, g) → State.mayIssue t g = true → (s.cluster (clusterOf t.core)).changing = none → g.formed = [] → g.switchDue = none →
    (g.run < 32 ∨ readsLatch i = true) → decode (s.fetchWords (dieOf t.core) (s.ctx t.ctx).windows 5 g.pc).1 = .ok i →
    ws = (s.fetchWords (dieOf t.core) (s.ctx t.ctx).windows 5 g.pc).1.take i.words → s.gateOf r t g i = .go →
    (∀ p ∈ (s.core t.core).issuersAt c, p.1 ≠ r) → s.pipeFree t.core c (pipeOf i t.k.width) = true →
    let v := s.fetched (dieOf t.core) (s.ctx t.ctx).windows g.pc ws.length
    s.issueIn c (r, t, g) = some (mapNext (fun z => s.issuedIn (((v.pairedRoom z r.team).noteOwn r g.retiredSum).leftLog r t g) c r t g false)
      (exec i { v with cur := some (r, ws.getD 0 0, ws.getD 1 0) }))) ∧
  (∀ (s u : State) r rest t g c o, s.io.failed = false → s.turns = .issue r :: rest → u = { s with turns := rest } → u.group? r = some (t, g) →
    (u.cyclesNow t.core).find? (fun c => u.chosen c r t g) = some c → u.issueIn c (r, t, g) = some o → step s = o) ∧
  (∀ (s : State) o, s.io.failed = false → s.turns = [] → workStep s.calm s = none → issueNow s = some (.inl o) →
    step s = o ∧ ∃ core c x, c ∈ s.cyclesNow core ∧ x ∈ s.candidates core ∧ s.issueIn c x = some o)

/-- Words of the spec's worked encodings decode to the instructions that they stand for. -/
def Obligations.WordsDecode : Prop :=
  decode [0x3F0AC809, 0x1D020200] = .ok (.ld { h := { long := true }, d := 10, a := .bcast 8, b := .reg 9, tag := 2, width := 2 }) ∧
  decode [0x200A0984] = .ok (.sts { h := {}, d := 10, a := .reg 9, b := .zero }) ∧
  decode [0x1E0ACA09] = .ok (.st { h := {}, d := 10, a := .bcast 10, b := .reg 9 }) ∧
  decode [0x11110C84] = .ok (.icmp { h := {}, cond := 1, p := 1, a := .reg 12, b := .zero }) ∧
  decode [0x3F030406, 0x2F000013] =
    .ok (.atom { h := { long := true }, d := 3, a := .reg 4, b := .reg 6, kind := 0, order := .rel, scope := 3 }) ∧
  decode [0xA2030008] = .ok (.part { h := {}, d := 3, b := .reg 8 }) ∧
  decode [0xB0040000] = .ok (.ctime { h := {}, d := 4 }) ∧
  decode [0xBF000500, 0x29008800] = .ok (.trap { h := { long := true, guard := some { neg := false, idx := 1 } }, a := .reg 5 })

/-- Right after reset dawn is at its first step, no team is resident and no host holds the semaphore, each home's registers and each
column's budget hold the values of R79 and R420, and memory is in its canonical form. -/
def Obligations.ResetState : Prop :=
  State.reset.io.dawn = 1 ∧ State.reset.teams = [] ∧ State.reset.io.sem = none ∧ State.reset.io.ptroot = 0 ∧
  (∀ h, (State.reset.home h).ptroot = 0 ∧ (State.reset.home h).lease = 4000 ∧ (State.reset.home h).poolb = 0 ∧ (State.reset.home h).pooll = 0 ∧
    ∀ n, (State.reset.home h).peertab.get 0 n = 0) ∧
  (∀ c : Nat, (State.reset.column c).budget = 65536 ∧ (State.reset.column c).grants = []) ∧
  (∀ c n k : Nat, ((State.reset.ctx c).window n).getD k 0 = 0) ∧ State.reset.MemoryCanonical

/-! ## What instructions leave unchanged -/

/-- V-set register-to-register instructions change no register but their destination's, no predicate, no memory, no other team. -/
def Obligations.VectorInstructionsKeepTheRest : Prop :=
  ∀ (i : Instr) (o : Alu) (q : Op), vectorOp i = some (o, q) →
    Confined i (q.plan false o) (fun x => x.FlowsOn ∧ x.TagsOk (q.classes o) ∧ q.tie x = .ok ()) (fun _ => inSpan o.w o.d.toNat q.kd) noReg False False

/-- U-set register-to-register instructions change no uniform register but their destination's, and that only where the guard
selects the group. -/
def Obligations.UniformInstructionsKeepTheRest : Prop :=
  ∀ (i : Instr) (o : Alu) (q : Op), uniformOp i = some (o, q) →
    Confined i (q.plan true o) Issue.FlowsOn noReg (fun x => inSpan (o.w || !x.selected) o.d.toNat q.kd) False False

/-- Compares change predicates alone; NOP, branches taken by all, jumps and MEET change the flow alone. -/
def Obligations.ComparesAndFlowKeepTheRest : Prop :=
  (∀ o, Confined (.icmp o) (icmpPlan o) (fun x => x.FlowsOn ∧ x.TagsOk (icmpClasses o)) noReg noReg True False) ∧
  (∀ o, Confined (.fcmp o) (fcmpPlan o) (fun x => x.FlowsOn ∧ x.TagsOk (fcmpClasses o)) noReg noReg True False) ∧
  (∀ o, Confined (.icmpU o) (icmpUPlan o) Issue.FlowsOn noReg noReg False True) ∧
  (∀ o, Confined (.icmpi o) (icmpiPlan o) Issue.FlowsOn noReg noReg False True) ∧
  (∀ o, Confined (.nop o) (nopPlan o) Issue.FlowsOn noReg noReg False False) ∧
  (∀ o, Confined (.nopU o) (nopUPlan o) Issue.FlowsOn noReg noReg False False) ∧
  (∀ nodiv o, Confined (laneBranch nodiv o) (braPlan o)
    (fun x => x.grp.active ≠ [] ∧ x.grp.active.all (braTaken o) = true ∧ x.grp.JumpsTo (braTarget o x.next)) noReg noReg False False) ∧
  (∀ o, Confined (.bru o) (bruPlan o)
    (fun x => (x.grp.q.getLsbD o.idx.toNat != o.neg) = true ∧ x.grp.JumpsTo (braTarget o x.next)) noReg noReg False False) ∧
  (∀ o, Confined (.jmp o) (jmpPlan o) (fun x => x.grp.JumpsTo (jmpTarget o x.next)) noReg noReg False False) ∧
  (∀ o, Confined (.meet o) (meetPlan o) (fun x => (x.grp.meetAt (jmpTarget o x.next)).FlowsTo x.next) noReg noReg False False)

/-- Local loads change their destination alone, and no byte of memory. -/
def Obligations.LocalLoadsKeepTheRest : Prop :=
  (∀ o ps, Confined (.lds o) (localPlan o 1)
    (fun x => x.FlowsOn ∧ x.TagsOk (memClasses (localPlan o 1).srcs) ∧ padsOf x o.a o.b o.imm (widthOf o.width) = .ok ps ∧ x.gate = .ok () ∧
      padsClear x (widthOf o.width) ps = .ok () ∧ padsPresent x (widthOf o.width) ps = true)
    (fun _ => inSpan false o.d.toNat (regsOf (widthOf o.width))) noReg False False) ∧
  (∀ o ps, Confined (.ldv o) (localPlan o 2)
    (fun x => x.FlowsOn ∧ x.TagsOk (memClasses (localPlan o 2).srcs) ∧ vaultsOf x o.a o.b o.imm (widthOf o.width) = .ok ps ∧
      (∀ q ∈ ps, vaultLocked x (widthOf o.width) false q.2 = false) ∧ x.gate = .ok () ∧
      ∀ q ∈ ps, x.vaultFlawed q.2.1 q.2.2 (widthOf o.width) = false)
    (fun _ => inSpan false o.d.toNat (regsOf (widthOf o.width))) noReg False False)

/-- Local stores change the bytes that their lanes name, and their group's horizon. A store to a scratchpad of another die changes no byte yet:
it is on its way there (R204). A vault store of a team in an interval to a place that is not its own changes no byte either: the team's
buffer holds it, but for a release that reaches the die (R431, R433). -/
def Obligations.LocalStoresKeepTheRest : Prop :=
  (∀ o ps s r iw t g, AtIssue s r iw t g → let x := issueOf (.sts o) (stsPlan o) s r iw t g
    (stsPlan o).Clear x → x.FlowsOn → x.TagsOk (memClasses (stsPlan o).srcs) → padsOf x o.a o.b o.imm (widthOf o.width) = .ok ps →
    (∀ q ∈ ps, padLocked x.s (widthOf o.width) q.2 = false) → localRelease x (o.order = .rel) (x.scope o.scope) = .ok () →
    padsClear x (widthOf o.width) ps = .ok () →
    ∃ u, exec (.sts o) s = .next u ∧ Stores s { u with held := s.held } r g (fun _ => False)
      (fun a => ∃ q ∈ ps, dieOf q.2.core = dieOf t.core ∧ q.2.at x.s ≤ a ∧ a < q.2.at x.s + widthOf o.width) ∧
      HoldsMore s u fun h => ∃ q ∈ ps, dieOf q.2.core ≠ dieOf t.core ∧ ∃ home, h = .pad r.team home (q.2.owner x.s) q.2.off (laneStores o x q.1)) ∧
  (∀ o ps s r iw t g, AtIssue s r iw t g → let x := issueOf (.stv o) (stvPlan o) s r iw t g
    (stvPlan o).Clear x → x.FlowsOn → x.TagsOk (memClasses (stvPlan o).srcs) → vaultsOf x o.a o.b o.imm (widthOf o.width) = .ok ps →
    (∀ q ∈ ps, vaultLocked x (widthOf o.width) true q.2 = false) → stvForbidden x ps = false →
    localRelease x (o.order = .rel) (x.scope o.scope) = .ok () →
    (s.intervals.find? r.team = none ∨ o.order = .rel ∧ o.scope ≠ 0 → ∃ u, exec (.stv o) s = .next u ∧ Stores s u r g (fun _ => False)
      fun a => ∃ q ∈ ps, vaultAt q.2.1 q.2.2 ≤ a ∧ a < vaultAt q.2.1 q.2.2 + widthOf o.width) ∧
    (∀ iv, s.intervals.find? r.team = some iv → ¬ (o.order = .rel ∧ o.scope ≠ 0) → iv.held.length + iv.heldVault.length + 2 * ps.length < 1024 →
      (∀ q ∈ ps, ownVault t q.2.1 q.2.2 = false) → ∃ u, exec (.stv o) s = .next u ∧ Stores s u r g (fun _ => False) fun _ => False)) ∧
  (∀ o ps s r iw t g, AtIssue s r iw t g → let x := issueOf (.atoms o) (atomsPlan o) s r iw t g
    (atomsPlan o).Clear x → x.FlowsOn → x.TagsOk (atmClasses 1 o) → padsOf x o.a .zero false (atmBytes o) = .ok ps →
    (∀ q ∈ ps, padLocked x.s (atmBytes o) q.2 = false) → localRelease x (o.order = .rel) 0 = .ok () → padsClear x (atmBytes o) ps = .ok () →
    ∃ u, exec (.atoms o) s = .next u ∧ Stores s u r g (inSpan o.w o.d.toNat (regsOf (atmBytes o)))
      fun a => ∃ q ∈ ps, q.2.at x.s ≤ a ∧ a < q.2.at x.s + atmBytes o)

/-- A global access leaves at its issue every byte of memory, every register and every predicate: its lanes reach their holders in
later steps, and its destination is pending on its entry until they do (R92, R95). Where a lane is selected, the entry `k` of its core's
log is the access with those lanes, CHAINED behind an earlier one of its granule (R97); every other entry, and every other core, stands. -/
def Obligations.GlobalAccessesReachMemoryLater : Prop :=
  ∀ i p ok a, globalAccess i = some (p, ok, a) → ∀ s r iw t g ias k, AtIssue s r iw t g → let x := issueOf i p s r iw t g
    p.Clear x → x.FlowsOn → ok x → x.Admits (a x) ias k →
    ∃ u, exec i s = .next u ∧ s.KeptOutside { u with cores := s.cores } r ∧
      (∀ c, c ≠ t.core → { u.core c with est := (s.core c).est } = s.core c) ∧
      { u.core t.core with est := (s.core t.core).est, log := (s.core t.core).log } = s.core t.core ∧
      (x.slots = [] → (u.core t.core).log = (s.core t.core).log) ∧
      (x.slots ≠ [] → ∃ m, (u.core t.core).log = (s.core t.core).log.put k { x.logged (a x) ias with mode := m } ∧
        (m = .chained ↔ (∃ q ∈ (s.core t.core).log, q.2.blocks (x.logged (a x) ias) = true) ∨ x.s.storeBlocks (x.logged (a x) ias) = true)) ∧
      ∃ t' h, u.group? r = some (t', h) ∧ g.Keeps { h with pendV := g.pendV, pendS := g.pendS } (fun _ => False) (fun _ => False) False False ∧
        h.pendV = (x.expects (a x)).pendV ∧ h.pendS = (x.expects (a x)).pendS

/-! ## Results -/

/-- A V-set register-to-register instruction with W = 0 leaves in each word of its destination the lane's result, in the lanes
that are ACTIVE and selected, and the old value in every other; the destination's registers take the result's tag (R273). A thread
alone on its lane is the lane's. -/
def Obligations.ResultsLandInTheSelectedLanes : Prop :=
  ∀ (i : Instr) (o : Alu) (q : Op), vectorOp i = some (o, q) → o.w = false → ∀ s r iw t g, AtIssue s r iw t g → let x := issueOf i (q.plan false o) s r iw t g
    (q.plan false o).Clear x → x.FlowsOn → x.TagsOk (q.classes o) → q.tie x = .ok () →
    ∃ u t' h, exec i s = .next u ∧ u.group? r = some (t', h) ∧ h.threads.map (fun z => (z.tid, z.lane)) = g.threads.map (fun z => (z.tid, z.lane)) ∧
      (∀ j < q.kd, h.tag (o.d.toNat + j) = q.tag x) ∧
      ∀ (n : Nat) (y z : Thread), g.threads[n]? = some y → h.threads[n]? = some z → (∀ (m : Nat) (y' : Thread), g.threads[m]? = some y' → y'.lane = y.lane → m = n) →
        ∀ j < q.kd, z.reg (o.d.toNat + j) =
          if y.mode = .active ∧ x.selects y = true then (q.value x (q.lane x o y)).words.getD j 0 else y.reg (o.d.toNat + j)

/-- Integer results are those of two's complement words: they wrap, or under .SAT are clamped and counted, and shifts by 32 or more
leave zeros or copies of the sign. -/
def Obligations.IntegerResults : Prop :=
  (∀ (o : Alu) (x : Issue) (l : Lane), o.sat = false →
    (intOp o true (· + ·)).value x l = res1 (l.a32 + l.b32) ∧ (intOp o true (· - ·)).value x l = res1 (l.a32 - l.b32) ∧
    (intOp o true (· * ·)).value x l = res1 (l.a32 * l.b32) ∧ (imacOp o).value x l = res1 (l.a32 * l.b32 + l.c32) ∧
    (int1Op o fun a => -a).value x l = res1 (-l.a32) ∧ (int1Op o fun a => a.natAbs).value x l = res1 (if l.a32.msb then -l.a32 else l.a32) ∧
    (int64Op o (· + ·)).value x l = res64 (l.a + l.b) ∧ (int64Op o (· - ·)).value x l = res64 (l.a - l.b)) ∧
  (∀ (o : Alu) (x : Issue) (l : Lane) (f : Int → Int → Int), o.sat = true →
    (f l.a32.toInt l.b32.toInt < -2147483648 → (intOp o true f).value x l = { words := [0x80000000], counts := [counterNo 4 0x28] }) ∧
    (2147483647 < f l.a32.toInt l.b32.toInt → (intOp o true f).value x l = { words := [0x7FFFFFFF], counts := [counterNo 4 0x28] }) ∧
    (-2147483648 ≤ f l.a32.toInt l.b32.toInt → f l.a32.toInt l.b32.toInt ≤ 2147483647 →
      ∃ w, (intOp o true f).value x l = res1 w ∧ w.toInt = f l.a32.toInt l.b32.toInt)) ∧
  (∀ a b : W32, mulHigh a b = ((a.signExtend 64 * b.signExtend 64) >>> 32).setWidth 32 ∧
    mulHighU a b = ((a.setWidth 64 * b.setWidth 64) >>> 32).setWidth 32) ∧
  (∀ a b : W32, shl32 a b = a <<< b.toNat ∧ shr32 a b = a >>> b.toNat ∧ sar32 a b = a.sshiftRight b.toNat) ∧
  (∀ a b : W32, 32 ≤ b.toNat → shl32 a b = 0 ∧ shr32 a b = 0 ∧ sar32 a b = if a.msb then 0xFFFFFFFF else 0) ∧
  (∀ (a : W32) (i : Nat), i < 32 → (brev32 a).getLsbD i = a.getLsbD (31 - i)) ∧
  (∀ a : W32, (a = 0 ↔ clz32 a = 32) ∧ (∀ n < 32, clz32 a = BitVec.ofNat 32 n → a.getLsbD (31 - n) = true ∧ ∀ k < n, a.getLsbD (31 - k) = false))

/-- Every word of a result is pushed, the low half of a pair first; older entries move down with their valid bits, pending bits and
tags, the fourth is lost; a result that is no register value pushes nothing (R36, R282). -/
def Obligations.LatchesShift : Prop :=
  (∀ (l : List Latch) (e : Latch), (pushLatch l e).head? = some e ∧ (pushLatch l e).length = min 4 (l.length + 1) ∧ ∀ n < 3, latchAt (pushLatch l e) (n + 1) = latchAt l n) ∧
  (∀ (g : Group) w d tag rs, ∃ e, (g.writeV w d 1 tag rs).x = pushLatch g.x e ∧ e.valid = true ∧ e.pend = none ∧ e.tag = tag) ∧
  (∀ (g : Group) w d tag rs, ∃ lo hi, (g.writeV w d 2 tag rs).x = pushLatch (pushLatch g.x lo) hi ∧ lo.valid = true ∧ hi.valid = true ∧
    lo.vals = writeWord g w d rs 0 ∧ hi.vals = writeWord g w d rs 1) ∧
  (∀ (g : Group) w d k tag rs, (g.writeV w d k tag rs).y = g.y) ∧ (∀ (g : Group) w sel d k r, (g.writeU w sel d k r).x = g.x) ∧
  (∀ (g : Group) n rs, (g.writeP n rs).x = g.x ∧ (g.writeP n rs).y = g.y)

/-! ## Addresses and windows -/

/-- The lowest window that hits translates an address and its permissions alone count (R61). -/
def Obligations.LowestHittingWindowTranslates : Prop :=
  (∀ w va, winHits w va = true ↔ (w.getD 3 0).getLsbD 0 = true ∧ (w.getD 0 0).toNat ≤ va ∧ va < (w.getD 1 0).toNat) ∧
  (∀ ws va w, hitWindow ws va = some w ↔ ∃ n : Nat, ws[n]? = some w ∧ winHits w va = true ∧
    ∀ (m : Nat) v, m < n → ws[m]? = some v → winHits v va = false) ∧
  (∀ ws va w size perm, hitWindow ws va = some w → checkAccess ws va size perm = checkAccess [w] va size perm)

/-- A window's translation, DIRECT and STRIPED; 2 KiB stripes of an aligned 16 KiB land on the eight homes in turn, 512 KiB of
striped space lie in one 64 KiB page of each home, and a home's stripe of a row follows that of the row before (R62). -/
def Obligations.WindowsTranslate : Prop :=
  ∀ (w : List W64) (va : Nat), let x : W64 := BitVec.ofNat 64 (va - (w.getD 0 0).toNat + (w.getD 2 0).toNat)
    va - (w.getD 0 0).toNat + (w.getD 2 0).toNat < 2 ^ 64 →
    ((w.getD 3 0).getLsbD 8 = false → translate w va = ((w.getD 3 0).extractLsb' 12 4).toNat * 2 ^ 48 + (x.extractLsb' 0 48).toNat) ∧
    ((w.getD 3 0).getLsbD 8 = true →
      translate w va = (x.extractLsb' 11 3).toNat * 2 ^ 48 + (x.extractLsb' 14 37).toNat * 2 ^ 11 + (x.extractLsb' 0 11).toNat) ∧
    ((w.getD 3 0).getLsbD 8 = true → (w.getD 0 0).toNat ≤ va → x.toNat % 16384 = 0 →
      ∀ k < 8, ∀ j < 2048, homeOf (translate w (va + 2048 * k + j)) = k) ∧
    ((w.getD 3 0).getLsbD 8 = true → (w.getD 0 0).toNat ≤ va → x.toNat % 524288 = 0 →
      ∀ j < 524288, offsetOf (translate w (va + j)) / 65536 = offsetOf (translate w va) / 65536) ∧
    ((w.getD 3 0).getLsbD 8 = true → (w.getD 0 0).toNat ≤ va → x.toNat + 16384 < 2 ^ 51 →
      homeOf (translate w (va + 16384)) = homeOf (translate w va) ∧ offsetOf (translate w (va + 16384)) = offsetOf (translate w va) + 2048)

/-- The checks of an access in their order; of the lanes that fail, the lowest of those with the lowest-numbered failed check is
named; and an access that some lane fails is made by no lane (R67). -/
def Obligations.AccessChecksInOrder : Prop :=
  (∀ ws va size perm, (2 ^ 57 ≤ va → checkAccess ws va size perm = .error (1, 1)) ∧
    (va < 2 ^ 57 → va % size ≠ 0 → checkAccess ws va size perm = .error (2, 0)) ∧
    (va < 2 ^ 57 → va % size = 0 → hitWindow ws va = none → checkAccess ws va size perm = .error (3, 2)) ∧
    ∀ w, va < 2 ^ 57 → va % size = 0 → hitWindow ws va = some w →
      checkAccess ws va size perm = if (w.getD 3 0).toNat &&& perm = perm then .ok (translate w va) else .error (4, 3)) ∧
  (∀ (u : Bool) (l : List (Nat × Except (Nat × Trap) Nat)) (e : Stop), firstFail u l = .error e →
    ∃ pre i n t post, l = pre ++ (i, .error (n, t)) :: post ∧ e = .trap { t with lane := if u then none else some i } ∧
      (∀ j m z, (j, .error (m, z)) ∈ pre → n < m) ∧ ∀ j m z, (j, .error (m, z)) ∈ post → n ≤ m) ∧
  (∀ i p ok a, globalAccess i = some (p, ok, a) → ∀ s r iw t g e, AtIssue s r iw t g → let x := issueOf i p s r iw t g
    p.Clear x → ok x → x.places (a x) = .error e → exec i s = .next (x.stop e))

/-- A program reads its context's windows with CSRR; CSRW to one raises PRIVILEGE and leaves every window as it was (R65). -/
def Obligations.ProgramsReadWindowsOnly : Prop :=
  (∀ (o : Alu) (n : Nat) s r iw (t : Team) g, n < 8 → o.a.code.toNat = 0x10 + n → AtIssue s r iw t g → let x := issueOf (.csrr o) (csrrPlan o) s r iw t g
    (csrrPlan o).Clear x → x.FlowsOn →
    exec (.csrr o) s = .next (x.seq (wroteWords o x 2 (pairOf (((s.ctx t.ctx).window n).getD o.b.code.toNat 0))))) ∧
  (∀ (o : Alu) s r iw t g, 0x10 ≤ o.a.code.toNat → o.a.code.toNat ≤ 0x17 → AtIssue s r iw t g → let x := issueOf (.csrw o) (csrwPlan o) s r iw t g
    (csrwPlan o).Clear x → x.selected = true →
    ∃ u, exec (.csrw o) s = .next u ∧ u = ({ s with cur := none } : State).take r tPrivilege ∧ tPrivilege.code = 0x1B ∧
      ∀ c, (u.ctx c).windows = (s.ctx c).windows)

/-! ## Traps -/

/-- TRAP raises SOFTWARE on the state before it, and the record's data word is its operand, zero-extended; a d field that is not 0
is illegal (R383). -/
def Obligations.TrapRaisesSoftware : Prop :=
  (∀ o s r iw t g, AtIssue s r iw t g → let x := issueOf (.trap o) (trapPlan o) s r iw t g
    (trapPlan o).Clear x → x.selected = true →
    exec (.trap o) s = .next (({ s with cur := none } : State).take r { code := 0x18, data := (x.read groupThread o.a 0).toNat })) ∧
  (∀ (s : State) (t : Team) (slot : Nat) (g : Group) (a : W32) (scope : Nat) (origin : Bool) (pc : Nat),
    (recordHead s t slot g { code := 0x18, data := a.toNat } scope origin pc)[7]? = some (a.setWidth 64)) ∧
  (∀ (o : Alu) s r iw t g, AtIssue s r iw t g → o.d ≠ 0 → exec (.trap o) s = .next (({ s with cur := none } : State).take r tIllegalInstruction))

/-- A trap of TEAM scope in a team that has started and runs alone: the team stops with every group of it, every other team keeps its place, both
controlling endpoints hear of its record, whose words are those of R386, and the launch's report lists the team as TRAPPED with the
code (R384 to R386, R441). -/
def Obligations.TakingATrap : Prop :=
  ∀ (s : State) (r : GrpRef) (tr : Trap) (t : Team) (g : Group), s.group? r = some (t, g) → trapScope tr.code = 0 → tr.also = [] → t.mode ≠ .stopped → t.mode ≠ .placed →
    t.gang = none → t.twin = none →
    let u := s.raiseTrap r tr
    (∃ t', u.teams.find? r.team = some t' ∧ t'.mode = .stopped ∧ ∀ k h, (k, h) ∈ t'.groups → h.mode = .stopped) ∧
    (∀ id, id ≠ r.team → (u.teams.find? id).map (fun z => (z.mode, z.core, z.index)) = (s.teams.find? id).map fun z => (z.mode, z.core, z.index)) ∧
    (∃ slot rec m n, u.out = s.out ++ [m, n] ∧ m.type = 0x9001 ∧ n.type = 0x9001 ∧ m.ep = s.io.ctl.1 ∧ n.ep = s.io.ctl.2 ∧ m.ctx = t.ctx ∧
      n.ctx = t.ctx ∧ m.body = slot :: rec ∧ n.body = slot :: rec ∧ rec.drop 8 = tr.words ∧
      rec[0]? = some (packWord [(tr.code, 56), (tr.cause, 52), (0, 50), (1, 49), (tr.ext, 44), ((tr.words.length + 1) / 2, 32), (t.ctx, 0)]) ∧
      rec[1]? = some (BitVec.ofNat 64 t.index) ∧ rec[2]? = some (BitVec.ofNat 64 (tr.pc.getD g.pc % 2 ^ 57)) ∧
      rec[3]? = some (BitVec.ofNat 64 tr.addr) ∧ rec[5]? = some (BitVec.ofNat 64 s.time) ∧ rec[7]? = some (BitVec.ofNat 64 tr.data)) ∧
    (∀ l, s.launches.find? t.launch = some l → ∃ m it, u.launches.find? t.launch = some m ∧ m.items = l.items ++ [it] ∧
      it.team = t.index ∧ it.status = 1 ∧ it.code = tr.code)

/-- A paired team that issues ATOM or RED at PACKAGE or SYSTEM scope raises PAIRED_FORBIDDEN; no window onto home 8 that a host may
set grants A, and without A an atomic fails the check of R63 (R151). -/
def Obligations.PairedAtomicsForbidden : Prop :=
  (∀ o s r iw t g, AtIssue s r iw t g → t.k.paired = true →
    (let x := issueOf (.atom o) (atomPlan false o) s r iw t g;
      (atomPlan false o).Clear x → x.TagsOk (atmClasses 2 o) → 3 ≤ x.scope o.scope →
      exec (.atom o) s = .next (({ s with cur := none } : State).take r tPairedForbidden)) ∧
    (let x := issueOf (.atomU o) (atomPlan true o) s r iw t g;
      (atomPlan true o).Clear x → x.TagsOk (atmClasses 2 o) → 3 ≤ x.scope o.scope →
      exec (.atomU o) s = .next (({ s with cur := none } : State).take r tPairedForbidden)) ∧
    (let x := issueOf (.red o) (redPlan o) s r iw t g;
      (redPlan o).Clear x → x.TagsOk (atmClasses 2 o) → 3 ≤ x.scope o.scope →
      exec (.red o) s = .next (({ s with cur := none } : State).take r tPairedForbidden))) ∧
  (∀ w0 w1 w2 w3 : W64, windowBad w0 w1 w2 w3 = false → w3.getLsbD 8 = false → (w3.extractLsb' 12 4).toNat = 8 → w3.getLsbD 3 = false) ∧
  (∀ ws va size perm w, hitWindow ws va = some w → (w.getD 3 0).getLsbD 3 = false → perm.testBit 3 = true → va < 2 ^ 57 → va % size = 0 →
    checkAccess ws va size perm = .error (4, 3))

/-! ## Control and system instructions -/

/-- CALL and RET raise UNIFORM_VIOLATION in a group that is not converged, and ILLEGAL_OPERAND where the stack is full or empty; each
is raised on the state before the instruction (R297). -/
def Obligations.CallAndReturnTrap : Prop :=
  (∀ o s r iw t g, AtIssue s r iw t g → (callPlan o).Clear (issueOf (.call o) (callPlan o) s r iw t g) → g.converged = false →
    exec (.call o) s = .next (({ s with cur := none } : State).take r tUniformViolation)) ∧
  (∀ o s r iw t g, AtIssue s r iw t g → (retPlan o).Clear (issueOf (.ret o) (retPlan o) s r iw t g) → g.converged = false →
    exec (.ret o) s = .next (({ s with cur := none } : State).take r tUniformViolation)) ∧
  (∀ (o : Jmp) s r iw t g, AtIssue s r iw t g → o.h.sp = none → 16 ≤ g.ret.length → exec (.call o) s = .next (({ s with cur := none } : State).take r tIllegalOperand)) ∧
  (∀ (o : Jind) s r iw t g, AtIssue s r iw t g → o.h.sp = none → g.ret = [] →
    exec (.ret o) s = .next (({ s with cur := none } : State).take r tIllegalOperand))

/-- YIELD rotates its group: its latches are cleared, and the waiting threads at the lowest PC above the old one, or else at the
lowest, become current. A latch read that follows is LATCH_INVALID (R300). -/
def Obligations.YieldRotates : Prop :=
  (∀ o s r iw t g, AtIssue s r iw t g → let x := issueOf (.yield o) (yieldPlan o) s r iw t g
    (yieldPlan o).Clear x → x.FlowsOn → exec (.yield o) s = .next x.yields ∧
    (o.h.sp = none → x.turned = false → x.yields = (x.seq x.s).updGroup r (·.yielded false))) ∧
  (∀ (g : Group) b, (g.yielded b).x = [] ∧ (g.yielded b).y = [] ∧ (g.mode = .ready → g.loopDue = false → b = false → g.yielded b = g.rotate)) ∧
  (∀ g : Group, g.waiting ≠ [] → g.rotate.pc = nextPc g.pc g.waiting ∧
    ∀ y ∈ g.rotate.threads, y.mode = .active → y.pc = nextPc g.pc g.waiting) ∧
  (∀ (old : Nat) (ws : List Thread), ws ≠ [] → (∃ t ∈ ws, nextPc old ws = t.pc) ∧
    ((∃ t ∈ ws, old < t.pc) → old < nextPc old ws ∧ ∀ t ∈ ws, old < t.pc → nextPc old ws ≤ t.pc) ∧
    ((∀ t ∈ ws, t.pc ≤ old) → ∀ t ∈ ws, nextPc old ws ≤ t.pc)) ∧
  (∀ (p : Plan) (x : Issue) n k, x.grp.x = [] → x.grp.y = [] → (Src.latch n, k) ∈ p.srcs → p.illegal x = false → maskIllegal x.team.k p.h = false →
    p.srcs.any (srcIllegal p.u x.team.k) = false → p.dsts.any (dstIllegal p.u x.team.k) = false → p.operand x = false → p.role x.grp.role = true →
    x.pending ((p.readable x).map (·.src)) = none → (p.readable x).any (·.illegal x) = false → (p.readable x).any (·.operand x) = false →
    p.check x = some (.trap tLatchInvalid))

/-- CTIME writes the group's completion horizon into its pair, pushes its two words and waits for nothing (R157). -/
def Obligations.CtimeReadsTheHorizon : Prop :=
  (∀ o s r iw t g, AtIssue s r iw t g → let x := issueOf (.ctime o) (ctimePlan o) s r iw t g
    (ctimePlan o).Clear x → x.FlowsOn →
    exec (.ctime o) s = .next (x.seq (x.s.updGroup r fun h => h.writeU o.w x.selected o.d.toNat 2
      [BitVec.ofNat 32 g.horizon, BitVec.ofNat 32 (g.horizon / 2 ^ 32)]))) ∧
  (∀ (g : Group) d a b, ∃ lo hi, (g.writeU false true d 2 [a, b]).y = pushLatch (pushLatch g.y lo) hi ∧ lo.lane 0 = a ∧ hi.lane 0 = b ∧
    (g.writeU false true d 2 [a, b]).sreg d = a ∧ (g.writeU false true d 2 [a, b]).sreg (d + 1) = b) ∧
  (∀ (o : Alu) k, o.w = false → o.d.toNat % 2 = 1 → (ctimePlan o).dsts.any (dstIllegal true k) = true) ∧
  decode [0xB0040000] = .ok (.ctime { h := {}, d := 4 }) ∧
  (BitVec.ofNat 32 1000000750 = 0x3B9ACCEE ∧ BitVec.ofNat 32 (1000000750 / 2 ^ 32) = 0)

/-- A counter saturates at 2^48 - 1 and no other moves; a threshold that is reached is due once (R264, R268). -/
def Obligations.CountersSaturate : Prop :=
  ∀ (s : State) (slot : Nat) (l : Launch) (n k : Nat), s.launches.find? slot = some l →
    (hasCounter n = false → s.addCount slot n k = s) ∧
    (hasCounter n = true → ∃ m, (s.addCount slot n k).launches.find? slot = some m ∧
      m.counters.get 0 n = min (2 ^ 48 - 1) (l.counters.get 0 n + k) ∧ (∀ j, j ≠ n → m.counters.get 0 j = l.counters.get 0 j) ∧
      (l.thresholds.get 0 n ≠ 0 → l.thresholds.get 0 n ≤ m.counters.get 0 n → n ∈ m.fired) ∧
      (n ∈ l.fired → (s.addCount slot n k).io.irqs.count (slot, n) = s.io.irqs.count (slot, n)) ∧
      (n ∉ l.fired → l.thresholds.get 0 n ≠ 0 → l.thresholds.get 0 n ≤ m.counters.get 0 n →
        (s.addCount slot n k).io.irqs.count (slot, n) = s.io.irqs.count (slot, n) + 1))

/-- The completion of a team barrier: its next generation opens with nobody arrived, every group that waited on it runs or is saved,
and no other wait ends (R371). -/
def Obligations.BarrierCompletes : Prop :=
  ∀ (s : State) (id : Nat) (t : Team) (b : Nat), s.teams.find? id = some t → ∃ t', (s.passBar id b).teams.find? id = some t' ∧
    t'.bar b = { gen := ((t.bar b).gen + 1) % 256, count := 0, arrived := [], first := (t.bar b).first } ∧
    (∀ c, c ≠ b → t'.bar c = t.bar c) ∧
    ∀ k g, t.groups.find? k = some g → ∃ g', t'.groups.find? k = some g' ∧ g'.outB.get none b ≠ some (t.bar b).gen ∧
      (g.wait = .bar b (t.bar b).gen → g'.wait = .none ∧ (g'.mode = .ready ∨ g'.mode = .saving)) ∧
      (g.wait ≠ .bar b (t.bar b).gen → g.wait ≠ .barNext b (t.bar b).gen → g'.wait = g.wait ∧ g'.mode = g.mode)

/-- The semaphore has one holder or none: a claim takes it where it is free, and a release by another does nothing; MS_LEASE
takes no value below 512; and every reply carries its request's type with bit 15 set, its seq and its tag (R79, R446, R452). -/
def Obligations.HostRequestsAnswered : Prop :=
  (∀ (u : State) r, u.io.sem = none → (u.onSemClaim r).io.sem = some r.ep) ∧
  (∀ (u : State) r h, u.io.sem = some h → (u.onSemClaim r).io.sem = some h) ∧
  (∀ (u : State) r, u.io.sem = some r.ep → (u.onSemRelease r).io.sem = none) ∧
  (∀ (u : State) r h, u.io.sem = some h → h ≠ r.ep → (u.onSemRelease r).io.sem = some h) ∧
  (∀ (u : State) (r : Req) h, r.ep ≠ 0 → u.io.sem = some h → ∃ m, (u.onSemClaim r).out = u.out ++ [m] ∧ m.body = [BitVec.ofNat 64 h] ∧ m.status = 0) ∧
  (∀ (unit : Nat) (v : W64) (s : State) (r : Req), v.toNat < 512 → ∀ h, ((State.configured s r (leaseRefused unit v) fun u => u.onMsConfigLease unit v).home h).lease = (s.home h).lease) ∧
  (∀ (s : State) (r : Req) type status body after, r.ep ≠ 0 → ∃ m, (s.reply r type status body after).out = s.out ++ [m] ∧ m.ep = r.ep ∧
    m.type = type ||| 0x8000 ∧ m.seq = r.seq ∧ m.tag = r.tag ∧ m.status = status ∧ m.body = body)

/-! ## Whole-machine statements -/

/-- Decoding the words of a well-formed program instruction gives the instruction back, every operand at every value. -/
def Obligations.EncodingRoundTrips : Prop := ∀ i : Instr, i.wf = true → encode i ≠ [] → decode (encode i) = .ok i

/-- Every instruction that the decoder answers is well-formed, and its words are the first of those that were decoded. -/
def Obligations.DecodedWordsEncodeBack : Prop :=
  ∀ ws i, decode ws = .ok i → i.wf = true ∧ encode i ≠ [] ∧ ∃ rest, ws = encode i ++ rest

/-- No step of any state ends in a fault or a refusal: no program and no host stops the machine. -/
def Obligations.EveryStepGoesOn : Prop := ∀ s : State, Safe s

/-- Every step keeps memory in its canonical form. -/
def Obligations.MemoryStaysCanonical : Prop := ∀ s t : State, s.MemoryCanonical → step s = .next t → t.MemoryCanonical
end

