-- ==== Sys2Proof/Laws/Sparse.lean ====
section
/-! SUPPORT. Lookup laws of the sparse containers and the laws of memory: read after write, and every write keeps the
canonical form. -/
namespace Sys2Proof
variable {α : Type}

@[simp] theorem Sp.find?_nil (i : Nat) : Sp.find? ([] : Sp α) i = none := rfl

theorem Sp.find?_put (m : Sp α) (i j : Nat) (v : α) :
    (m.put i v).find? j = if i = j then some v else m.find? j := by
  induction m with
  | nil => simp [Sp.put, Sp.find?]
  | cons p r ih =>
    obtain ⟨k, w⟩ := p
    unfold Sp.put
    split
    · rename_i hik
      subst hik
      by_cases hj : i = j <;> simp [Sp.find?, hj]
    · rename_i hik
      split
      · by_cases hj : i = j <;> simp [Sp.find?, hj]
      · by_cases hkj : k = j
        · have hij : ¬ i = j := by omega
          simp [Sp.find?, hkj, hij]
        · simp [Sp.find?, hkj, ih]

@[simp] theorem Sp.find?_put_self (m : Sp α) (i : Nat) (v : α) : (m.put i v).find? i = some v := by
  simp [Sp.find?_put]

theorem Sp.find?_put_ne (m : Sp α) {i j : Nat} (v : α) (h : i ≠ j) : (m.put i v).find? j = m.find? j := by
  simp [Sp.find?_put, h]

theorem Sp.find?_erase (m : Sp α) (i j : Nat) :
    (m.erase i).find? j = if i = j then none else m.find? j := by
  induction m with
  | nil => simp [Sp.erase, Sp.find?]
  | cons p r ih =>
    obtain ⟨k, w⟩ := p
    by_cases hk : k = i
    · subst hk
      by_cases hj : k = j
      · subst hj
        simpa [Sp.erase] using ih
      · simp [Sp.erase, Sp.find?, ih, hj]
    · by_cases hkj : k = j
      · subst hkj
        simp [Sp.erase, Sp.find?, hk, Ne.symm hk]
      · simp [Sp.erase, Sp.find?, hk, hkj, ih]

theorem Sp.get_put (d : α) (m : Sp α) (i j : Nat) (v : α) :
    (m.put i v).get d j = if i = j then v else m.get d j := by
  unfold Sp.get
  rw [Sp.find?_put]
  split <;> rfl

@[simp] theorem Sp.get_put_self (d : α) (m : Sp α) (i : Nat) (v : α) : (m.put i v).get d i = v := by
  simp [Sp.get_put]

theorem Sp.get_erase (d : α) (m : Sp α) (i j : Nat) :
    (m.erase i).get d j = if i = j then d else m.get d j := by
  unfold Sp.get
  rw [Sp.find?_erase]
  split <;> rfl

theorem Sp.get_set [DecidableEq α] (d : α) (m : Sp α) (i j : Nat) (v : α) :
    (m.set d i v).get d j = if i = j then v else m.get d j := by
  unfold Sp.set
  by_cases h : v = d
  · rw [if_pos h, Sp.get_erase, h]
  · rw [if_neg h, Sp.get_put]

@[simp] theorem Sp.get_set_self [DecidableEq α] (d : α) (m : Sp α) (i : Nat) (v : α) : (m.set d i v).get d i = v := by
  simp [Sp.get_set]

theorem Sp.find?_adjust (m : Sp α) (i j : Nat) (f : α → α) :
    (m.adjust i f).find? j = if i = j then (m.find? j).map f else m.find? j := by
  unfold Sp.adjust
  by_cases h : i = j
  · subst h
    cases hm : m.find? i <;> simp [hm]
  · cases hm : m.find? i <;> simp [Sp.find?_put, h]

@[simp] theorem Sp.find?_adjust_self (m : Sp α) (i : Nat) (f : α → α) : (m.adjust i f).find? i = (m.find? i).map f := by
  simp [Sp.find?_adjust]

/-! ## Rising keys -/

theorem Sp.rising_mono (m : Sp α) {lo hi : Nat} (h : lo ≤ hi) (hm : m.risingFrom hi = true) : m.risingFrom lo = true := by
  cases m with
  | nil => rfl
  | cons p r =>
    obtain ⟨k, v⟩ := p
    simp only [Sp.risingFrom, Bool.and_eq_true, decide_eq_true_eq] at hm ⊢
    exact ⟨by omega, hm.2⟩

theorem Sp.rising_put (m : Sp α) (lo i : Nat) (v : α) (h : lo ≤ i) (hm : m.risingFrom lo = true) :
    (m.put i v).risingFrom lo = true := by
  induction m generalizing lo with
  | nil => simp [Sp.put, Sp.risingFrom, h]
  | cons p r ih =>
    obtain ⟨k, w⟩ := p
    simp only [Sp.risingFrom, Bool.and_eq_true, decide_eq_true_eq] at hm
    unfold Sp.put
    split
    · rename_i hik
      subst hik
      simp [Sp.risingFrom, h, hm.2]
    · split
      · rename_i _ hlt
        simp only [Sp.risingFrom, Bool.and_eq_true, decide_eq_true_eq]
        exact ⟨h, by omega, hm.2⟩
      · simp only [Sp.risingFrom, Bool.and_eq_true, decide_eq_true_eq]
        exact ⟨hm.1, ih (k + 1) (by omega) hm.2⟩

theorem Sp.rising_erase (m : Sp α) (lo i : Nat) (hm : m.risingFrom lo = true) : (m.erase i).risingFrom lo = true := by
  induction m generalizing lo with
  | nil => rfl
  | cons p r ih =>
    obtain ⟨k, w⟩ := p
    simp only [Sp.risingFrom, Bool.and_eq_true, decide_eq_true_eq] at hm
    unfold Sp.erase
    split
    · exact ih lo (Sp.rising_mono r (by omega) hm.2)
    · simp only [Sp.risingFrom, Bool.and_eq_true, decide_eq_true_eq]
      exact ⟨hm.1, ih (k + 1) hm.2⟩

theorem Sp.mem_put (m : Sp α) (i : Nat) (v : α) (p : Nat × α) (h : p ∈ m.put i v) : p = (i, v) ∨ p ∈ m := by
  induction m with
  | nil => simp_all [Sp.put]
  | cons q r ih =>
    obtain ⟨k, w⟩ := q
    unfold Sp.put at h
    split at h
    · rcases List.mem_cons.1 h with h | h
      · exact .inl h
      · exact .inr (List.mem_cons_of_mem _ h)
    · split at h
      · rcases List.mem_cons.1 h with h | h
        · exact .inl h
        · exact .inr h
      · rcases List.mem_cons.1 h with h | h
        · exact .inr (h ▸ List.mem_cons_self)
        · rcases ih h with h | h
          · exact .inl h
          · exact .inr (List.mem_cons_of_mem _ h)

theorem Sp.mem_erase (m : Sp α) (i : Nat) (p : Nat × α) (h : p ∈ m.erase i) : p ∈ m := by
  induction m with
  | nil => exact h
  | cons q r ih =>
    obtain ⟨k, w⟩ := q
    unfold Sp.erase at h
    split at h
    · exact List.mem_cons_of_mem _ (ih h)
    · rcases List.mem_cons.1 h with h | h
      · exact h ▸ List.mem_cons_self
      · exact List.mem_cons_of_mem _ (ih h)

/-! ## Memory -/

namespace Machine

theorem readByte_writeByte (m : List Host.Cell) (a b : Nat) (v : Byte) :
    readByte (writeByte m a v) b = if a = b then v else readByte m b := Sp.get_set _ _ _ _ _

theorem Memory.wf_writeByte (m : List Host.Cell) (a : Nat) (v : Byte) (h : Memory.wf m = true) :
    Memory.wf (writeByte m a v) = true := by
  simp only [Memory.wf, Bool.and_eq_true, List.all_eq_true] at h ⊢
  unfold writeByte Sp.set
  split
  · exact ⟨Sp.rising_erase m 0 a h.1, fun c hc => h.2 c (Sp.mem_erase m a c hc)⟩
  · rename_i hv
    refine ⟨Sp.rising_put m 0 a v (Nat.zero_le a) h.1, fun c hc => ?_⟩
    rcases Sp.mem_put m a v c hc with hc | hc
    · subst hc
      simpa [unlistedByte] using hv
    · exact h.2 c hc

theorem Memory.wf_writeBytes (bs : List Byte) : ∀ (m : List Host.Cell) (a : Nat), Memory.wf m = true →
    Memory.wf (writeBytes m a bs) = true := by
  induction bs with
  | nil => exact fun _ _ h => h
  | cons b r ih => exact fun m a h => ih _ _ (Memory.wf_writeByte m a b h)

/-- A byte outside a write reads as before. -/
theorem readByte_writeBytes_of_out (bs : List Byte) : ∀ (m : List Host.Cell) (a b : Nat), (b < a ∨ a + bs.length ≤ b) →
    readByte (writeBytes m a bs) b = readByte m b := by
  induction bs with
  | nil => exact fun _ _ _ _ => rfl
  | cons c r ih =>
    intro m a b h
    simp only [List.length_cons] at h
    rw [writeBytes, ih _ _ _ (by omega), readByte_writeByte, if_neg (by omega)]

/-- A write's own bytes read back. -/
theorem readBytes_writeBytes (bs : List Byte) : ∀ (m : List Host.Cell) (a : Nat),
    readBytes (writeBytes m a bs) a bs.length = bs := by
  induction bs with
  | nil => exact fun _ _ => rfl
  | cons c r ih =>
    intro m a
    simp only [List.length_cons, readBytes, writeBytes]
    rw [ih, readByte_writeBytes_of_out r _ _ _ (by omega), readByte_writeByte, if_pos rfl]

end Machine
/-! ## Lists without repetition -/

/-- Each member of a list is once in the list without repetitions. -/
theorem eraseDups_count {α : Type} [BEq α] [LawfulBEq α] (l : List α) (a : α) : l.eraseDups.count a = if a ∈ l then 1 else 0 := by
  match l with
  | [] => simp
  | b :: r =>
    rw [List.eraseDups_cons, List.count_cons, eraseDups_count (r.filter fun c => !c == b) a]
    by_cases h : a = b
    · simp [h]
    · simp [h, Ne.symm h]
termination_by l.length
decreasing_by exact Nat.lt_succ_of_le (List.length_filter_le _ r)

end Sys2Proof
end

