-- ==== Sys2Proof/Laws/State.lean ====
section
/-! SUPPORT. Every named update of the state leaves every other field as it is, and a field it writes reads back: one
lemma per field and update. -/
namespace Sys2Proof.Machine
open Sys2Proof

/-! ## setCore -/

section
variable (s : State) (c : Nat) (x : Core)

@[simp] theorem State.setCore_time : (s.setCore c x).time = s.time := rfl
@[simp] theorem State.setCore_turns : (s.setCore c x).turns = s.turns := rfl
@[simp] theorem State.setCore_cur : (s.setCore c x).cur = s.cur := rfl
@[simp] theorem State.setCore_fresh : (s.setCore c x).fresh = s.fresh := rfl
@[simp] theorem State.setCore_next : (s.setCore c x).next = s.next := rfl
@[simp] theorem State.setCore_mem : (s.setCore c x).mem = s.mem := rfl
@[simp] theorem State.setCore_peerAbsent : (s.setCore c x).peerAbsent = s.peerAbsent := rfl
@[simp] theorem State.setCore_badFrames : (s.setCore c x).badFrames = s.badFrames := rfl
@[simp] theorem State.setCore_deadSlots : (s.setCore c x).deadSlots = s.deadSlots := rfl
@[simp] theorem State.setCore_draws : (s.setCore c x).draws = s.draws := rfl
@[simp] theorem State.setCore_extPoison : (s.setCore c x).extPoison = s.extPoison := rfl
@[simp] theorem State.setCore_ext : (s.setCore c x).ext = s.ext := rfl
@[simp] theorem State.setCore_columns : (s.setCore c x).columns = s.columns := rfl
@[simp] theorem State.setCore_clusters : (s.setCore c x).clusters = s.clusters := rfl
@[simp] theorem State.setCore_dies : (s.setCore c x).dies = s.dies := rfl
@[simp] theorem State.setCore_homes : (s.setCore c x).homes = s.homes := rfl
@[simp] theorem State.setCore_io : (s.setCore c x).io = s.io := rfl
@[simp] theorem State.setCore_stages : (s.setCore c x).stages = s.stages := rfl
@[simp] theorem State.setCore_held : (s.setCore c x).held = s.held := rfl
@[simp] theorem State.setCore_memOps : (s.setCore c x).memOps = s.memOps := rfl
@[simp] theorem State.setCore_contexts : (s.setCore c x).contexts = s.contexts := rfl
@[simp] theorem State.setCore_launches : (s.setCore c x).launches = s.launches := rfl
@[simp] theorem State.setCore_graphs : (s.setCore c x).graphs = s.graphs := rfl
@[simp] theorem State.setCore_gangs : (s.setCore c x).gangs = s.gangs := rfl
@[simp] theorem State.setCore_teams : (s.setCore c x).teams = s.teams := rfl
@[simp] theorem State.setCore_saved : (s.setCore c x).saved = s.saved := rfl
@[simp] theorem State.setCore_intervals : (s.setCore c x).intervals = s.intervals := rfl
@[simp] theorem State.setCore_ops : (s.setCore c x).ops = s.ops := rfl
@[simp] theorem State.setCore_out : (s.setCore c x).out = s.out := rfl
@[simp] theorem State.setCore_net : (s.setCore c x).net = s.net := rfl
end

/-! ## setColumn -/

section
variable (s : State) (c : Nat) (x : Column)

@[simp] theorem State.setColumn_time : (s.setColumn c x).time = s.time := rfl
@[simp] theorem State.setColumn_turns : (s.setColumn c x).turns = s.turns := rfl
@[simp] theorem State.setColumn_cur : (s.setColumn c x).cur = s.cur := rfl
@[simp] theorem State.setColumn_fresh : (s.setColumn c x).fresh = s.fresh := rfl
@[simp] theorem State.setColumn_next : (s.setColumn c x).next = s.next := rfl
@[simp] theorem State.setColumn_mem : (s.setColumn c x).mem = s.mem := rfl
@[simp] theorem State.setColumn_peerAbsent : (s.setColumn c x).peerAbsent = s.peerAbsent := rfl
@[simp] theorem State.setColumn_badFrames : (s.setColumn c x).badFrames = s.badFrames := rfl
@[simp] theorem State.setColumn_deadSlots : (s.setColumn c x).deadSlots = s.deadSlots := rfl
@[simp] theorem State.setColumn_draws : (s.setColumn c x).draws = s.draws := rfl
@[simp] theorem State.setColumn_extPoison : (s.setColumn c x).extPoison = s.extPoison := rfl
@[simp] theorem State.setColumn_ext : (s.setColumn c x).ext = s.ext := rfl
@[simp] theorem State.setColumn_cores : (s.setColumn c x).cores = s.cores := rfl
@[simp] theorem State.setColumn_clusters : (s.setColumn c x).clusters = s.clusters := rfl
@[simp] theorem State.setColumn_dies : (s.setColumn c x).dies = s.dies := rfl
@[simp] theorem State.setColumn_homes : (s.setColumn c x).homes = s.homes := rfl
@[simp] theorem State.setColumn_io : (s.setColumn c x).io = s.io := rfl
@[simp] theorem State.setColumn_stages : (s.setColumn c x).stages = s.stages := rfl
@[simp] theorem State.setColumn_held : (s.setColumn c x).held = s.held := rfl
@[simp] theorem State.setColumn_memOps : (s.setColumn c x).memOps = s.memOps := rfl
@[simp] theorem State.setColumn_contexts : (s.setColumn c x).contexts = s.contexts := rfl
@[simp] theorem State.setColumn_launches : (s.setColumn c x).launches = s.launches := rfl
@[simp] theorem State.setColumn_graphs : (s.setColumn c x).graphs = s.graphs := rfl
@[simp] theorem State.setColumn_gangs : (s.setColumn c x).gangs = s.gangs := rfl
@[simp] theorem State.setColumn_teams : (s.setColumn c x).teams = s.teams := rfl
@[simp] theorem State.setColumn_saved : (s.setColumn c x).saved = s.saved := rfl
@[simp] theorem State.setColumn_intervals : (s.setColumn c x).intervals = s.intervals := rfl
@[simp] theorem State.setColumn_ops : (s.setColumn c x).ops = s.ops := rfl
@[simp] theorem State.setColumn_out : (s.setColumn c x).out = s.out := rfl
@[simp] theorem State.setColumn_net : (s.setColumn c x).net = s.net := rfl
end

/-! ## setCluster -/

section
variable (s : State) (c : Nat) (x : Cluster)

@[simp] theorem State.setCluster_time : (s.setCluster c x).time = s.time := rfl
@[simp] theorem State.setCluster_turns : (s.setCluster c x).turns = s.turns := rfl
@[simp] theorem State.setCluster_cur : (s.setCluster c x).cur = s.cur := rfl
@[simp] theorem State.setCluster_fresh : (s.setCluster c x).fresh = s.fresh := rfl
@[simp] theorem State.setCluster_next : (s.setCluster c x).next = s.next := rfl
@[simp] theorem State.setCluster_mem : (s.setCluster c x).mem = s.mem := rfl
@[simp] theorem State.setCluster_peerAbsent : (s.setCluster c x).peerAbsent = s.peerAbsent := rfl
@[simp] theorem State.setCluster_badFrames : (s.setCluster c x).badFrames = s.badFrames := rfl
@[simp] theorem State.setCluster_deadSlots : (s.setCluster c x).deadSlots = s.deadSlots := rfl
@[simp] theorem State.setCluster_draws : (s.setCluster c x).draws = s.draws := rfl
@[simp] theorem State.setCluster_extPoison : (s.setCluster c x).extPoison = s.extPoison := rfl
@[simp] theorem State.setCluster_ext : (s.setCluster c x).ext = s.ext := rfl
@[simp] theorem State.setCluster_cores : (s.setCluster c x).cores = s.cores := rfl
@[simp] theorem State.setCluster_columns : (s.setCluster c x).columns = s.columns := rfl
@[simp] theorem State.setCluster_dies : (s.setCluster c x).dies = s.dies := rfl
@[simp] theorem State.setCluster_homes : (s.setCluster c x).homes = s.homes := rfl
@[simp] theorem State.setCluster_io : (s.setCluster c x).io = s.io := rfl
@[simp] theorem State.setCluster_stages : (s.setCluster c x).stages = s.stages := rfl
@[simp] theorem State.setCluster_held : (s.setCluster c x).held = s.held := rfl
@[simp] theorem State.setCluster_memOps : (s.setCluster c x).memOps = s.memOps := rfl
@[simp] theorem State.setCluster_contexts : (s.setCluster c x).contexts = s.contexts := rfl
@[simp] theorem State.setCluster_launches : (s.setCluster c x).launches = s.launches := rfl
@[simp] theorem State.setCluster_graphs : (s.setCluster c x).graphs = s.graphs := rfl
@[simp] theorem State.setCluster_gangs : (s.setCluster c x).gangs = s.gangs := rfl
@[simp] theorem State.setCluster_teams : (s.setCluster c x).teams = s.teams := rfl
@[simp] theorem State.setCluster_saved : (s.setCluster c x).saved = s.saved := rfl
@[simp] theorem State.setCluster_intervals : (s.setCluster c x).intervals = s.intervals := rfl
@[simp] theorem State.setCluster_ops : (s.setCluster c x).ops = s.ops := rfl
@[simp] theorem State.setCluster_out : (s.setCluster c x).out = s.out := rfl
@[simp] theorem State.setCluster_net : (s.setCluster c x).net = s.net := rfl
end

/-! ## setDie -/

section
variable (s : State) (d : Nat) (x : Die)

@[simp] theorem State.setDie_time : (s.setDie d x).time = s.time := rfl
@[simp] theorem State.setDie_turns : (s.setDie d x).turns = s.turns := rfl
@[simp] theorem State.setDie_cur : (s.setDie d x).cur = s.cur := rfl
@[simp] theorem State.setDie_fresh : (s.setDie d x).fresh = s.fresh := rfl
@[simp] theorem State.setDie_next : (s.setDie d x).next = s.next := rfl
@[simp] theorem State.setDie_mem : (s.setDie d x).mem = s.mem := rfl
@[simp] theorem State.setDie_peerAbsent : (s.setDie d x).peerAbsent = s.peerAbsent := rfl
@[simp] theorem State.setDie_badFrames : (s.setDie d x).badFrames = s.badFrames := rfl
@[simp] theorem State.setDie_deadSlots : (s.setDie d x).deadSlots = s.deadSlots := rfl
@[simp] theorem State.setDie_draws : (s.setDie d x).draws = s.draws := rfl
@[simp] theorem State.setDie_extPoison : (s.setDie d x).extPoison = s.extPoison := rfl
@[simp] theorem State.setDie_ext : (s.setDie d x).ext = s.ext := rfl
@[simp] theorem State.setDie_cores : (s.setDie d x).cores = s.cores := rfl
@[simp] theorem State.setDie_columns : (s.setDie d x).columns = s.columns := rfl
@[simp] theorem State.setDie_clusters : (s.setDie d x).clusters = s.clusters := rfl
@[simp] theorem State.setDie_homes : (s.setDie d x).homes = s.homes := rfl
@[simp] theorem State.setDie_io : (s.setDie d x).io = s.io := rfl
@[simp] theorem State.setDie_stages : (s.setDie d x).stages = s.stages := rfl
@[simp] theorem State.setDie_held : (s.setDie d x).held = s.held := rfl
@[simp] theorem State.setDie_memOps : (s.setDie d x).memOps = s.memOps := rfl
@[simp] theorem State.setDie_contexts : (s.setDie d x).contexts = s.contexts := rfl
@[simp] theorem State.setDie_launches : (s.setDie d x).launches = s.launches := rfl
@[simp] theorem State.setDie_graphs : (s.setDie d x).graphs = s.graphs := rfl
@[simp] theorem State.setDie_gangs : (s.setDie d x).gangs = s.gangs := rfl
@[simp] theorem State.setDie_teams : (s.setDie d x).teams = s.teams := rfl
@[simp] theorem State.setDie_saved : (s.setDie d x).saved = s.saved := rfl
@[simp] theorem State.setDie_intervals : (s.setDie d x).intervals = s.intervals := rfl
@[simp] theorem State.setDie_ops : (s.setDie d x).ops = s.ops := rfl
@[simp] theorem State.setDie_out : (s.setDie d x).out = s.out := rfl
@[simp] theorem State.setDie_net : (s.setDie d x).net = s.net := rfl
end

/-! ## setHome -/

section
variable (s : State) (h : Nat) (x : Home)

@[simp] theorem State.setHome_time : (s.setHome h x).time = s.time := rfl
@[simp] theorem State.setHome_turns : (s.setHome h x).turns = s.turns := rfl
@[simp] theorem State.setHome_cur : (s.setHome h x).cur = s.cur := rfl
@[simp] theorem State.setHome_fresh : (s.setHome h x).fresh = s.fresh := rfl
@[simp] theorem State.setHome_next : (s.setHome h x).next = s.next := rfl
@[simp] theorem State.setHome_mem : (s.setHome h x).mem = s.mem := rfl
@[simp] theorem State.setHome_peerAbsent : (s.setHome h x).peerAbsent = s.peerAbsent := rfl
@[simp] theorem State.setHome_badFrames : (s.setHome h x).badFrames = s.badFrames := rfl
@[simp] theorem State.setHome_deadSlots : (s.setHome h x).deadSlots = s.deadSlots := rfl
@[simp] theorem State.setHome_draws : (s.setHome h x).draws = s.draws := rfl
@[simp] theorem State.setHome_extPoison : (s.setHome h x).extPoison = s.extPoison := rfl
@[simp] theorem State.setHome_ext : (s.setHome h x).ext = s.ext := rfl
@[simp] theorem State.setHome_cores : (s.setHome h x).cores = s.cores := rfl
@[simp] theorem State.setHome_columns : (s.setHome h x).columns = s.columns := rfl
@[simp] theorem State.setHome_clusters : (s.setHome h x).clusters = s.clusters := rfl
@[simp] theorem State.setHome_dies : (s.setHome h x).dies = s.dies := rfl
@[simp] theorem State.setHome_io : (s.setHome h x).io = s.io := rfl
@[simp] theorem State.setHome_stages : (s.setHome h x).stages = s.stages := rfl
@[simp] theorem State.setHome_held : (s.setHome h x).held = s.held := rfl
@[simp] theorem State.setHome_memOps : (s.setHome h x).memOps = s.memOps := rfl
@[simp] theorem State.setHome_contexts : (s.setHome h x).contexts = s.contexts := rfl
@[simp] theorem State.setHome_launches : (s.setHome h x).launches = s.launches := rfl
@[simp] theorem State.setHome_graphs : (s.setHome h x).graphs = s.graphs := rfl
@[simp] theorem State.setHome_gangs : (s.setHome h x).gangs = s.gangs := rfl
@[simp] theorem State.setHome_teams : (s.setHome h x).teams = s.teams := rfl
@[simp] theorem State.setHome_saved : (s.setHome h x).saved = s.saved := rfl
@[simp] theorem State.setHome_intervals : (s.setHome h x).intervals = s.intervals := rfl
@[simp] theorem State.setHome_ops : (s.setHome h x).ops = s.ops := rfl
@[simp] theorem State.setHome_out : (s.setHome h x).out = s.out := rfl
@[simp] theorem State.setHome_net : (s.setHome h x).net = s.net := rfl
end

/-! ## setCtx -/

section
variable (s : State) (c : Nat) (x : Context)

@[simp] theorem State.setCtx_time : (s.setCtx c x).time = s.time := rfl
@[simp] theorem State.setCtx_turns : (s.setCtx c x).turns = s.turns := rfl
@[simp] theorem State.setCtx_cur : (s.setCtx c x).cur = s.cur := rfl
@[simp] theorem State.setCtx_fresh : (s.setCtx c x).fresh = s.fresh := rfl
@[simp] theorem State.setCtx_next : (s.setCtx c x).next = s.next := rfl
@[simp] theorem State.setCtx_mem : (s.setCtx c x).mem = s.mem := rfl
@[simp] theorem State.setCtx_peerAbsent : (s.setCtx c x).peerAbsent = s.peerAbsent := rfl
@[simp] theorem State.setCtx_badFrames : (s.setCtx c x).badFrames = s.badFrames := rfl
@[simp] theorem State.setCtx_deadSlots : (s.setCtx c x).deadSlots = s.deadSlots := rfl
@[simp] theorem State.setCtx_draws : (s.setCtx c x).draws = s.draws := rfl
@[simp] theorem State.setCtx_extPoison : (s.setCtx c x).extPoison = s.extPoison := rfl
@[simp] theorem State.setCtx_ext : (s.setCtx c x).ext = s.ext := rfl
@[simp] theorem State.setCtx_cores : (s.setCtx c x).cores = s.cores := rfl
@[simp] theorem State.setCtx_columns : (s.setCtx c x).columns = s.columns := rfl
@[simp] theorem State.setCtx_clusters : (s.setCtx c x).clusters = s.clusters := rfl
@[simp] theorem State.setCtx_dies : (s.setCtx c x).dies = s.dies := rfl
@[simp] theorem State.setCtx_homes : (s.setCtx c x).homes = s.homes := rfl
@[simp] theorem State.setCtx_io : (s.setCtx c x).io = s.io := rfl
@[simp] theorem State.setCtx_stages : (s.setCtx c x).stages = s.stages := rfl
@[simp] theorem State.setCtx_held : (s.setCtx c x).held = s.held := rfl
@[simp] theorem State.setCtx_memOps : (s.setCtx c x).memOps = s.memOps := rfl
@[simp] theorem State.setCtx_launches : (s.setCtx c x).launches = s.launches := rfl
@[simp] theorem State.setCtx_graphs : (s.setCtx c x).graphs = s.graphs := rfl
@[simp] theorem State.setCtx_gangs : (s.setCtx c x).gangs = s.gangs := rfl
@[simp] theorem State.setCtx_teams : (s.setCtx c x).teams = s.teams := rfl
@[simp] theorem State.setCtx_saved : (s.setCtx c x).saved = s.saved := rfl
@[simp] theorem State.setCtx_intervals : (s.setCtx c x).intervals = s.intervals := rfl
@[simp] theorem State.setCtx_ops : (s.setCtx c x).ops = s.ops := rfl
@[simp] theorem State.setCtx_out : (s.setCtx c x).out = s.out := rfl
@[simp] theorem State.setCtx_net : (s.setCtx c x).net = s.net := rfl
end

/-! ## setTeam -/

section
variable (s : State) (i : Nat) (x : Team)

@[simp] theorem State.setTeam_time : (s.setTeam i x).time = s.time := rfl
@[simp] theorem State.setTeam_turns : (s.setTeam i x).turns = s.turns := rfl
@[simp] theorem State.setTeam_cur : (s.setTeam i x).cur = s.cur := rfl
@[simp] theorem State.setTeam_fresh : (s.setTeam i x).fresh = s.fresh := rfl
@[simp] theorem State.setTeam_next : (s.setTeam i x).next = s.next := rfl
@[simp] theorem State.setTeam_mem : (s.setTeam i x).mem = s.mem := rfl
@[simp] theorem State.setTeam_peerAbsent : (s.setTeam i x).peerAbsent = s.peerAbsent := rfl
@[simp] theorem State.setTeam_badFrames : (s.setTeam i x).badFrames = s.badFrames := rfl
@[simp] theorem State.setTeam_deadSlots : (s.setTeam i x).deadSlots = s.deadSlots := rfl
@[simp] theorem State.setTeam_draws : (s.setTeam i x).draws = s.draws := rfl
@[simp] theorem State.setTeam_extPoison : (s.setTeam i x).extPoison = s.extPoison := rfl
@[simp] theorem State.setTeam_ext : (s.setTeam i x).ext = s.ext := rfl
@[simp] theorem State.setTeam_cores : (s.setTeam i x).cores = s.cores := rfl
@[simp] theorem State.setTeam_columns : (s.setTeam i x).columns = s.columns := rfl
@[simp] theorem State.setTeam_clusters : (s.setTeam i x).clusters = s.clusters := rfl
@[simp] theorem State.setTeam_dies : (s.setTeam i x).dies = s.dies := rfl
@[simp] theorem State.setTeam_homes : (s.setTeam i x).homes = s.homes := rfl
@[simp] theorem State.setTeam_io : (s.setTeam i x).io = s.io := rfl
@[simp] theorem State.setTeam_stages : (s.setTeam i x).stages = s.stages := rfl
@[simp] theorem State.setTeam_held : (s.setTeam i x).held = s.held := rfl
@[simp] theorem State.setTeam_memOps : (s.setTeam i x).memOps = s.memOps := rfl
@[simp] theorem State.setTeam_contexts : (s.setTeam i x).contexts = s.contexts := rfl
@[simp] theorem State.setTeam_launches : (s.setTeam i x).launches = s.launches := rfl
@[simp] theorem State.setTeam_graphs : (s.setTeam i x).graphs = s.graphs := rfl
@[simp] theorem State.setTeam_gangs : (s.setTeam i x).gangs = s.gangs := rfl
@[simp] theorem State.setTeam_saved : (s.setTeam i x).saved = s.saved := rfl
@[simp] theorem State.setTeam_intervals : (s.setTeam i x).intervals = s.intervals := rfl
@[simp] theorem State.setTeam_ops : (s.setTeam i x).ops = s.ops := rfl
@[simp] theorem State.setTeam_out : (s.setTeam i x).out = s.out := rfl
@[simp] theorem State.setTeam_net : (s.setTeam i x).net = s.net := rfl
end

/-! ## setGroup -/

section
variable (s : State) (r : GrpRef) (x : Group)

@[simp] theorem State.setGroup_time : (s.setGroup r x).time = s.time := rfl
@[simp] theorem State.setGroup_turns : (s.setGroup r x).turns = s.turns := rfl
@[simp] theorem State.setGroup_cur : (s.setGroup r x).cur = s.cur := rfl
@[simp] theorem State.setGroup_fresh : (s.setGroup r x).fresh = s.fresh := rfl
@[simp] theorem State.setGroup_next : (s.setGroup r x).next = s.next := rfl
@[simp] theorem State.setGroup_mem : (s.setGroup r x).mem = s.mem := rfl
@[simp] theorem State.setGroup_peerAbsent : (s.setGroup r x).peerAbsent = s.peerAbsent := rfl
@[simp] theorem State.setGroup_badFrames : (s.setGroup r x).badFrames = s.badFrames := rfl
@[simp] theorem State.setGroup_deadSlots : (s.setGroup r x).deadSlots = s.deadSlots := rfl
@[simp] theorem State.setGroup_draws : (s.setGroup r x).draws = s.draws := rfl
@[simp] theorem State.setGroup_extPoison : (s.setGroup r x).extPoison = s.extPoison := rfl
@[simp] theorem State.setGroup_ext : (s.setGroup r x).ext = s.ext := rfl
@[simp] theorem State.setGroup_cores : (s.setGroup r x).cores = s.cores := rfl
@[simp] theorem State.setGroup_columns : (s.setGroup r x).columns = s.columns := rfl
@[simp] theorem State.setGroup_clusters : (s.setGroup r x).clusters = s.clusters := rfl
@[simp] theorem State.setGroup_dies : (s.setGroup r x).dies = s.dies := rfl
@[simp] theorem State.setGroup_homes : (s.setGroup r x).homes = s.homes := rfl
@[simp] theorem State.setGroup_io : (s.setGroup r x).io = s.io := rfl
@[simp] theorem State.setGroup_stages : (s.setGroup r x).stages = s.stages := rfl
@[simp] theorem State.setGroup_held : (s.setGroup r x).held = s.held := rfl
@[simp] theorem State.setGroup_memOps : (s.setGroup r x).memOps = s.memOps := rfl
@[simp] theorem State.setGroup_contexts : (s.setGroup r x).contexts = s.contexts := rfl
@[simp] theorem State.setGroup_launches : (s.setGroup r x).launches = s.launches := rfl
@[simp] theorem State.setGroup_graphs : (s.setGroup r x).graphs = s.graphs := rfl
@[simp] theorem State.setGroup_gangs : (s.setGroup r x).gangs = s.gangs := rfl
@[simp] theorem State.setGroup_saved : (s.setGroup r x).saved = s.saved := rfl
@[simp] theorem State.setGroup_intervals : (s.setGroup r x).intervals = s.intervals := rfl
@[simp] theorem State.setGroup_ops : (s.setGroup r x).ops = s.ops := rfl
@[simp] theorem State.setGroup_out : (s.setGroup r x).out = s.out := rfl
@[simp] theorem State.setGroup_net : (s.setGroup r x).net = s.net := rfl
end

/-! ## updTeam -/

section
variable (s : State) (i : Nat) (f : Team → Team)

@[simp] theorem State.updTeam_time : (s.updTeam i f).time = s.time := rfl
@[simp] theorem State.updTeam_turns : (s.updTeam i f).turns = s.turns := rfl
@[simp] theorem State.updTeam_cur : (s.updTeam i f).cur = s.cur := rfl
@[simp] theorem State.updTeam_fresh : (s.updTeam i f).fresh = s.fresh := rfl
@[simp] theorem State.updTeam_next : (s.updTeam i f).next = s.next := rfl
@[simp] theorem State.updTeam_mem : (s.updTeam i f).mem = s.mem := rfl
@[simp] theorem State.updTeam_peerAbsent : (s.updTeam i f).peerAbsent = s.peerAbsent := rfl
@[simp] theorem State.updTeam_badFrames : (s.updTeam i f).badFrames = s.badFrames := rfl
@[simp] theorem State.updTeam_deadSlots : (s.updTeam i f).deadSlots = s.deadSlots := rfl
@[simp] theorem State.updTeam_draws : (s.updTeam i f).draws = s.draws := rfl
@[simp] theorem State.updTeam_extPoison : (s.updTeam i f).extPoison = s.extPoison := rfl
@[simp] theorem State.updTeam_ext : (s.updTeam i f).ext = s.ext := rfl
@[simp] theorem State.updTeam_cores : (s.updTeam i f).cores = s.cores := rfl
@[simp] theorem State.updTeam_columns : (s.updTeam i f).columns = s.columns := rfl
@[simp] theorem State.updTeam_clusters : (s.updTeam i f).clusters = s.clusters := rfl
@[simp] theorem State.updTeam_dies : (s.updTeam i f).dies = s.dies := rfl
@[simp] theorem State.updTeam_homes : (s.updTeam i f).homes = s.homes := rfl
@[simp] theorem State.updTeam_io : (s.updTeam i f).io = s.io := rfl
@[simp] theorem State.updTeam_stages : (s.updTeam i f).stages = s.stages := rfl
@[simp] theorem State.updTeam_held : (s.updTeam i f).held = s.held := rfl
@[simp] theorem State.updTeam_memOps : (s.updTeam i f).memOps = s.memOps := rfl
@[simp] theorem State.updTeam_contexts : (s.updTeam i f).contexts = s.contexts := rfl
@[simp] theorem State.updTeam_launches : (s.updTeam i f).launches = s.launches := rfl
@[simp] theorem State.updTeam_graphs : (s.updTeam i f).graphs = s.graphs := rfl
@[simp] theorem State.updTeam_gangs : (s.updTeam i f).gangs = s.gangs := rfl
@[simp] theorem State.updTeam_saved : (s.updTeam i f).saved = s.saved := rfl
@[simp] theorem State.updTeam_intervals : (s.updTeam i f).intervals = s.intervals := rfl
@[simp] theorem State.updTeam_ops : (s.updTeam i f).ops = s.ops := rfl
@[simp] theorem State.updTeam_out : (s.updTeam i f).out = s.out := rfl
@[simp] theorem State.updTeam_net : (s.updTeam i f).net = s.net := rfl
end

/-! ## updGroup -/

section
variable (s : State) (r : GrpRef) (f : Group → Group)

@[simp] theorem State.updGroup_time : (s.updGroup r f).time = s.time := rfl
@[simp] theorem State.updGroup_turns : (s.updGroup r f).turns = s.turns := rfl
@[simp] theorem State.updGroup_cur : (s.updGroup r f).cur = s.cur := rfl
@[simp] theorem State.updGroup_fresh : (s.updGroup r f).fresh = s.fresh := rfl
@[simp] theorem State.updGroup_next : (s.updGroup r f).next = s.next := rfl
@[simp] theorem State.updGroup_mem : (s.updGroup r f).mem = s.mem := rfl
@[simp] theorem State.updGroup_peerAbsent : (s.updGroup r f).peerAbsent = s.peerAbsent := rfl
@[simp] theorem State.updGroup_badFrames : (s.updGroup r f).badFrames = s.badFrames := rfl
@[simp] theorem State.updGroup_deadSlots : (s.updGroup r f).deadSlots = s.deadSlots := rfl
@[simp] theorem State.updGroup_draws : (s.updGroup r f).draws = s.draws := rfl
@[simp] theorem State.updGroup_extPoison : (s.updGroup r f).extPoison = s.extPoison := rfl
@[simp] theorem State.updGroup_ext : (s.updGroup r f).ext = s.ext := rfl
@[simp] theorem State.updGroup_cores : (s.updGroup r f).cores = s.cores := rfl
@[simp] theorem State.updGroup_columns : (s.updGroup r f).columns = s.columns := rfl
@[simp] theorem State.updGroup_clusters : (s.updGroup r f).clusters = s.clusters := rfl
@[simp] theorem State.updGroup_dies : (s.updGroup r f).dies = s.dies := rfl
@[simp] theorem State.updGroup_homes : (s.updGroup r f).homes = s.homes := rfl
@[simp] theorem State.updGroup_io : (s.updGroup r f).io = s.io := rfl
@[simp] theorem State.updGroup_stages : (s.updGroup r f).stages = s.stages := rfl
@[simp] theorem State.updGroup_held : (s.updGroup r f).held = s.held := rfl
@[simp] theorem State.updGroup_memOps : (s.updGroup r f).memOps = s.memOps := rfl
@[simp] theorem State.updGroup_contexts : (s.updGroup r f).contexts = s.contexts := rfl
@[simp] theorem State.updGroup_launches : (s.updGroup r f).launches = s.launches := rfl
@[simp] theorem State.updGroup_graphs : (s.updGroup r f).graphs = s.graphs := rfl
@[simp] theorem State.updGroup_gangs : (s.updGroup r f).gangs = s.gangs := rfl
@[simp] theorem State.updGroup_saved : (s.updGroup r f).saved = s.saved := rfl
@[simp] theorem State.updGroup_intervals : (s.updGroup r f).intervals = s.intervals := rfl
@[simp] theorem State.updGroup_ops : (s.updGroup r f).ops = s.ops := rfl
@[simp] theorem State.updGroup_out : (s.updGroup r f).out = s.out := rfl
@[simp] theorem State.updGroup_net : (s.updGroup r f).net = s.net := rfl
end

/-! ## updCore -/

section
variable (s : State) (c : Nat) (f : Core → Core)

@[simp] theorem State.updCore_time : (s.updCore c f).time = s.time := rfl
@[simp] theorem State.updCore_turns : (s.updCore c f).turns = s.turns := rfl
@[simp] theorem State.updCore_cur : (s.updCore c f).cur = s.cur := rfl
@[simp] theorem State.updCore_fresh : (s.updCore c f).fresh = s.fresh := rfl
@[simp] theorem State.updCore_next : (s.updCore c f).next = s.next := rfl
@[simp] theorem State.updCore_mem : (s.updCore c f).mem = s.mem := rfl
@[simp] theorem State.updCore_peerAbsent : (s.updCore c f).peerAbsent = s.peerAbsent := rfl
@[simp] theorem State.updCore_badFrames : (s.updCore c f).badFrames = s.badFrames := rfl
@[simp] theorem State.updCore_deadSlots : (s.updCore c f).deadSlots = s.deadSlots := rfl
@[simp] theorem State.updCore_draws : (s.updCore c f).draws = s.draws := rfl
@[simp] theorem State.updCore_extPoison : (s.updCore c f).extPoison = s.extPoison := rfl
@[simp] theorem State.updCore_ext : (s.updCore c f).ext = s.ext := rfl
@[simp] theorem State.updCore_columns : (s.updCore c f).columns = s.columns := rfl
@[simp] theorem State.updCore_clusters : (s.updCore c f).clusters = s.clusters := rfl
@[simp] theorem State.updCore_dies : (s.updCore c f).dies = s.dies := rfl
@[simp] theorem State.updCore_homes : (s.updCore c f).homes = s.homes := rfl
@[simp] theorem State.updCore_io : (s.updCore c f).io = s.io := rfl
@[simp] theorem State.updCore_stages : (s.updCore c f).stages = s.stages := rfl
@[simp] theorem State.updCore_held : (s.updCore c f).held = s.held := rfl
@[simp] theorem State.updCore_memOps : (s.updCore c f).memOps = s.memOps := rfl
@[simp] theorem State.updCore_contexts : (s.updCore c f).contexts = s.contexts := rfl
@[simp] theorem State.updCore_launches : (s.updCore c f).launches = s.launches := rfl
@[simp] theorem State.updCore_graphs : (s.updCore c f).graphs = s.graphs := rfl
@[simp] theorem State.updCore_gangs : (s.updCore c f).gangs = s.gangs := rfl
@[simp] theorem State.updCore_teams : (s.updCore c f).teams = s.teams := rfl
@[simp] theorem State.updCore_saved : (s.updCore c f).saved = s.saved := rfl
@[simp] theorem State.updCore_intervals : (s.updCore c f).intervals = s.intervals := rfl
@[simp] theorem State.updCore_ops : (s.updCore c f).ops = s.ops := rfl
@[simp] theorem State.updCore_out : (s.updCore c f).out = s.out := rfl
@[simp] theorem State.updCore_net : (s.updCore c f).net = s.net := rfl
end

/-! ## updCtx -/

section
variable (s : State) (c : Nat) (f : Context → Context)

@[simp] theorem State.updCtx_time : (s.updCtx c f).time = s.time := rfl
@[simp] theorem State.updCtx_turns : (s.updCtx c f).turns = s.turns := rfl
@[simp] theorem State.updCtx_cur : (s.updCtx c f).cur = s.cur := rfl
@[simp] theorem State.updCtx_fresh : (s.updCtx c f).fresh = s.fresh := rfl
@[simp] theorem State.updCtx_next : (s.updCtx c f).next = s.next := rfl
@[simp] theorem State.updCtx_mem : (s.updCtx c f).mem = s.mem := rfl
@[simp] theorem State.updCtx_peerAbsent : (s.updCtx c f).peerAbsent = s.peerAbsent := rfl
@[simp] theorem State.updCtx_badFrames : (s.updCtx c f).badFrames = s.badFrames := rfl
@[simp] theorem State.updCtx_deadSlots : (s.updCtx c f).deadSlots = s.deadSlots := rfl
@[simp] theorem State.updCtx_draws : (s.updCtx c f).draws = s.draws := rfl
@[simp] theorem State.updCtx_extPoison : (s.updCtx c f).extPoison = s.extPoison := rfl
@[simp] theorem State.updCtx_ext : (s.updCtx c f).ext = s.ext := rfl
@[simp] theorem State.updCtx_cores : (s.updCtx c f).cores = s.cores := rfl
@[simp] theorem State.updCtx_columns : (s.updCtx c f).columns = s.columns := rfl
@[simp] theorem State.updCtx_clusters : (s.updCtx c f).clusters = s.clusters := rfl
@[simp] theorem State.updCtx_dies : (s.updCtx c f).dies = s.dies := rfl
@[simp] theorem State.updCtx_homes : (s.updCtx c f).homes = s.homes := rfl
@[simp] theorem State.updCtx_io : (s.updCtx c f).io = s.io := rfl
@[simp] theorem State.updCtx_stages : (s.updCtx c f).stages = s.stages := rfl
@[simp] theorem State.updCtx_held : (s.updCtx c f).held = s.held := rfl
@[simp] theorem State.updCtx_memOps : (s.updCtx c f).memOps = s.memOps := rfl
@[simp] theorem State.updCtx_launches : (s.updCtx c f).launches = s.launches := rfl
@[simp] theorem State.updCtx_graphs : (s.updCtx c f).graphs = s.graphs := rfl
@[simp] theorem State.updCtx_gangs : (s.updCtx c f).gangs = s.gangs := rfl
@[simp] theorem State.updCtx_teams : (s.updCtx c f).teams = s.teams := rfl
@[simp] theorem State.updCtx_saved : (s.updCtx c f).saved = s.saved := rfl
@[simp] theorem State.updCtx_intervals : (s.updCtx c f).intervals = s.intervals := rfl
@[simp] theorem State.updCtx_ops : (s.updCtx c f).ops = s.ops := rfl
@[simp] theorem State.updCtx_out : (s.updCtx c f).out = s.out := rfl
@[simp] theorem State.updCtx_net : (s.updCtx c f).net = s.net := rfl
end

/-! ## updLaunch -/

section
variable (s : State) (l : Nat) (f : Launch → Launch)

@[simp] theorem State.updLaunch_time : (s.updLaunch l f).time = s.time := rfl
@[simp] theorem State.updLaunch_turns : (s.updLaunch l f).turns = s.turns := rfl
@[simp] theorem State.updLaunch_cur : (s.updLaunch l f).cur = s.cur := rfl
@[simp] theorem State.updLaunch_fresh : (s.updLaunch l f).fresh = s.fresh := rfl
@[simp] theorem State.updLaunch_next : (s.updLaunch l f).next = s.next := rfl
@[simp] theorem State.updLaunch_mem : (s.updLaunch l f).mem = s.mem := rfl
@[simp] theorem State.updLaunch_peerAbsent : (s.updLaunch l f).peerAbsent = s.peerAbsent := rfl
@[simp] theorem State.updLaunch_badFrames : (s.updLaunch l f).badFrames = s.badFrames := rfl
@[simp] theorem State.updLaunch_deadSlots : (s.updLaunch l f).deadSlots = s.deadSlots := rfl
@[simp] theorem State.updLaunch_draws : (s.updLaunch l f).draws = s.draws := rfl
@[simp] theorem State.updLaunch_extPoison : (s.updLaunch l f).extPoison = s.extPoison := rfl
@[simp] theorem State.updLaunch_ext : (s.updLaunch l f).ext = s.ext := rfl
@[simp] theorem State.updLaunch_cores : (s.updLaunch l f).cores = s.cores := rfl
@[simp] theorem State.updLaunch_columns : (s.updLaunch l f).columns = s.columns := rfl
@[simp] theorem State.updLaunch_clusters : (s.updLaunch l f).clusters = s.clusters := rfl
@[simp] theorem State.updLaunch_dies : (s.updLaunch l f).dies = s.dies := rfl
@[simp] theorem State.updLaunch_homes : (s.updLaunch l f).homes = s.homes := rfl
@[simp] theorem State.updLaunch_io : (s.updLaunch l f).io = s.io := rfl
@[simp] theorem State.updLaunch_stages : (s.updLaunch l f).stages = s.stages := rfl
@[simp] theorem State.updLaunch_held : (s.updLaunch l f).held = s.held := rfl
@[simp] theorem State.updLaunch_memOps : (s.updLaunch l f).memOps = s.memOps := rfl
@[simp] theorem State.updLaunch_contexts : (s.updLaunch l f).contexts = s.contexts := rfl
@[simp] theorem State.updLaunch_graphs : (s.updLaunch l f).graphs = s.graphs := rfl
@[simp] theorem State.updLaunch_gangs : (s.updLaunch l f).gangs = s.gangs := rfl
@[simp] theorem State.updLaunch_teams : (s.updLaunch l f).teams = s.teams := rfl
@[simp] theorem State.updLaunch_saved : (s.updLaunch l f).saved = s.saved := rfl
@[simp] theorem State.updLaunch_intervals : (s.updLaunch l f).intervals = s.intervals := rfl
@[simp] theorem State.updLaunch_ops : (s.updLaunch l f).ops = s.ops := rfl
@[simp] theorem State.updLaunch_out : (s.updLaunch l f).out = s.out := rfl
@[simp] theorem State.updLaunch_net : (s.updLaunch l f).net = s.net := rfl
end

/-! ## updOp -/

section
variable (s : State) (o : Nat) (f : EngOp → EngOp)

@[simp] theorem State.updOp_time : (s.updOp o f).time = s.time := rfl
@[simp] theorem State.updOp_turns : (s.updOp o f).turns = s.turns := rfl
@[simp] theorem State.updOp_cur : (s.updOp o f).cur = s.cur := rfl
@[simp] theorem State.updOp_fresh : (s.updOp o f).fresh = s.fresh := rfl
@[simp] theorem State.updOp_next : (s.updOp o f).next = s.next := rfl
@[simp] theorem State.updOp_mem : (s.updOp o f).mem = s.mem := rfl
@[simp] theorem State.updOp_peerAbsent : (s.updOp o f).peerAbsent = s.peerAbsent := rfl
@[simp] theorem State.updOp_badFrames : (s.updOp o f).badFrames = s.badFrames := rfl
@[simp] theorem State.updOp_deadSlots : (s.updOp o f).deadSlots = s.deadSlots := rfl
@[simp] theorem State.updOp_draws : (s.updOp o f).draws = s.draws := rfl
@[simp] theorem State.updOp_extPoison : (s.updOp o f).extPoison = s.extPoison := rfl
@[simp] theorem State.updOp_ext : (s.updOp o f).ext = s.ext := rfl
@[simp] theorem State.updOp_cores : (s.updOp o f).cores = s.cores := rfl
@[simp] theorem State.updOp_columns : (s.updOp o f).columns = s.columns := rfl
@[simp] theorem State.updOp_clusters : (s.updOp o f).clusters = s.clusters := rfl
@[simp] theorem State.updOp_dies : (s.updOp o f).dies = s.dies := rfl
@[simp] theorem State.updOp_homes : (s.updOp o f).homes = s.homes := rfl
@[simp] theorem State.updOp_io : (s.updOp o f).io = s.io := rfl
@[simp] theorem State.updOp_stages : (s.updOp o f).stages = s.stages := rfl
@[simp] theorem State.updOp_held : (s.updOp o f).held = s.held := rfl
@[simp] theorem State.updOp_memOps : (s.updOp o f).memOps = s.memOps := rfl
@[simp] theorem State.updOp_contexts : (s.updOp o f).contexts = s.contexts := rfl
@[simp] theorem State.updOp_launches : (s.updOp o f).launches = s.launches := rfl
@[simp] theorem State.updOp_graphs : (s.updOp o f).graphs = s.graphs := rfl
@[simp] theorem State.updOp_gangs : (s.updOp o f).gangs = s.gangs := rfl
@[simp] theorem State.updOp_teams : (s.updOp o f).teams = s.teams := rfl
@[simp] theorem State.updOp_saved : (s.updOp o f).saved = s.saved := rfl
@[simp] theorem State.updOp_intervals : (s.updOp o f).intervals = s.intervals := rfl
@[simp] theorem State.updOp_out : (s.updOp o f).out = s.out := rfl
@[simp] theorem State.updOp_net : (s.updOp o f).net = s.net := rfl
end

/-! ## updIo -/

section
variable (s : State) (f : Io → Io)

@[simp] theorem State.updIo_time : (s.updIo f).time = s.time := rfl
@[simp] theorem State.updIo_turns : (s.updIo f).turns = s.turns := rfl
@[simp] theorem State.updIo_cur : (s.updIo f).cur = s.cur := rfl
@[simp] theorem State.updIo_fresh : (s.updIo f).fresh = s.fresh := rfl
@[simp] theorem State.updIo_next : (s.updIo f).next = s.next := rfl
@[simp] theorem State.updIo_mem : (s.updIo f).mem = s.mem := rfl
@[simp] theorem State.updIo_peerAbsent : (s.updIo f).peerAbsent = s.peerAbsent := rfl
@[simp] theorem State.updIo_badFrames : (s.updIo f).badFrames = s.badFrames := rfl
@[simp] theorem State.updIo_deadSlots : (s.updIo f).deadSlots = s.deadSlots := rfl
@[simp] theorem State.updIo_draws : (s.updIo f).draws = s.draws := rfl
@[simp] theorem State.updIo_extPoison : (s.updIo f).extPoison = s.extPoison := rfl
@[simp] theorem State.updIo_ext : (s.updIo f).ext = s.ext := rfl
@[simp] theorem State.updIo_cores : (s.updIo f).cores = s.cores := rfl
@[simp] theorem State.updIo_columns : (s.updIo f).columns = s.columns := rfl
@[simp] theorem State.updIo_clusters : (s.updIo f).clusters = s.clusters := rfl
@[simp] theorem State.updIo_dies : (s.updIo f).dies = s.dies := rfl
@[simp] theorem State.updIo_homes : (s.updIo f).homes = s.homes := rfl
@[simp] theorem State.updIo_stages : (s.updIo f).stages = s.stages := rfl
@[simp] theorem State.updIo_held : (s.updIo f).held = s.held := rfl
@[simp] theorem State.updIo_memOps : (s.updIo f).memOps = s.memOps := rfl
@[simp] theorem State.updIo_contexts : (s.updIo f).contexts = s.contexts := rfl
@[simp] theorem State.updIo_launches : (s.updIo f).launches = s.launches := rfl
@[simp] theorem State.updIo_graphs : (s.updIo f).graphs = s.graphs := rfl
@[simp] theorem State.updIo_gangs : (s.updIo f).gangs = s.gangs := rfl
@[simp] theorem State.updIo_teams : (s.updIo f).teams = s.teams := rfl
@[simp] theorem State.updIo_saved : (s.updIo f).saved = s.saved := rfl
@[simp] theorem State.updIo_intervals : (s.updIo f).intervals = s.intervals := rfl
@[simp] theorem State.updIo_ops : (s.updIo f).ops = s.ops := rfl
@[simp] theorem State.updIo_out : (s.updIo f).out = s.out := rfl
@[simp] theorem State.updIo_net : (s.updIo f).net = s.net := rfl
end

/-! ## updHome -/

section
variable (s : State) (h : Nat) (f : Home → Home)

@[simp] theorem State.updHome_time : (s.updHome h f).time = s.time := rfl
@[simp] theorem State.updHome_turns : (s.updHome h f).turns = s.turns := rfl
@[simp] theorem State.updHome_cur : (s.updHome h f).cur = s.cur := rfl
@[simp] theorem State.updHome_fresh : (s.updHome h f).fresh = s.fresh := rfl
@[simp] theorem State.updHome_next : (s.updHome h f).next = s.next := rfl
@[simp] theorem State.updHome_mem : (s.updHome h f).mem = s.mem := rfl
@[simp] theorem State.updHome_peerAbsent : (s.updHome h f).peerAbsent = s.peerAbsent := rfl
@[simp] theorem State.updHome_badFrames : (s.updHome h f).badFrames = s.badFrames := rfl
@[simp] theorem State.updHome_deadSlots : (s.updHome h f).deadSlots = s.deadSlots := rfl
@[simp] theorem State.updHome_draws : (s.updHome h f).draws = s.draws := rfl
@[simp] theorem State.updHome_extPoison : (s.updHome h f).extPoison = s.extPoison := rfl
@[simp] theorem State.updHome_ext : (s.updHome h f).ext = s.ext := rfl
@[simp] theorem State.updHome_cores : (s.updHome h f).cores = s.cores := rfl
@[simp] theorem State.updHome_columns : (s.updHome h f).columns = s.columns := rfl
@[simp] theorem State.updHome_clusters : (s.updHome h f).clusters = s.clusters := rfl
@[simp] theorem State.updHome_dies : (s.updHome h f).dies = s.dies := rfl
@[simp] theorem State.updHome_io : (s.updHome h f).io = s.io := rfl
@[simp] theorem State.updHome_stages : (s.updHome h f).stages = s.stages := rfl
@[simp] theorem State.updHome_held : (s.updHome h f).held = s.held := rfl
@[simp] theorem State.updHome_memOps : (s.updHome h f).memOps = s.memOps := rfl
@[simp] theorem State.updHome_contexts : (s.updHome h f).contexts = s.contexts := rfl
@[simp] theorem State.updHome_launches : (s.updHome h f).launches = s.launches := rfl
@[simp] theorem State.updHome_graphs : (s.updHome h f).graphs = s.graphs := rfl
@[simp] theorem State.updHome_gangs : (s.updHome h f).gangs = s.gangs := rfl
@[simp] theorem State.updHome_teams : (s.updHome h f).teams = s.teams := rfl
@[simp] theorem State.updHome_saved : (s.updHome h f).saved = s.saved := rfl
@[simp] theorem State.updHome_intervals : (s.updHome h f).intervals = s.intervals := rfl
@[simp] theorem State.updHome_ops : (s.updHome h f).ops = s.ops := rfl
@[simp] theorem State.updHome_out : (s.updHome h f).out = s.out := rfl
@[simp] theorem State.updHome_net : (s.updHome h f).net = s.net := rfl
end

/-! ## updDie -/

section
variable (s : State) (d : Nat) (f : Die → Die)

@[simp] theorem State.updDie_time : (s.updDie d f).time = s.time := rfl
@[simp] theorem State.updDie_turns : (s.updDie d f).turns = s.turns := rfl
@[simp] theorem State.updDie_cur : (s.updDie d f).cur = s.cur := rfl
@[simp] theorem State.updDie_fresh : (s.updDie d f).fresh = s.fresh := rfl
@[simp] theorem State.updDie_next : (s.updDie d f).next = s.next := rfl
@[simp] theorem State.updDie_mem : (s.updDie d f).mem = s.mem := rfl
@[simp] theorem State.updDie_peerAbsent : (s.updDie d f).peerAbsent = s.peerAbsent := rfl
@[simp] theorem State.updDie_badFrames : (s.updDie d f).badFrames = s.badFrames := rfl
@[simp] theorem State.updDie_deadSlots : (s.updDie d f).deadSlots = s.deadSlots := rfl
@[simp] theorem State.updDie_draws : (s.updDie d f).draws = s.draws := rfl
@[simp] theorem State.updDie_extPoison : (s.updDie d f).extPoison = s.extPoison := rfl
@[simp] theorem State.updDie_ext : (s.updDie d f).ext = s.ext := rfl
@[simp] theorem State.updDie_cores : (s.updDie d f).cores = s.cores := rfl
@[simp] theorem State.updDie_columns : (s.updDie d f).columns = s.columns := rfl
@[simp] theorem State.updDie_clusters : (s.updDie d f).clusters = s.clusters := rfl
@[simp] theorem State.updDie_homes : (s.updDie d f).homes = s.homes := rfl
@[simp] theorem State.updDie_io : (s.updDie d f).io = s.io := rfl
@[simp] theorem State.updDie_stages : (s.updDie d f).stages = s.stages := rfl
@[simp] theorem State.updDie_held : (s.updDie d f).held = s.held := rfl
@[simp] theorem State.updDie_memOps : (s.updDie d f).memOps = s.memOps := rfl
@[simp] theorem State.updDie_contexts : (s.updDie d f).contexts = s.contexts := rfl
@[simp] theorem State.updDie_launches : (s.updDie d f).launches = s.launches := rfl
@[simp] theorem State.updDie_graphs : (s.updDie d f).graphs = s.graphs := rfl
@[simp] theorem State.updDie_gangs : (s.updDie d f).gangs = s.gangs := rfl
@[simp] theorem State.updDie_teams : (s.updDie d f).teams = s.teams := rfl
@[simp] theorem State.updDie_saved : (s.updDie d f).saved = s.saved := rfl
@[simp] theorem State.updDie_intervals : (s.updDie d f).intervals = s.intervals := rfl
@[simp] theorem State.updDie_ops : (s.updDie d f).ops = s.ops := rfl
@[simp] theorem State.updDie_out : (s.updDie d f).out = s.out := rfl
@[simp] theorem State.updDie_net : (s.updDie d f).net = s.net := rfl
end

/-! ## updCluster -/

section
variable (s : State) (c : Nat) (f : Cluster → Cluster)

@[simp] theorem State.updCluster_time : (s.updCluster c f).time = s.time := rfl
@[simp] theorem State.updCluster_turns : (s.updCluster c f).turns = s.turns := rfl
@[simp] theorem State.updCluster_cur : (s.updCluster c f).cur = s.cur := rfl
@[simp] theorem State.updCluster_fresh : (s.updCluster c f).fresh = s.fresh := rfl
@[simp] theorem State.updCluster_next : (s.updCluster c f).next = s.next := rfl
@[simp] theorem State.updCluster_mem : (s.updCluster c f).mem = s.mem := rfl
@[simp] theorem State.updCluster_peerAbsent : (s.updCluster c f).peerAbsent = s.peerAbsent := rfl
@[simp] theorem State.updCluster_badFrames : (s.updCluster c f).badFrames = s.badFrames := rfl
@[simp] theorem State.updCluster_deadSlots : (s.updCluster c f).deadSlots = s.deadSlots := rfl
@[simp] theorem State.updCluster_draws : (s.updCluster c f).draws = s.draws := rfl
@[simp] theorem State.updCluster_extPoison : (s.updCluster c f).extPoison = s.extPoison := rfl
@[simp] theorem State.updCluster_ext : (s.updCluster c f).ext = s.ext := rfl
@[simp] theorem State.updCluster_cores : (s.updCluster c f).cores = s.cores := rfl
@[simp] theorem State.updCluster_columns : (s.updCluster c f).columns = s.columns := rfl
@[simp] theorem State.updCluster_dies : (s.updCluster c f).dies = s.dies := rfl
@[simp] theorem State.updCluster_homes : (s.updCluster c f).homes = s.homes := rfl
@[simp] theorem State.updCluster_io : (s.updCluster c f).io = s.io := rfl
@[simp] theorem State.updCluster_stages : (s.updCluster c f).stages = s.stages := rfl
@[simp] theorem State.updCluster_held : (s.updCluster c f).held = s.held := rfl
@[simp] theorem State.updCluster_memOps : (s.updCluster c f).memOps = s.memOps := rfl
@[simp] theorem State.updCluster_contexts : (s.updCluster c f).contexts = s.contexts := rfl
@[simp] theorem State.updCluster_launches : (s.updCluster c f).launches = s.launches := rfl
@[simp] theorem State.updCluster_graphs : (s.updCluster c f).graphs = s.graphs := rfl
@[simp] theorem State.updCluster_gangs : (s.updCluster c f).gangs = s.gangs := rfl
@[simp] theorem State.updCluster_teams : (s.updCluster c f).teams = s.teams := rfl
@[simp] theorem State.updCluster_saved : (s.updCluster c f).saved = s.saved := rfl
@[simp] theorem State.updCluster_intervals : (s.updCluster c f).intervals = s.intervals := rfl
@[simp] theorem State.updCluster_ops : (s.updCluster c f).ops = s.ops := rfl
@[simp] theorem State.updCluster_out : (s.updCluster c f).out = s.out := rfl
@[simp] theorem State.updCluster_net : (s.updCluster c f).net = s.net := rfl
end

/-! ## updColumn -/

section
variable (s : State) (c : Nat) (f : Column → Column)

@[simp] theorem State.updColumn_time : (s.updColumn c f).time = s.time := rfl
@[simp] theorem State.updColumn_turns : (s.updColumn c f).turns = s.turns := rfl
@[simp] theorem State.updColumn_cur : (s.updColumn c f).cur = s.cur := rfl
@[simp] theorem State.updColumn_fresh : (s.updColumn c f).fresh = s.fresh := rfl
@[simp] theorem State.updColumn_next : (s.updColumn c f).next = s.next := rfl
@[simp] theorem State.updColumn_mem : (s.updColumn c f).mem = s.mem := rfl
@[simp] theorem State.updColumn_peerAbsent : (s.updColumn c f).peerAbsent = s.peerAbsent := rfl
@[simp] theorem State.updColumn_badFrames : (s.updColumn c f).badFrames = s.badFrames := rfl
@[simp] theorem State.updColumn_deadSlots : (s.updColumn c f).deadSlots = s.deadSlots := rfl
@[simp] theorem State.updColumn_draws : (s.updColumn c f).draws = s.draws := rfl
@[simp] theorem State.updColumn_extPoison : (s.updColumn c f).extPoison = s.extPoison := rfl
@[simp] theorem State.updColumn_ext : (s.updColumn c f).ext = s.ext := rfl
@[simp] theorem State.updColumn_cores : (s.updColumn c f).cores = s.cores := rfl
@[simp] theorem State.updColumn_clusters : (s.updColumn c f).clusters = s.clusters := rfl
@[simp] theorem State.updColumn_dies : (s.updColumn c f).dies = s.dies := rfl
@[simp] theorem State.updColumn_homes : (s.updColumn c f).homes = s.homes := rfl
@[simp] theorem State.updColumn_io : (s.updColumn c f).io = s.io := rfl
@[simp] theorem State.updColumn_stages : (s.updColumn c f).stages = s.stages := rfl
@[simp] theorem State.updColumn_held : (s.updColumn c f).held = s.held := rfl
@[simp] theorem State.updColumn_memOps : (s.updColumn c f).memOps = s.memOps := rfl
@[simp] theorem State.updColumn_contexts : (s.updColumn c f).contexts = s.contexts := rfl
@[simp] theorem State.updColumn_launches : (s.updColumn c f).launches = s.launches := rfl
@[simp] theorem State.updColumn_graphs : (s.updColumn c f).graphs = s.graphs := rfl
@[simp] theorem State.updColumn_gangs : (s.updColumn c f).gangs = s.gangs := rfl
@[simp] theorem State.updColumn_teams : (s.updColumn c f).teams = s.teams := rfl
@[simp] theorem State.updColumn_saved : (s.updColumn c f).saved = s.saved := rfl
@[simp] theorem State.updColumn_intervals : (s.updColumn c f).intervals = s.intervals := rfl
@[simp] theorem State.updColumn_ops : (s.updColumn c f).ops = s.ops := rfl
@[simp] theorem State.updColumn_out : (s.updColumn c f).out = s.out := rfl
@[simp] theorem State.updColumn_net : (s.updColumn c f).net = s.net := rfl
end

/-! ## What an update writes reads back -/

theorem State.core_setCore (s : State) (c d : Nat) (x : Core) : (s.setCore c x).core d = if c = d then x else s.core d :=
  Sp.get_put _ _ _ _ _
theorem State.die_setDie (s : State) (c d : Nat) (x : Die) : (s.setDie c x).die d = if c = d then x else s.die d :=
  Sp.get_put _ _ _ _ _
theorem State.home_setHome (s : State) (c d : Nat) (x : Home) : (s.setHome c x).home d = if c = d then x else s.home d :=
  Sp.get_put _ _ _ _ _
theorem State.cluster_setCluster (s : State) (c d : Nat) (x : Cluster) :
    (s.setCluster c x).cluster d = if c = d then x else s.cluster d := Sp.get_put _ _ _ _ _
theorem State.column_setColumn (s : State) (c d : Nat) (x : Column) :
    (s.setColumn c x).column d = if c = d then x else s.column d := Sp.get_put _ _ _ _ _
theorem State.ctx_setCtx (s : State) (c d : Nat) (x : Context) : (s.setCtx c x).ctx d = if c = d then x else s.ctx d :=
  Sp.get_put _ _ _ _ _

/-- A group that is written reads back; every other group of every team is as before. -/
theorem State.group?_setGroup (s : State) (r q : GrpRef) (x : Group) :
    (s.setGroup r x).group? q =
      if r.team = q.team then (s.teams.find? q.team).bind fun t =>
        let t' : Team := { t with groups := t.groups.put r.grp x }
        (t'.groups.find? q.grp).map fun y => (t', y)
      else s.group? q := by
  simp only [State.group?, State.setGroup, Sp.find?_adjust]
  split <;> cases s.teams.find? q.team <;> rfl

theorem State.group?_setGroup_self {s : State} {r : GrpRef} {t : Team} {g : Group} (x : Group) (h : s.group? r = some (t, g)) :
    (s.setGroup r x).group? r = some ({ t with groups := t.groups.put r.grp x }, x) := by
  rw [State.group?_setGroup, if_pos rfl]
  unfold State.group? at h
  cases ht : s.teams.find? r.team with
  | none => simp [ht] at h
  | some u =>
    simp only [ht, Option.bind_some, Option.map_eq_some_iff, Prod.mk.injEq] at h
    obtain ⟨y, -, rfl, -⟩ := h
    simp

/-- A group's update reads back. -/
theorem State.group?_updGroup_self {s : State} {r : GrpRef} {t : Team} {g : Group} (f : Group → Group) (h : s.group? r = some (t, g)) :
    (s.updGroup r f).group? r = some ({ t with groups := t.groups.adjust r.grp f }, f g) := by
  unfold State.group? at h
  cases ht : s.teams.find? r.team with
  | none => simp [ht] at h
  | some u =>
    simp only [ht, Option.bind_some, Option.map_eq_some_iff, Prod.mk.injEq] at h
    obtain ⟨y, hy, rfl, rfl⟩ := h
    simp [State.group?, State.updGroup, State.updTeam, ht, hy]

/-- An update of one group leaves every other group's contents. -/
theorem State.group?_updGroup_ne (s : State) (r q : GrpRef) (f : Group → Group) (h : r ≠ q) :
    ((s.updGroup r f).group? q).map (·.2) = (s.group? q).map (·.2) := by
  obtain ⟨rt, rg⟩ := r
  obtain ⟨qt, qg⟩ := q
  simp only [State.group?, State.updGroup, State.updTeam, Sp.find?_adjust]
  by_cases ht : rt = qt
  · subst ht
    have hg : rg ≠ qg := fun e => h (e ▸ rfl)
    cases s.teams.find? rt <;> simp [Sp.find?_adjust, hg, Function.comp_def]
  · simp [ht]

end Sys2Proof.Machine
end

