-- ==== Sys2Proof/Laws/Program.lean ====
section
/-! SUPPORT. What the skeleton of a program instruction can do, said once: the checks, the stop, the effect. -/
namespace Sys2Proof.Machine
open Sys2Proof

variable {s : State} {r : GrpRef} {w : W32 × W32} {t : Team} {g : Group} {i : Instr} {p : Plan}

/-- An instruction whose checks pass meets no stop of R55. -/
theorem Plan.Clear.check {x : Issue} (h : p.Clear x) : p.check x = none := by
  unfold Plan.check
  simp [h.form, h.judgedReady, h.values.1, h.values.2, h.mask, h.sources, h.destinations, h.operands, h.role, h.latches, h.ready]

theorem Issue.TagsOk.ok {x : Issue} {l : List ((Tag → Bool) × Src × Nat)} (h : x.TagsOk l) : x.classes l = .ok () := by
  unfold Issue.classes
  rw [h]

/-- The body's state is the next state where the checks pass and the body completes. -/
theorem program_completes {body : Body} {u : State} (h : AtIssue s r w t g) (hc : p.Clear (issueOf i p s r w t g))
    (hb : body (issueOf i p s r w t g) = .ok u) : program i p body s = .next u := by
  unfold program
  simp only [h.latched, h.resident, hc.check, hb]

/-- Where the checks pass and the body stops, the stop is taken on the state before the issue. -/
theorem program_stops {body : Body} {e : Stop} (h : AtIssue s r w t g) (hc : p.Clear (issueOf i p s r w t g))
    (hb : body (issueOf i p s r w t g) = .error e) : program i p body s = .next ((issueOf i p s r w t g).stop e) := by
  unfold program
  simp only [h.latched, h.resident, hc.check, hb]

/-- A failing check stops the instruction before its body runs. -/
theorem program_refuses {body : Body} {e : Stop} (h : AtIssue s r w t g) (hc : p.check (issueOf i p s r w t g) = some e) :
    program i p body s = .next ((issueOf i p s r w t g).stop e) := by
  unfold program
  simp only [h.latched, h.resident, hc]

/-- A program instruction of a resident group always answers a next state: its effect, a wait, or a trap taken. -/
theorem program_total {body : Body} (h : AtIssue s r w t g) : ∃ u, program i p body s = .next u := by
  unfold program
  simp only [h.latched, h.resident]
  split
  · exact ⟨_, rfl⟩
  · split <;> exact ⟨_, rfl⟩

/-- An instruction acts as its body says, where the body completes; `f` is its meaning. -/
theorem Acts.of (f : State → Out) {ok : Issue → Prop} {effect : Issue → State} {body : Body} (he : ∀ s, exec i s = f s)
    (hf : f = program i p body) (hb : ∀ x, ok x → body x = .ok (effect x)) : Acts i p ok effect := by
  intro s r w t g h hc hx
  rw [he, hf]
  exact program_completes h hc (hb _ hx)

/-- The same for one after which flow goes on in sequence. -/
theorem Runs.of (f : State → Out) {ok : Issue → Prop} {effect : Issue → State} {body : Body} (he : ∀ s, exec i s = f s)
    (hf : f = program i p body) (hb : ∀ x, ok x → body x = .ok (x.seq (effect x))) : Runs i p ok effect :=
  Acts.of f he hf fun x hx => hb x hx.2

/-- No lane meets a lock where no place is locked. -/
theorem lockCheck_ok {α : Type} {u : Bool} {l : List (Nat × α)} {hit : α → Bool} {addr : Nat → Nat} (h : ∀ q ∈ l, hit q.2 = false) :
    lockCheck u l hit addr = .ok () := by
  unfold lockCheck
  rw [List.find?_eq_none.mpr fun q hq => by simp [h q hq]]

/-! ## Register-to-register instructions -/

theorem vOp_completes {o : Alu} {q : Op} (h : AtIssue s r w t g) (hc : (q.plan false o).Clear (issueOf i (q.plan false o) s r w t g))
    (ht : (issueOf i (q.plan false o) s r w t g).TagsOk (q.classes o)) (hq : q.tie (issueOf i (q.plan false o) s r w t g) = .ok ()) :
    vOp i o q s = .next (
      let x := issueOf i (q.plan false o) s r w t g
      x.seq (x.wroteV o.w o.d.toNat q.kd (q.tag x) (q.results x o))) := by
  refine program_completes h hc ?_
  rw [ht.ok]
  simp [Except.bind, hq, Except.map]

theorem uOp_completes {o : Alu} {q : Op} (h : AtIssue s r w t g) (hc : (q.plan true o).Clear (issueOf i (q.plan true o) s r w t g)) :
    uOp i o q s = .next (
      let x := issueOf i (q.plan true o) s r w t g
      x.seq (x.wroteU o.w o.d.toNat q.kd (q.value x (q.lane x o groupThread)))) :=
  program_completes h hc rfl

end Sys2Proof.Machine
end

