-- ==== Sys2Proof/Laws/Frame.lean ====
section
/-! SUPPORT. What the shared operations of a program instruction leave unchanged, said once for each: settling, rotation,
switch points, sequential flow, the writes of registers, the exception counters. -/
namespace Sys2Proof.Machine
open Sys2Proof

/-! ## Threads that stand alike: their modes, PCs and meeting addresses -/

inductive StandAlike : List Thread → List Thread → Prop where
  | nil : StandAlike [] []
  | cons {a b : Thread} {l m : List Thread} (mode : a.mode = b.mode) (pc : a.pc = b.pc) (meet : a.meet = b.meet)
      (rest : StandAlike l m) : StandAlike (a :: l) (b :: m)

namespace StandAlike
variable {l m : List Thread}

theorem refl : ∀ l : List Thread, StandAlike l l
  | [] => .nil
  | _ :: r => .cons rfl rfl rfl (refl r)

theorem symm (h : StandAlike l m) : StandAlike m l := by
  induction h with
  | nil => exact .nil
  | cons h1 h2 h3 _ ih => exact .cons h1.symm h2.symm h3.symm ih

theorem trans {n : List Thread} (h : StandAlike l m) (k : StandAlike m n) : StandAlike l n := by
  induction h generalizing n with
  | nil => exact k
  | cons h1 h2 h3 _ ih => cases k with
    | cons k1 k2 k3 k4 => exact .cons (h1.trans k1) (h2.trans k2) (h3.trans k3) (ih k4)

theorem map_self {f : Thread → Thread} (hf : ∀ a, (f a).mode = a.mode ∧ (f a).pc = a.pc ∧ (f a).meet = a.meet) :
    ∀ l : List Thread, StandAlike (l.map f) l
  | [] => .nil
  | a :: r => .cons (hf a).1 (hf a).2.1 (hf a).2.2 (map_self hf r)

theorem map (h : StandAlike l m) {f : Thread → Thread} (hf : ∀ a b : Thread, a.mode = b.mode → a.pc = b.pc → a.meet = b.meet →
    (f a).mode = (f b).mode ∧ (f a).pc = (f b).pc ∧ (f a).meet = (f b).meet) : StandAlike (l.map f) (m.map f) := by
  induction h with
  | nil => exact .nil
  | cons h1 h2 h3 _ ih =>
    obtain ⟨k1, k2, k3⟩ := hf _ _ h1 h2 h3
    exact .cons k1 k2 k3 ih

theorem filter (h : StandAlike l m) {f : Thread → Bool} (hf : ∀ a b : Thread, a.mode = b.mode → f a = f b) :
    StandAlike (l.filter f) (m.filter f) := by
  induction h with
  | nil => exact .nil
  | cons h1 h2 h3 _ ih =>
    simp only [List.filter_cons, hf _ _ h1]
    split
    · exact .cons h1 h2 h3 ih
    · exact ih

theorem isEmpty (h : StandAlike l m) : l.isEmpty = m.isEmpty := by cases h <;> rfl

theorem all (h : StandAlike l m) {f : Thread → Bool} (hf : ∀ a b : Thread, a.mode = b.mode → a.pc = b.pc → f a = f b) :
    l.all f = m.all f := by
  induction h with
  | nil => rfl
  | cons h1 h2 _ _ ih => simp only [List.all_cons, hf _ _ h1 h2, ih]

theorem any (h : StandAlike l m) {f : Thread → Bool} (hf : ∀ a b : Thread, a.mode = b.mode → a.pc = b.pc → f a = f b) :
    l.any f = m.any f := by
  induction h with
  | nil => rfl
  | cons h1 h2 _ _ ih => simp only [List.any_cons, hf _ _ h1 h2, ih]

theorem minPc (h : StandAlike l m) : Machine.minPc l = Machine.minPc m := by
  induction h with
  | nil => rfl
  | cons _ h2 _ h4 ih =>
    cases h4 with
    | nil => exact h2
    | cons => simp only [Machine.minPc] at ih ⊢; rw [h2, ih]

end StandAlike

theorem StandAlike.setCurrent {g h : Group} (e : StandAlike g.threads h.threads) (a : Nat) :
    StandAlike (g.setCurrent a).threads (h.setCurrent a).threads := by
  unfold Group.setCurrent
  exact e.map fun a b h1 h2 h3 => by simp only [h1, h2, h3]; split <;> simp [*]

theorem StandAlike.lowered {g h : Group} (e : StandAlike g.threads h.threads) : StandAlike g.lowered.threads h.lowered.threads := by
  have e1 : StandAlike g.active h.active := e.filter fun a b h1 => by rw [h1]
  have e2 : g.apart = h.apart := by
    unfold Group.apart
    rw [e1.minPc]
    exact e1.any fun a b _ h2 => by rw [h2]
  unfold Group.lowered
  rw [e2, e1.minPc]
  split
  · exact e.setCurrent _
  · exact e

theorem StandAlike.hold {g h : Group} (e : StandAlike g.threads h.threads) : StandAlike g.hold.threads h.hold.threads := by
  unfold Group.hold
  exact e.map fun a b h1 h2 h3 => by rw [h1, h2, h3]; split <;> simp [*]

/-- Whether a group settles depends on its threads' modes, PCs and meeting addresses alone. -/
theorem Group.Settles.alike {g h : Group} (e : StandAlike g.threads h.threads) (hs : g.Settles) : h.Settles := by
  have e1 : StandAlike g.lowered.hold.threads h.lowered.hold.threads := e.lowered.hold
  have e2 : g.lowered.hold.active.isEmpty = h.lowered.hold.active.isEmpty := (e1.filter fun a b h1 => by rw [h1]).isEmpty
  have e3 : g.lowered.hold.waiting.isEmpty = h.lowered.hold.waiting.isEmpty := (e1.filter fun a b h1 => by rw [h1]).isEmpty
  have e4 : StandAlike g.lowered.hold.unexited h.lowered.hold.unexited := e1.filter fun a b h1 => by simp [Thread.unexited, h1]
  have e5 : (g.lowered.hold.unexited.any fun t => t.pc != minPc h.lowered.hold.unexited) =
      h.lowered.hold.unexited.any fun t => t.pc != minPc h.lowered.hold.unexited :=
    e4.any fun a b _ h2 => by rw [h2]
  have e6 : (g.lowered.hold.unexited.any fun t => t.mode.atRegroup) = h.lowered.hold.unexited.any fun t => t.mode.atRegroup :=
    e4.any fun a b h1 _ => by rw [h1]
  obtain ⟨k, hk⟩ := hs
  unfold Group.Settles
  unfold Group.settle at hk ⊢
  simp only [e2, e3, e4.minPc, e4.isEmpty, e5, e6] at hk
  simp only
  split
  · exact ⟨_, rfl⟩
  · split
    · exact ⟨_, rfl⟩
    · split
      · exact ⟨_, rfl⟩
      · split
        · exact ⟨_, rfl⟩
        · split
          · simp_all
          · exact ⟨_, rfl⟩

/-! ## Groups that keep all but what an instruction writes -/

/-- A group keeps everything that `Group.Keeps` speaks of. -/
abbrev Group.KeepsAll (g h : Group) : Prop := g.Keeps h (fun _ => False) (fun _ => False) False False

section keeps
variable {v w : Nat → Prop} {p q : Prop} {g h k : Group}

theorem Group.Keeps.then_all (a : g.Keeps h v w p q) (b : h.KeepsAll k) : g.Keeps k v w p q where
  registers n hn := (b.registers n (by simp)).trans (a.registers n hn)
  tags n hn := (b.tags n (by simp)).trans (a.tags n hn)
  uniforms n hn := (b.uniforms n (by simp)).trans (a.uniforms n hn)
  predicates hn := (b.predicates (by simp)).trans (a.predicates hn)
  groupPredicates hn := (b.groupPredicates (by simp)).trans (a.groupPredicates hn)
  masks := b.masks.trans a.masks
  counters := b.counters.trans a.counters
  returns := b.returns.trans a.returns
  horizon := b.horizon.trans a.horizon
  role := b.role.trans a.role
  pending := ⟨b.pending.1.trans a.pending.1, b.pending.2.trans a.pending.2⟩
  arrivals := ⟨b.arrivals.1.trans a.arrivals.1, b.arrivals.2.trans a.arrivals.2⟩

theorem Group.KeepsAll.then_keeps (a : g.KeepsAll h) (b : h.Keeps k v w p q) : g.Keeps k v w p q where
  registers n hn := (b.registers n hn).trans (a.registers n (by simp))
  tags n hn := (b.tags n hn).trans (a.tags n (by simp))
  uniforms n hn := (b.uniforms n hn).trans (a.uniforms n (by simp))
  predicates hn := (b.predicates hn).trans (a.predicates (by simp))
  groupPredicates hn := (b.groupPredicates hn).trans (a.groupPredicates (by simp))
  masks := b.masks.trans a.masks
  counters := b.counters.trans a.counters
  returns := b.returns.trans a.returns
  horizon := b.horizon.trans a.horizon
  role := b.role.trans a.role
  pending := ⟨b.pending.1.trans a.pending.1, b.pending.2.trans a.pending.2⟩
  arrivals := ⟨b.arrivals.1.trans a.arrivals.1, b.arrivals.2.trans a.arrivals.2⟩

/-- A group of which only the flow changes keeps all. -/
theorem Group.KeepsAll.of_flow {f : Thread → Thread} (ht : h.threads = g.threads.map f)
    (hf : ∀ x, (f x).tid = x.tid ∧ (f x).lane = x.lane ∧ (f x).v = x.v ∧ (f x).p = x.p)
    (hg : (h.tags, h.s, h.q, h.g, h.lc, h.ret, h.horizon, h.role, h.pendV, h.pendS, h.outB, h.outG) =
      (g.tags, g.s, g.q, g.g, g.lc, g.ret, g.horizon, g.role, g.pendV, g.pendS, g.outB, g.outG)) : g.KeepsAll h := by
  simp only [Prod.mk.injEq] at hg
  obtain ⟨h1, h2, h3, h4, h5, h6, h7, h8, h9, h10, h11, h12⟩ := hg
  refine ⟨fun n _ => ?_, fun n _ => by simp [Group.tag, h1], fun n _ => by simp [Group.sreg, h2], fun _ => ?_, fun _ => h3, h4, h5,
    h6, h7, h8, ⟨h9, h10⟩, ⟨h11, h12⟩⟩
  · rw [ht, List.map_map]
    congr 1
    funext x
    simp [Thread.reg, hf x]
  · rw [ht, List.map_map]
    congr 1
    funext x
    simp [hf x]

end keeps

theorem Group.KeepsAll.refl (g : Group) : g.KeepsAll g := .of_flow (f := id) (by simp) (by simp) rfl

theorem Group.KeepsAll.of_pc (g : Group) (a : Nat) : g.KeepsAll { g with pc := a } :=
  .of_flow (f := id) (List.map_id _).symm (by simp) rfl

theorem Group.clearLatches_keeps (g : Group) : g.KeepsAll g.clearLatches := .of_flow (f := id) (by simp [Group.clearLatches]) (by simp) rfl

theorem Group.setCurrent_keeps (g : Group) (pc : Nat) : g.KeepsAll (g.setCurrent pc) :=
  .of_flow rfl (fun x => by split <;> simp) rfl

theorem Group.hold_keeps (g : Group) : g.KeepsAll g.hold := .of_flow rfl (fun x => by split <;> simp) rfl

theorem Group.lowered_keeps (g : Group) : g.KeepsAll g.lowered := by
  unfold Group.lowered
  split
  · exact Group.setCurrent_keeps _ _
  · exact .refl _

/-- The group whose current set is made, and whose threads at their meeting addresses are held. -/
theorem Group.held_keeps (g : Group) : g.KeepsAll g.lowered.hold := (Group.lowered_keeps g).then_all (Group.hold_keeps _)

theorem Group.mapActive_keeps (g : Group) (f : Thread → Thread)
    (hf : ∀ x, (f x).tid = x.tid ∧ (f x).lane = x.lane ∧ (f x).v = x.v ∧ (f x).p = x.p) : g.KeepsAll (g.mapActive f) :=
  .of_flow rfl (fun x => by split <;> simp [hf x]) rfl

theorem Group.rotate_keeps (g : Group) : g.KeepsAll g.rotate := by
  have a : g.KeepsAll { g.clearLatches with run := 0 } := .of_flow (f := id) (by simp [Group.clearLatches]) (by simp) rfl
  unfold Group.rotate
  simp only
  split
  · exact a
  · exact a.then_all (Group.setCurrent_keeps _ _)

/-- Taking a switch point changes the flow, and the latches. -/
theorem Group.switched_keeps (g : Group) (stopping : Bool) (sp : Option Mask) : g.KeepsAll (g.switched stopping sp) := by
  unfold Group.switched
  simp only
  split
  · exact (Group.rotate_keeps g).then_all (.of_flow (f := id) (List.map_id _).symm (by simp) rfl)
  · exact Group.rotate_keeps g

/-- Settling changes the flow alone. -/
theorem Group.settle_keeps {g h : Group} (hs : g.settle = .ok h) : g.KeepsAll h := by
  unfold Group.settle at hs
  simp only at hs
  have k := Group.held_keeps g
  split at hs
  · cases hs; exact k.then_all (Group.setCurrent_keeps _ _)
  · split at hs
    · cases hs
      exact (k.then_all (.of_flow (h := { g.lowered.hold.clearLatches with run := 0 }) (f := id) (by simp [Group.clearLatches]) (by simp) rfl)).then_all
        (Group.setCurrent_keeps _ _)
    · split at hs
      · cases hs; exact k.then_all (.of_flow (f := id) (by simp) (by simp) rfl)
      · split at hs
        · cases hs; exact k.then_all (.of_flow (f := id) (by simp [Group.clearLatches]) (by simp) rfl)
        · split at hs
          · cases hs
          · cases hs; exact k.then_all (.of_flow rfl (fun x => by split <;> simp) rfl)

/-! ## The rest of the state -/

theorem State.KeptOutside.refl (s : State) (r : GrpRef) : s.KeptOutside s r := by
  constructor <;> first | (intros; rfl) | rfl | skip
  intro t h
  exact ⟨t.groups, by simp [h], fun _ _ => rfl⟩

theorem State.KeptOutside.trans {s u z : State} {r : GrpRef} (a : s.KeptOutside u r) (b : u.KeptOutside z r) : s.KeptOutside z r where
  memory n := (b.memory n).trans (a.memory n)
  external n := (b.external n).trans (a.external n)
  teams i h := (b.teams i h).trans (a.teams i h)
  team t h := by
    obtain ⟨m, h1, h2⟩ := a.team t h
    obtain ⟨m', h3, h4⟩ := b.team _ h1
    exact ⟨m', h3, fun k hk => (h4 k hk).trans (h2 k hk)⟩
  cores c := by rw [← a.cores c, ← b.cores c]
  dies := b.dies.trans a.dies
  homes := b.homes.trans a.homes
  contexts := b.contexts.trans a.contexts
  ops := b.ops.trans a.ops
  gangs := b.gangs.trans a.gangs
  saved := b.saved.trans a.saved
  stages := b.stages.trans a.stages
  columns := b.columns.trans a.columns
  clusters := b.clusters.trans a.clusters
  held := b.held.trans a.held
  memOps := b.memOps.trans a.memOps
  graphs := b.graphs.trans a.graphs
  net := b.net.trans a.net
  absent := b.absent.trans a.absent
  badFrames := b.badFrames.trans a.badFrames
  draws := b.draws.trans a.draws
  externalPoison := b.externalPoison.trans a.externalPoison
  deadSlots := b.deadSlots.trans a.deadSlots
  messages := b.messages.trans a.messages
  time := b.time.trans a.time
  io := by rw [← a.io, ← b.io]
  launches k := (b.launches k).trans (a.launches k)
  intervals k := (b.intervals k).trans (a.intervals k)

theorem State.find?_updTeam (s : State) (t : Nat) (f : Team → Team) (i : Nat) :
    (s.updTeam t f).teams.find? i = if i = t then (s.teams.find? t).map f else s.teams.find? i := by
  simp only [State.updTeam]
  rw [Sp.find?_adjust]
  by_cases h : i = t
  · subst h; simp
  · simp [h, Ne.symm h]

theorem State.updTeam_outside (s : State) (r : GrpRef) (f : Team → Team)
    (hf : ∀ t, ∃ m, f t = { t with groups := m } ∧ ∀ k, k ≠ r.grp → m.find? k = t.groups.find? k) : s.KeptOutside (s.updTeam r.team f) r := by
  constructor <;> first | (intros; rfl) | rfl | skip
  · intro i h
    rw [State.find?_updTeam]
    simp [h]
  · intro t h
    obtain ⟨m, h1, h2⟩ := hf t
    exact ⟨m, by rw [State.find?_updTeam]; simp [h, h1], h2⟩

theorem State.setGroup_outside (s : State) (r : GrpRef) (g : Group) : s.KeptOutside (s.setGroup r g) r :=
  State.updTeam_outside s r (fun t => { t with groups := t.groups.put r.grp g }) fun _ => ⟨_, rfl, fun _ hk => Sp.find?_put_ne _ _ (Ne.symm hk)⟩

theorem State.updGroup_outside (s : State) (r : GrpRef) (f : Group → Group) : s.KeptOutside (s.updGroup r f) r :=
  State.updTeam_outside _ _ _ fun _ => ⟨_, rfl, fun k hk => by rw [Sp.find?_adjust]; simp [Ne.symm hk]⟩

/-- A group after a step that keeps everything outside it and everything in it but what an instruction writes. -/
theorem State.Frame.of {s u : State} {r : GrpRef} {g h : Group} {t : Team} {v w : Nat → Prop} {p q : Prop} (a : s.KeptOutside u r)
    (b : u.group? r = some (t, h)) (c : g.Keeps h v w p q) : s.Frame u r g v w p q := ⟨a, t, h, b, c⟩

theorem State.Frame.then_all {s u z : State} {r : GrpRef} {g : Group} {v w : Nat → Prop} {p q : Prop} (a : s.Frame u r g v w p q)
    (b : ∀ t h, u.group? r = some (t, h) → u.Frame z r h (fun _ => False) (fun _ => False) False False) : s.Frame z r g v w p q := by
  obtain ⟨a1, t, h, a2, a3⟩ := a
  obtain ⟨b1, t', k, b2, b3⟩ := b t h a2
  exact ⟨a1.trans b1, t', k, b2, a3.then_all b3⟩

/-- A switch point changes the flow of its group, and its latches. -/
theorem State.switchPoint_frame {s : State} {r : GrpRef} {sp : Option Mask} {t : Team} {g : Group} (e : s.group? r = some (t, g)) :
    s.Frame (s.switchPoint r sp) r g (fun _ => False) (fun _ => False) False False := by
  have a : ∀ m : Option (Option Mask), g.KeepsAll { g with switchDue := m } := fun m => .of_flow (f := id) (List.map_id _).symm (by simp) rfl
  have b : ∀ h : Group, g.KeepsAll h → s.Frame (s.setGroup r h) r g (fun _ => False) (fun _ => False) False False := fun h k =>
    .of (State.setGroup_outside _ _ _) (State.group?_setGroup_self _ e) k
  unfold State.switchPoint
  simp only [e]
  split
  · exact .of (.refl _ _) e (Group.KeepsAll.refl g)
  · split
    · exact b _ (a _)
    · exact b _ (a _)
    · exact b _ ((a none).then_all (Group.switched_keeps _ _ _))

/-- The safe point after a forced rotation stops the group or leaves it. -/
theorem State.safePoint_frame {s : State} {r : GrpRef} {sp : Option Mask} {t : Team} {g : Group} (e : s.group? r = some (t, g)) :
    s.Frame (s.safePoint r sp) r g (fun _ => False) (fun _ => False) False False := by
  unfold State.safePoint
  simp only [e]
  split
  · exact .of (State.setGroup_outside _ _ _) (State.group?_setGroup_self _ e) (Group.KeepsAll.of_flow (f := id) (List.map_id _).symm (by simp) rfl)
  · exact .of (.refl _ _) e (Group.KeepsAll.refl g)

/-- A group that settles keeps all but its flow. -/
theorem State.settled_frame {s : State} {r : GrpRef} {sp : Option Mask} {t : Team} {g : Group} (e : s.group? r = some (t, g))
    (hs : g.Settles) : s.Frame (s.settled r sp) r g (fun _ => False) (fun _ => False) False False := by
  obtain ⟨k, hk⟩ := hs
  have a : s.Frame (s.setGroup r k) r g (fun _ => False) (fun _ => False) False False :=
    .of (State.setGroup_outside _ _ _) (State.group?_setGroup_self _ e) (Group.settle_keeps hk)
  unfold State.settled
  simp only [e, hk]
  split
  · exact a.then_all fun _ _ h => State.safePoint_frame h
  · split
    · exact a.then_all fun _ _ h => State.switchPoint_frame h
    · exact a

/-- Sequential flow past an instruction keeps all but the flow, where the threads stand as they did at the issue. -/
theorem Issue.seq_frame {x : Issue} {s : State} {t : Team} {g : Group} (e : s.group? x.g = some (t, g))
    (ha : StandAlike x.grp.threads g.threads) (hl : g.levels = x.grp.levels) (hp : g.pc = x.grp.pc) (hf : x.FlowsOn) :
    s.Frame (x.seq s) x.g g (fun _ => False) (fun _ => False) False False := by
  have hm : StandAlike (x.grp.mapActive fun t => { t with pc := x.next }).threads (g.mapActive fun t => { t with pc := x.next }).threads :=
    ha.map fun a b h1 h2 h3 => by rw [h1]; split <;> simp [*]
  have hc : (g.mapActive fun t => { t with pc := x.next }).converged = x.grp.converged := by
    have h1 : (g.mapActive fun t => { t with pc := x.next }).converged = (x.grp.mapActive fun t => { t with pc := x.next }).converged :=
      (hm.all fun a b h1 _ => by rw [h1]).symm
    rw [h1]
    unfold Group.converged Group.mapActive
    rw [List.all_map]
    congr 1
    funext y
    simp only [Function.comp]
    split <;> rfl
  have hk : g.KeepsAll { (g.mapActive fun t => { t with pc := x.next }) with pc := x.next } :=
    (Group.mapActive_keeps g (fun t => { t with pc := x.next }) fun _ => ⟨rfl, rfl, rfl, rfl⟩).then_all (Group.KeepsAll.of_pc _ _)
  have hle : g.atLoopEnd x.next = x.grp.atLoopEnd x.next := by
    unfold Group.atLoopEnd
    rw [hl, hp]
  unfold Issue.seq
  simp only [e]
  unfold Issue.FlowsOn Group.FlowsTo at hf
  rw [hle]
  split
  · rename_i h1
    rw [if_pos h1] at hf
    have : ({ (g.mapActive fun t => { t with pc := x.next }) with pc := x.next } : Group).converged = true := hc.trans hf
    rw [if_pos this]
    exact .of (State.setGroup_outside _ _ _) (State.group?_setGroup_self _ e) (hk.then_all (.of_flow (f := id) (by simp) (by simp) rfl))
  · rename_i h1
    rw [if_neg h1] at hf
    refine (State.Frame.of (State.setGroup_outside _ _ _) (State.group?_setGroup_self _ e) hk).then_all fun t h hh => ?_
    rw [State.group?_setGroup_self _ e] at hh
    obtain ⟨-, rfl⟩ := Prod.mk.injEq _ _ _ _ ▸ Option.some.inj hh
    exact State.settled_frame (State.group?_setGroup_self _ e) (Group.Settles.alike (by exact hm) hf)

/-! ## The writes of an instruction -/

theorem State.charge_outside (s : State) (c n : Nat) (r : GrpRef) : s.KeptOutside (s.charge c n) r := by
  constructor <;> first | (intros; rfl) | rfl | skip
  · intro t h
    exact ⟨t.groups, h, fun _ _ => rfl⟩
  · intro k
    simp only [State.charge, State.updCore, State.setCore, State.core, Sp.get_put]
    split
    · rename_i h
      subst h
      rfl
    · rfl

theorem State.uncur_outside (s : State) (r : GrpRef) : s.KeptOutside { s with cur := none } r := by
  constructor <;> first | (intros; rfl) | rfl | skip
  intro t h
  exact ⟨t.groups, h, fun _ _ => rfl⟩

/-- The issue of an instruction charges its core and lets the group run on. -/
theorem Group.issued_keeps (g : Group) (u : Bool) (hd : Hdr) (l : List (Nat × Nat)) (a b : Nat) :
    g.KeepsAll { (g.overtake u hd l).issued with ipc := a, readySince := b } ∧ StandAlike g.threads (g.overtake u hd l).issued.threads :=
  ⟨.of_flow (g := g) (h := { (g.overtake u hd l).issued with ipc := a, readySince := b }) (f := fun t => if t.mode == .active then { t with retired := t.retired + 1 } else t)
    rfl (fun x => by split <;> simp) rfl,
   (StandAlike.map_self (f := fun t => if t.mode == .active then { t with retired := t.retired + 1 } else t)
    (fun a => by split <;> simp) g.threads).symm⟩

theorem chargedState_outside (i : Instr) (p : Plan) (s : State) (r : GrpRef) (t : Team) (g : Group) :
    s.KeptOutside (chargedState i p s r t g) r :=
  ((State.uncur_outside s r).trans (State.charge_outside _ _ _ r)).trans (State.setGroup_outside _ _ _)

theorem chargedState_group {i : Instr} {p : Plan} {s : State} {r : GrpRef} {t : Team} {g : Group} (e : s.group? r = some (t, g)) :
    ∃ t', (chargedState i p s r t g).group? r = some (t', { (g.overtake p.u p.h p.dsts).issued with ipc := g.pc, readySince := s.time }) :=
  ⟨_, State.group?_setGroup_self (s := ({ s with cur := none } : State).charge t.core _) (t := t) (g := g) _ e⟩

/-! ## The exception counters -/

theorem Launch.find?_adjust_map {α β : Type} (m : Sp α) (i k : Nat) (f : α → α) (c : α → β) (h : ∀ a, c (f a) = c a) :
    ((m.adjust i f).find? k).map c = (m.find? k).map c := by
  rw [Sp.find?_adjust]
  split
  · rename_i h1
    subst h1
    cases m.find? i <;> simp [h]
  · rfl

theorem State.noteDue_outside (s : State) (slot : Nat) (r : GrpRef) : s.KeptOutside (s.noteDue slot) r := by
  unfold State.noteDue
  split
  · exact .refl _ _
  · rename_i l h
    constructor <;> first | (intros; rfl) | rfl | skip
    · intro t h
      exact ⟨t.groups, h, fun _ _ => rfl⟩
    · intro k
      simp only [Sp.find?_put]
      split
      · rename_i h1
        subst h1
        simp [h]
      · rfl

theorem State.updLaunch_outside (s : State) (slot : Nat) (f : Launch → Launch) (r : GrpRef)
    (h : ∀ l, ({ f l with counters := [], fired := [] } : Launch) = { l with counters := [], fired := [] }) : s.KeptOutside (s.updLaunch slot f) r := by
  constructor <;> first | (intros; rfl) | rfl | skip
  · intro t h
    exact ⟨t.groups, h, fun _ _ => rfl⟩
  · exact fun k => Launch.find?_adjust_map s.launches slot k f _ h

theorem State.addCount_outside (s : State) (slot n k : Nat) (r : GrpRef) : s.KeptOutside (s.addCount slot n k) r := by
  unfold State.addCount
  split
  · refine State.KeptOutside.trans ?_ (State.noteDue_outside _ _ _)
    exact State.updLaunch_outside _ _ _ _ fun _ => rfl
  · exact .refl _ _

theorem State.addCounts_outside (slot : Nat) (r : GrpRef) : ∀ (l : List (Nat × Nat)) (s : State), s.KeptOutside (s.addCounts slot l) r
  | [], s => .refl s r
  | (n, k) :: l, s => (State.addCount_outside s slot n k r).trans (State.addCounts_outside slot r l _)

theorem State.noteDue_teams (s : State) (slot : Nat) : (s.noteDue slot).teams = s.teams := by
  unfold State.noteDue
  split <;> rfl

theorem State.addCount_teams (s : State) (slot n k : Nat) : (s.addCount slot n k).teams = s.teams := by
  unfold State.addCount
  split
  · rw [State.noteDue_teams]; rfl
  · rfl

theorem State.addCounts_teams (slot : Nat) : ∀ (l : List (Nat × Nat)) (s : State), (s.addCounts slot l).teams = s.teams
  | [], _ => rfl
  | (n, k) :: l, s => (State.addCounts_teams slot l _).trans (State.addCount_teams s slot n k)

/-- Counting changes the counters, and what is due for them, alone. -/
theorem State.count_outside (s : State) (id : Nat) (l : List Nat) (r : GrpRef) : s.KeptOutside (s.count id l) r := by
  unfold State.count
  split
  · exact .refl _ _
  · split
    · exact .refl _ _
    · split
      · rename_i iv h
        constructor <;> first | (intros; rfl) | rfl | skip
        · intro t h
          exact ⟨t.groups, h, fun _ _ => rfl⟩
        · intro k
          simp only [Sp.find?_put]
          split
          · rename_i h1
            subst h1
            simp [h]
          · rfl
      · exact State.addCounts_outside _ _ _ _

theorem State.count_group (s : State) (id : Nat) (l : List Nat) (r : GrpRef) : (s.count id l).group? r = s.group? r := by
  unfold State.count
  split
  · rfl
  · split
    · rfl
    · split
      · rfl
      · unfold State.group?
        rw [State.addCounts_teams]

/-! ## The writes of registers -/

theorem Group.setTag_ne (g : Group) {d n : Nat} (t : Tag) (h : n ≠ d) : (g.setTag d t).tag n = g.tag n := by
  simp [Group.setTag, Group.tag, Sp.get_set, Ne.symm h]

theorem Thread.setReg_ne (t : Thread) {d n : Nat} (x : W32) (h : n ≠ d) : (t.setReg d x).reg n = t.reg n := by
  simp [Thread.setReg, Thread.reg, Sp.get_set, Ne.symm h]

theorem Group.setSreg_ne (g : Group) {d n : Nat} (x : W32) (h : n ≠ d) : (g.setSreg d x).sreg n = g.sreg n := by
  simp [Group.setSreg, Group.sreg, Sp.get_set, Ne.symm h]

/-- A run of writes to registers `d` to `d + k - 1` of one thread. -/
theorem Thread.setRegs_spec (ws : List W32) (d : Nat) : ∀ (l : List Nat) (t : Thread) (n : Nat), (∀ j ∈ l, n ≠ d + j) →
    let u := l.foldl (fun (t : Thread) j => t.setReg (d + j) (ws.getD j 0)) t
    u.reg n = t.reg n ∧ u.tid = t.tid ∧ u.lane = t.lane ∧ u.p = t.p ∧ u.mode = t.mode ∧ u.pc = t.pc ∧ u.meet = t.meet
  | [], _, _, _ => ⟨rfl, rfl, rfl, rfl, rfl, rfl, rfl⟩
  | j :: l, t, n, h => by
    have h1 := Thread.setRegs_spec ws d l (t.setReg (d + j) (ws.getD j 0)) n fun i hi => h i (List.mem_cons_of_mem _ hi)
    simp only [List.foldl_cons]
    rw [Thread.setReg_ne _ _ (h j List.mem_cons_self)] at h1
    exact h1

/-- A run of writes to tags leaves the rest of the group. -/
theorem Group.setTags_spec (t : Tag) (d : Nat) : ∀ (l : List Nat) (g : Group), ∃ m, (l.foldl (fun (g : Group) j => g.setTag (d + j) t) g) =
    { g with tags := m } ∧ ∀ n, (∀ j ∈ l, n ≠ d + j) → Sp.get tagB32 m n = g.tag n
  | [], g => ⟨g.tags, rfl, fun _ _ => rfl⟩
  | j :: l, g => by
    obtain ⟨m, h1, h2⟩ := Group.setTags_spec t d l (g.setTag (d + j) t)
    refine ⟨m, by simp only [List.foldl_cons]; rw [h1]; rfl, fun n hn => ?_⟩
    rw [h2 n fun i hi => hn i (List.mem_cons_of_mem _ hi), Group.setTag_ne _ _ (hn j List.mem_cons_self)]

theorem not_inSpan {d k n : Nat} (h : ¬ inSpan false d k n) : ∀ j ∈ List.range k, n ≠ d + j := by
  intro j hj he
  rw [List.mem_range] at hj
  exact h ⟨rfl, by omega, by omega⟩

/-- Writing results leaves every other register and tag, and everything else of the group but its latches. -/
theorem Group.writeV_keeps (g : Group) (w : Bool) (d k : Nat) (tag : Tag) (rs : List (Nat × Res)) :
    g.Keeps (g.writeV w d k tag rs) (inSpan w d k) (fun _ => False) False False ∧
      StandAlike g.threads (g.writeV w d k tag rs).threads ∧ (g.writeV w d k tag rs).levels = g.levels ∧ (g.writeV w d k tag rs).pc = g.pc := by
  cases w with
  | true =>
    refine ⟨⟨fun _ _ => rfl, fun _ _ => rfl, fun _ _ => rfl, fun _ => rfl, fun _ => rfl, rfl, rfl, rfl, rfl, rfl, ⟨rfl, rfl⟩, ⟨rfl, rfl⟩⟩, ?_, rfl, rfl⟩
    exact .refl _
  | false =>
    obtain ⟨m, h1, h2⟩ := Group.setTags_spec tag d (List.range k) g
    unfold Group.writeV
    simp only [Bool.false_eq_true, if_false, h1]
    refine ⟨⟨fun n hn => ?_, fun n hn => h2 n (not_inSpan hn), fun _ _ => rfl, fun _ => ?_, fun _ => rfl, rfl, rfl, rfl, rfl, rfl, ⟨rfl, rfl⟩,
      ⟨rfl, rfl⟩⟩, ?_, trivial, trivial⟩
    · rw [List.map_map]
      congr 1
      funext x
      simp only [Function.comp]
      split
      · have := Thread.setRegs_spec (Res.words ‹_›) d (List.range k) x n (not_inSpan hn)
        simp only at this
        rw [this.1, this.2.1, this.2.2.1]
      · rfl
    · rw [List.map_map]
      congr 1
      funext x
      simp only [Function.comp]
      split
      · have := Thread.setRegs_spec (Res.words ‹_›) d (List.range k) x (d + k) fun j hj => by rw [List.mem_range] at hj; omega
        simp only at this
        rw [this.2.1, this.2.2.2.1]
      · rfl
    · refine (StandAlike.map_self (fun x => ?_) g.threads).symm
      split
      · have := Thread.setRegs_spec (Res.words ‹_›) d (List.range k) x (d + k) fun j hj => by rw [List.mem_range] at hj; omega
        exact this.2.2.2.2
      · exact ⟨rfl, rfl, rfl⟩

theorem Group.setSregs_spec (vs : List W32) (d : Nat) : ∀ (l : List Nat) (g : Group), ∃ m, (l.foldl (fun (g : Group) j => g.setSreg (d + j) (vs.getD j 0)) g) =
    { g with s := m } ∧ ∀ n, (∀ j ∈ l, n ≠ d + j) → Sp.get 0 m n = g.sreg n
  | [], g => ⟨g.s, rfl, fun _ _ => rfl⟩
  | j :: l, g => by
    obtain ⟨m, h1, h2⟩ := Group.setSregs_spec vs d l (g.setSreg (d + j) (vs.getD j 0))
    refine ⟨m, by simp only [List.foldl_cons]; rw [h1]; rfl, fun n hn => ?_⟩
    rw [h2 n fun i hi => hn i (List.mem_cons_of_mem _ hi), Group.setSreg_ne _ _ (hn j List.mem_cons_self)]

/-- The same for the uniform registers. -/
theorem Group.writeU_keeps (g : Group) (w sel : Bool) (d k : Nat) (r : List W32) :
    g.Keeps (g.writeU w sel d k r) (fun _ => False) (inSpan (w || !sel) d k) False False ∧
      (g.writeU w sel d k r).threads = g.threads ∧ (g.writeU w sel d k r).levels = g.levels ∧ (g.writeU w sel d k r).pc = g.pc := by
  unfold Group.writeU
  cases h : (w || !sel) with
  | true =>
    simp only [if_true]
    exact ⟨⟨fun _ _ => rfl, fun _ _ => rfl, fun _ _ => rfl, fun _ => rfl, fun _ => rfl, rfl, rfl, rfl, rfl, rfl, ⟨rfl, rfl⟩, ⟨rfl, rfl⟩⟩, trivial, trivial, trivial⟩
  | false =>
    simp only [Bool.false_eq_true, if_false]
    obtain ⟨m, h1, h2⟩ := Group.setSregs_spec (if sel then r else (List.range k).map fun j => if w then 0 else g.sreg (d + j)) d (List.range k) g
    rw [h1]
    exact ⟨⟨fun _ _ => rfl, fun _ _ => rfl, fun n hn => h2 n (not_inSpan hn), fun _ => rfl, fun _ => rfl, rfl, rfl, rfl, rfl, rfl, ⟨rfl, rfl⟩,
      ⟨rfl, rfl⟩⟩, rfl, rfl, rfl⟩

/-- Writing a predicate bit leaves everything else. -/
theorem Group.writeP_keeps (g : Group) (i : Nat) (rs : List (Nat × Bool)) :
    g.Keeps (g.writeP i rs) (fun _ => False) (fun _ => False) True False ∧ StandAlike g.threads (g.writeP i rs).threads ∧
      (g.writeP i rs).levels = g.levels ∧ (g.writeP i rs).pc = g.pc := by
  refine ⟨⟨fun n _ => ?_, fun _ _ => rfl, fun _ _ => rfl, fun h => absurd trivial h, fun _ => rfl, rfl, rfl, rfl, rfl, rfl, ⟨rfl, rfl⟩,
    ⟨rfl, rfl⟩⟩, (StandAlike.map_self (fun x => ?_) g.threads).symm, rfl, rfl⟩
  · unfold Group.writeP
    rw [List.map_map]
    congr 1
    funext x
    simp only [Function.comp]
    split <;> rfl
  · split <;> exact ⟨rfl, rfl, rfl⟩

/-! ## A whole instruction -/

/-- An instruction that changes its group in one way and then flows on in sequence: what it keeps is what that change keeps. -/
theorem onGroup_frame {i : Instr} {p : Plan} {s u : State} {r : GrpRef} {w : W32 × W32} {t : Team} {g : Group} {f : Group → Group}
    {v z : Nat → Prop} {a b : Prop} (h : AtIssue s r w t g) (hf : (issueOf i p s r w t g).FlowsOn)
    (hk : ∀ g : Group, g.Keeps (f g) v z a b ∧ StandAlike g.threads (f g).threads ∧ (f g).levels = g.levels ∧ (f g).pc = g.pc)
    (ho : ((issueOf i p s r w t g).s.updGroup r f).KeptOutside u r) (hu : u.group? r = ((issueOf i p s r w t g).s.updGroup r f).group? r) :
    s.Frame ((issueOf i p s r w t g).seq u) r g v z a b := by
  obtain ⟨t', h1⟩ := chargedState_group (i := i) (p := p) h.resident
  obtain ⟨k1, k2⟩ := Group.issued_keeps g p.u p.h p.dsts g.pc s.time
  obtain ⟨k3, k4, k5, k6⟩ := hk { (g.overtake p.u p.h p.dsts).issued with ipc := g.pc, readySince := s.time }
  have h2 : u.group? r = some (_, f { (g.overtake p.u p.h p.dsts).issued with ipc := g.pc, readySince := s.time }) := hu.trans (State.group?_updGroup_self f h1)
  refine State.Frame.then_all (.of (((chargedState_outside i p s r t g).trans (State.updGroup_outside _ _ _)).trans ho) h2 (k1.then_keeps k3))
    fun t2 g2 e2 => ?_
  rw [h2] at e2
  obtain ⟨-, rfl⟩ := Prod.mk.injEq _ _ _ _ ▸ Option.some.inj e2
  exact Issue.seq_frame h2 (k2.trans k4) k5 k6 hf

end Sys2Proof.Machine
end

