-- ==== Sys2Proof/Laws/Memory.lean ====
section
/-! SUPPORT. Every operation over memory keeps its canonical form: ranges taken out of memory and put back. -/
namespace Sys2Proof.Machine
open Sys2Proof

variable {α : Type}

theorem Sp.rising_filter (q : Nat × α → Bool) : ∀ (m : Sp α) (lo : Nat), Sp.risingFrom lo m = true →
    Sp.risingFrom lo (List.filter q m) = true
  | [], _, _ => rfl
  | (k, v) :: r, lo, h => by
    simp only [Sp.risingFrom, Bool.and_eq_true, decide_eq_true_eq] at h
    rw [List.filter_cons]
    split
    · simp only [Sp.risingFrom, Bool.and_eq_true, decide_eq_true_eq]
      exact ⟨h.1, Sp.rising_filter q r (k + 1) h.2⟩
    · exact Sp.rising_filter q r lo (Sp.rising_mono r (by omega) h.2)

/-- Rising lists one after the other, the first below a bound that the second starts at, rise. -/
theorem Sp.rising_append : ∀ (m n : Sp α) (lo mid : Nat), lo ≤ mid → Sp.risingFrom lo m = true → (∀ p ∈ m, p.1 < mid) →
    Sp.risingFrom mid n = true → Sp.risingFrom lo (m ++ n) = true
  | [], n, _, _, hl, _, _, hn => Sp.rising_mono n hl hn
  | (k, v) :: r, n, lo, mid, hl, hm, hb, hn => by
    simp only [Sp.risingFrom, Bool.and_eq_true, decide_eq_true_eq, List.cons_append] at hm ⊢
    have hk : k < mid := hb (k, v) List.mem_cons_self
    exact ⟨hm.1, Sp.rising_append r n (k + 1) mid hk hm.2 (fun p hp => hb p (List.mem_cons_of_mem _ hp)) hn⟩

/-- Offsets moved up by a base rise from that base. -/
theorem Sp.rising_shift (b : Nat) : ∀ (m : Sp α) (lo : Nat), Sp.risingFrom lo m = true →
    Sp.risingFrom (b + lo) (m.map fun (o, v) => (b + o, v)) = true
  | [], _, _ => rfl
  | (k, v) :: r, lo, h => by
    simp only [Sp.risingFrom, Bool.and_eq_true, decide_eq_true_eq, List.map_cons] at h ⊢
    exact ⟨by omega, Sp.rising_shift b r (k + 1) h.2⟩

/-- Every key of a rising list is at or above its bound. -/
theorem Sp.le_of_rising : ∀ (m : Sp α) (lo : Nat), Sp.risingFrom lo m = true → ∀ p ∈ m, lo ≤ p.1
  | [], _, _, p, hp => absurd hp List.not_mem_nil
  | (k, v) :: r, lo, h, p, hp => by
    simp only [Sp.risingFrom, Bool.and_eq_true, decide_eq_true_eq] at h
    rcases List.mem_cons.1 hp with hp | hp
    · exact hp ▸ h.1
    · exact Nat.le_trans (by omega) (Sp.le_of_rising r (k + 1) h.2 p hp)

/-- A rising list whose keys are all at or above a bound rises from that bound. -/
theorem Sp.rising_of_le : ∀ (m : Sp α) (lo hi : Nat), Sp.risingFrom lo m = true → (∀ p ∈ m, hi ≤ p.1) →
    Sp.risingFrom hi m = true
  | [], _, _, _, _ => rfl
  | (k, v) :: r, lo, hi, h, hb => by
    simp only [Sp.risingFrom, Bool.and_eq_true, decide_eq_true_eq] at h ⊢
    exact ⟨hb (k, v) List.mem_cons_self, h.2⟩

theorem rising_risingPart : ∀ (c : Sp Byte) (lo : Nat), Sp.risingFrom lo (risingPart lo c) = true
  | [], _ => rfl
  | (o, b) :: r, lo => by
    unfold risingPart
    split
    · rename_i h
      simp [Sp.risingFrom, h, rising_risingPart r (o + 1)]
    · exact rising_risingPart r lo

/-- A list in order stands as it is. -/
theorem risingPart_self : ∀ (c : Sp Byte) (lo : Nat), Sp.risingFrom lo c = true → risingPart lo c = c
  | [], _, _ => rfl
  | (o, b) :: r, lo, h => by
    simp only [Sp.risingFrom, Bool.and_eq_true, decide_eq_true_eq] at h
    simp [risingPart, h.1, risingPart_self r (o + 1) h.2]

theorem Memory.wf_setCells (m : List Host.Cell) (lo n : Nat) (c : Sp Byte) (hm : Memory.wf m = true) : Memory.wf (setCells m lo n c) = true := by
  simp only [Memory.wf, Bool.and_eq_true, List.all_eq_true] at hm ⊢
  have hmid : Sp.risingFrom lo (((risingPart 0 c).filter fun (o, b) => decide (o < n) && b != 0).map fun (o, b) => (lo + o, b)) = true := by
    simpa using Sp.rising_shift lo _ 0 (Sp.rising_filter _ _ 0 (rising_risingPart c 0))
  have htop : Sp.risingFrom (lo + n) (m.filter fun (a, _) => decide (lo + n ≤ a)) = true :=
    Sp.rising_of_le _ 0 _ (Sp.rising_filter _ m 0 hm.1) (by simp)
  refine ⟨?_, ?_⟩
  · unfold setCells
    rw [List.append_assoc]
    refine Sp.rising_append _ _ 0 lo (Nat.zero_le lo) (Sp.rising_filter _ m 0 hm.1) (by simp) ?_
    refine Sp.rising_append _ _ lo (lo + n) (by omega) hmid ?_ htop
    simp only [List.mem_map, List.mem_filter, Bool.and_eq_true, decide_eq_true_eq]
    rintro p ⟨q, ⟨-, hq, -⟩, rfl⟩
    simp only
    omega
  · intro p hp
    simp only [setCells, List.mem_append, List.mem_filter, List.mem_map, Bool.and_eq_true] at hp
    rcases hp with (⟨hp, -⟩ | ⟨q, ⟨-, -, hq⟩, rfl⟩) | ⟨hp, -⟩
    · exact hm.2 p hp
    · exact hq
    · exact hm.2 p hp

theorem rising_cellsOf (m : List Host.Cell) (lo n : Nat) (hm : Memory.wf m = true) : Sp.risingFrom 0 (cellsOf m lo n) = true := by
  simp only [Memory.wf, Bool.and_eq_true] at hm
  have h : ∀ (l : List Host.Cell) (a : Nat), lo ≤ a → Sp.risingFrom a l = true →
      Sp.risingFrom (a - lo) (l.map fun (a, b) => (a - lo, b)) = true := by
    intro l
    induction l with
    | nil => exact fun _ _ _ => rfl
    | cons p r ih =>
      obtain ⟨k, v⟩ := p
      intro a ha hr
      simp only [Sp.risingFrom, Bool.and_eq_true, decide_eq_true_eq, List.map_cons] at hr ⊢
      refine ⟨by omega, ?_⟩
      have := ih (k + 1) (by omega) hr.2
      rwa [show k + 1 - lo = k - lo + 1 by omega] at this
  have hf := Sp.rising_of_le _ 0 lo (Sp.rising_filter (fun (a, _) => decide (lo ≤ a) && decide (a < lo + n)) m 0 hm.1) (by
    simp only [List.mem_filter, Bool.and_eq_true, decide_eq_true_eq]
    exact fun p hp => hp.2.1)
  simpa [cellsOf] using h _ lo (Nat.le_refl lo) hf

end Sys2Proof.Machine
end

