-- ==== Sys2Proof/Laws/PerInstr.lean ====
section
/-! SUPPORT. The family `Encoding`, one lemma for each constructor: an instruction's words are as many as R37 counts. -/
namespace Sys2Proof.Laws

/-- The words of some fields are as many as the fields take (R37). -/
theorem encodeRaw_length (r : Raw) : (encodeRaw r).length = r.words := by
  obtain ⟨u, sp, long, code, w, d, a, b, x, imm, eng⟩ := r
  cases long <;> cases sp <;> cases h : hasImm code <;> cases k : isEng u code <;> simp [encodeRaw, Raw.words, h, k]

/-- The words of an instruction are as many as it takes (R37); a step of the package takes none. -/
theorem encode_length (i : Instr) : (encode i).length = i.words := by
  unfold encode Instr.words
  split
  · rfl
  · split <;> simp [encodeRaw_length]

/-- The family: an instruction has as many words as R37 counts for it. -/
def Encoding.Statement (i : Instr) : Prop := (encode i).length = i.words

namespace Encoding

theorem nop (o : Alu) : Statement (.nop o) := encode_length _
theorem nopU (o : Alu) : Statement (.nopU o) := encode_length _
theorem mov (o : Alu) : Statement (.mov o) := encode_length _
theorem movU (o : Alu) : Statement (.movU o) := encode_length _
theorem iadd (o : Alu) : Statement (.iadd o) := encode_length _
theorem iaddU (o : Alu) : Statement (.iaddU o) := encode_length _
theorem isub (o : Alu) : Statement (.isub o) := encode_length _
theorem isubU (o : Alu) : Statement (.isubU o) := encode_length _
theorem imul (o : Alu) : Statement (.imul o) := encode_length _
theorem imulU (o : Alu) : Statement (.imulU o) := encode_length _
theorem imulh (o : Alu) : Statement (.imulh o) := encode_length _
theorem imulhU (o : Alu) : Statement (.imulhU o) := encode_length _
theorem imulhu (o : Alu) : Statement (.imulhu o) := encode_length _
theorem imulhuU (o : Alu) : Statement (.imulhuU o) := encode_length _
theorem imin (o : Alu) : Statement (.imin o) := encode_length _
theorem iminU (o : Alu) : Statement (.iminU o) := encode_length _
theorem imax (o : Alu) : Statement (.imax o) := encode_length _
theorem imaxU (o : Alu) : Statement (.imaxU o) := encode_length _
theorem iminu (o : Alu) : Statement (.iminu o) := encode_length _
theorem iminuU (o : Alu) : Statement (.iminuU o) := encode_length _
theorem imaxu (o : Alu) : Statement (.imaxu o) := encode_length _
theorem imaxuU (o : Alu) : Statement (.imaxuU o) := encode_length _
theorem and (o : Alu) : Statement (.and o) := encode_length _
theorem andU (o : Alu) : Statement (.andU o) := encode_length _
theorem or (o : Alu) : Statement (.or o) := encode_length _
theorem orU (o : Alu) : Statement (.orU o) := encode_length _
theorem xor (o : Alu) : Statement (.xor o) := encode_length _
theorem xorU (o : Alu) : Statement (.xorU o) := encode_length _
theorem shl (o : Alu) : Statement (.shl o) := encode_length _
theorem shlU (o : Alu) : Statement (.shlU o) := encode_length _
theorem shr (o : Alu) : Statement (.shr o) := encode_length _
theorem shrU (o : Alu) : Statement (.shrU o) := encode_length _
theorem sar (o : Alu) : Statement (.sar o) := encode_length _
theorem sarU (o : Alu) : Statement (.sarU o) := encode_length _
theorem icmp (o : Cmp) : Statement (.icmp o) := encode_length _
theorem icmpU (o : Cmp) : Statement (.icmpU o) := encode_length _
theorem icmpi (o : CmpImm) : Statement (.icmpi o) := encode_length _
theorem sel (o : Alu) : Statement (.sel o) := encode_length _
theorem selU (o : Alu) : Statement (.selU o) := encode_length _
theorem fadd (o : Alu) : Statement (.fadd o) := encode_length _
theorem fsub (o : Alu) : Statement (.fsub o) := encode_length _
theorem fmul (o : Alu) : Statement (.fmul o) := encode_length _
theorem fmin (o : Alu) : Statement (.fmin o) := encode_length _
theorem fmax (o : Alu) : Statement (.fmax o) := encode_length _
theorem fcmp (o : Cmp) : Statement (.fcmp o) := encode_length _
theorem rcp (o : Alu) : Statement (.rcp o) := encode_length _
theorem rsq (o : Alu) : Statement (.rsq o) := encode_length _
theorem exp2 (o : Alu) : Statement (.exp2 o) := encode_length _
theorem log2 (o : Alu) : Statement (.log2 o) := encode_length _
theorem ld (o : Ld) : Statement (.ld o) := encode_length _
theorem ldU (o : Ld) : Statement (.ldU o) := encode_length _
theorem st (o : St) : Statement (.st o) := encode_length _
theorem stU (o : St) : Statement (.stU o) := encode_length _
theorem lds (o : Ld) : Statement (.lds o) := encode_length _
theorem sts (o : St) : Statement (.sts o) := encode_length _
theorem lxch (o : Mode) : Statement (.lxch o) := encode_length _
theorem poll (o : Mode) : Statement (.poll o) := encode_length _
theorem bra (o : Bra) : Statement (.bra o) := encode_length _
theorem braNodiv (o : Bra) : Statement (.braNodiv o) := encode_length _
theorem meet (o : Jmp) : Statement (.meet o) := encode_length _
theorem exit (o : Alu) : Statement (.exit o) := encode_length _
theorem exitU (o : Alu) : Statement (.exitU o) := encode_length _
theorem popc (o : Alu) : Statement (.popc o) := encode_length _
theorem popcU (o : Alu) : Statement (.popcU o) := encode_length _
theorem clz (o : Alu) : Statement (.clz o) := encode_length _
theorem clzU (o : Alu) : Statement (.clzU o) := encode_length _
theorem lea (o : Alu) : Statement (.lea o) := encode_length _
theorem leaU (o : Alu) : Statement (.leaU o) := encode_length _
theorem iabs (o : Alu) : Statement (.iabs o) := encode_length _
theorem iabsU (o : Alu) : Statement (.iabsU o) := encode_length _
theorem ineg (o : Alu) : Statement (.ineg o) := encode_length _
theorem fabs (o : Alu) : Statement (.fabs o) := encode_length _
theorem fneg (o : Alu) : Statement (.fneg o) := encode_length _
theorem ldv (o : Ld) : Statement (.ldv o) := encode_length _
theorem stv (o : St) : Statement (.stv o) := encode_length _
theorem atom (o : Atm) : Statement (.atom o) := encode_length _
theorem atomU (o : Atm) : Statement (.atomU o) := encode_length _
theorem pres (o : Ld) : Statement (.pres o) := encode_length _
theorem fint (o : Alu) : Statement (.fint o) := encode_length _
theorem not (o : Alu) : Statement (.not o) := encode_length _
theorem notU (o : Alu) : Statement (.notU o) := encode_length _
theorem brev (o : Alu) : Statement (.brev o) := encode_length _
theorem sin (o : Alu) : Statement (.sin o) := encode_length _
theorem cos (o : Alu) : Statement (.cos o) := encode_length _
theorem tanh (o : Alu) : Statement (.tanh o) := encode_length _
theorem sqrt (o : Alu) : Statement (.sqrt o) := encode_length _
theorem movi (o : Imm) : Statement (.movi o) := encode_length _
theorem moviU (o : Imm) : Statement (.moviU o) := encode_length _
theorem iaddi (u : Bool) (o : Imm) : Statement (.iaddi u o) := encode_length _
theorem imuli (u : Bool) (o : Imm) : Statement (.imuli u o) := encode_length _
theorem andi (u : Bool) (o : Imm) : Statement (.andi u o) := encode_length _
theorem ori (u : Bool) (o : Imm) : Statement (.ori u o) := encode_length _
theorem fmuli (o : Imm) : Statement (.fmuli o) := encode_length _
theorem faddi (o : Imm) : Statement (.faddi o) := encode_length _
theorem fma (o : Alu) : Statement (.fma o) := encode_length _
theorem imac (o : Alu) : Statement (.imac o) := encode_length _
theorem imacU (o : Alu) : Statement (.imacU o) := encode_length _
theorem iadd64 (o : Alu) : Statement (.iadd64 o) := encode_length _
theorem iadd64U (o : Alu) : Statement (.iadd64U o) := encode_length _
theorem isub64 (o : Alu) : Statement (.isub64 o) := encode_length _
theorem isub64U (o : Alu) : Statement (.isub64U o) := encode_length _
theorem bfx (o : Alu) : Statement (.bfx o) := encode_length _
theorem bfxU (o : Alu) : Statement (.bfxU o) := encode_length _
theorem bfi (o : Alu) : Statement (.bfi o) := encode_length _
theorem bfiU (o : Alu) : Statement (.bfiU o) := encode_length _
theorem fclass (o : Alu) : Statement (.fclass o) := encode_length _
theorem logistic (o : Alu) : Statement (.logistic o) := encode_length _
theorem cvt (o : Alu) : Statement (.cvt o) := encode_length _
theorem qnt (o : Alu) : Statement (.qnt o) := encode_length _
theorem dqn (o : Alu) : Statement (.dqn o) := encode_length _
theorem amax (o : Alu) : Statement (.amax o) := encode_length _
theorem cblk (o : Alu) : Statement (.cblk o) := encode_length _
theorem pfma (o : Alu) : Statement (.pfma o) := encode_length _
theorem padd (o : Alu) : Statement (.padd o) := encode_length _
theorem pmul (o : Alu) : Statement (.pmul o) := encode_length _
theorem atoms (o : Atm) : Statement (.atoms o) := encode_length _
theorem red (o : Atm) : Statement (.red o) := encode_length _
theorem lreduce (o : Mode) : Statement (.lreduce o) := encode_length _
theorem peers (o : Mode) : Statement (.peers o) := encode_length _
theorem regroup (o : Alu) : Statement (.regroup o) := encode_length _
theorem bdot (o : Alu) : Statement (.bdot o) := encode_length _
theorem ycvt (o : Alu) : Statement (.ycvt o) := encode_length _
theorem yadd (o : Alu) : Statement (.yadd o) := encode_length _
theorem ysub (o : Alu) : Statement (.ysub o) := encode_length _
theorem ymul (o : Alu) : Statement (.ymul o) := encode_length _
theorem ydiv (o : Alu) : Statement (.ydiv o) := encode_length _
theorem yneg (o : Alu) : Statement (.yneg o) := encode_length _
theorem yrec (o : Alu) : Statement (.yrec o) := encode_length _
theorem ysqr (o : Alu) : Statement (.ysqr o) := encode_length _
theorem yuni (o : Alu) : Statement (.yuni o) := encode_length _
theorem yint (o : Alu) : Statement (.yint o) := encode_length _
theorem ycmp (o : Alu) : Statement (.ycmp o) := encode_length _
theorem yhull (o : Alu) : Statement (.yhull o) := encode_length _
theorem ypack (o : Alu) : Statement (.ypack o) := encode_length _
theorem yunpk (o : Alu) : Statement (.yunpk o) := encode_length _
theorem ymid (o : Alu) : Statement (.ymid o) := encode_length _
theorem ytest (o : Alu) : Statement (.ytest o) := encode_length _
theorem ymap (o : Alu) : Statement (.ymap o) := encode_length _
theorem yfma (o : Alu) : Statement (.yfma o) := encode_length _
theorem msign (o : Mtx) : Statement (.msign o) := encode_length _
theorem mma (o : Mtx) : Statement (.mma o) := encode_length _
theorem tld (o : Tmem) : Statement (.tld o) := encode_length _
theorem tst (o : Tmem) : Statement (.tst o) := encode_length _
theorem tzero (o : Mtx) : Statement (.tzero o) := encode_length _
theorem tcvt (o : Mtx) : Statement (.tcvt o) := encode_length _
theorem tamax (o : Mtx) : Statement (.tamax o) := encode_length _
theorem mwait (o : Mtx) : Statement (.mwait o) := encode_length _
theorem bru (o : Bra) : Statement (.bru o) := encode_length _
theorem jmp (o : Jmp) : Statement (.jmp o) := encode_length _
theorem call (o : Jmp) : Statement (.call o) := encode_length _
theorem ret (o : Jind) : Statement (.ret o) := encode_length _
theorem jmpi (o : Jind) : Statement (.jmpi o) := encode_length _
theorem loop (o : Lop) : Statement (.loop o) := encode_length _
theorem loopi (o : Lop) : Statement (.loopi o) := encode_length _
theorem brk (o : Lop) : Statement (.brk o) := encode_length _
theorem yield (o : Alu) : Statement (.yield o) := encode_length _
theorem barSync (o : Mode) : Statement (.barSync o) := encode_length _
theorem barArrive (o : Mode) : Statement (.barArrive o) := encode_length _
theorem barWait (o : Mode) : Statement (.barWait o) := encode_length _
theorem gbar (o : Mode) : Statement (.gbar o) := encode_length _
theorem stgw (o : Mode) : Statement (.stgw o) := encode_length _
theorem stga (o : Mode) : Statement (.stga o) := encode_length _
theorem fence (o : Mode) : Statement (.fence o) := encode_length _
theorem part (o : Alu) : Statement (.part o) := encode_length _
theorem csrr (o : Alu) : Statement (.csrr o) := encode_length _
theorem csrw (o : Alu) : Statement (.csrw o) := encode_length _
theorem clk (o : Alu) : Statement (.clk o) := encode_length _
theorem burn (o : Alu) : Statement (.burn o) := encode_length _
theorem shunt (o : Alu) : Statement (.shunt o) := encode_length _
theorem curr (o : Alu) : Statement (.curr o) := encode_length _
theorem trap (o : Alu) : Statement (.trap o) := encode_length _
theorem launch (o : Alu) : Statement (.launch o) := encode_length _
theorem gwait (o : Alu) : Statement (.gwait o) := encode_length _
theorem wdog (o : Alu) : Statement (.wdog o) := encode_length _
theorem fcnt (o : Alu) : Statement (.fcnt o) := encode_length _
theorem cbld (o : Alu) : Statement (.cbld o) := encode_length _
theorem yring (o : Alu) : Statement (.yring o) := encode_length _
theorem ctime (o : Alu) : Statement (.ctime o) := encode_length _
theorem pref (o : Ld) : Statement (.pref o) := encode_length _
theorem lockl (o : Ld) : Statement (.lockl o) := encode_length _
theorem unlockl (o : Ld) : Statement (.unlockl o) := encode_length _
theorem cinv (o : Ld) : Statement (.cinv o) := encode_length _
theorem cwb (o : Ld) : Statement (.cwb o) := encode_length _
theorem opcl (o : Alu) : Statement (.opcl o) := encode_length _
theorem mset (o : Mtx) : Statement (.mset o) := encode_length _
theorem mstat (o : Mtx) : Statement (.mstat o) := encode_length _
theorem tagr (o : Alu) : Statement (.tagr o) := encode_length _
theorem tagw (o : Alu) : Statement (.tagw o) := encode_length _
theorem engShape (o : Eng) : Statement (.engShape o) := encode_length _
theorem engCopy (o : Eng) : Statement (.engCopy o) := encode_length _
theorem engPlane (o : Eng) : Statement (.engPlane o) := encode_length _
theorem engGather (o : Eng) : Statement (.engGather o) := encode_length _
theorem engScatter (o : Eng) : Statement (.engScatter o) := encode_length _
theorem engFill (o : Eng) : Statement (.engFill o) := encode_length _
theorem engUnplane (o : Eng) : Statement (.engUnplane o) := encode_length _
theorem engSend (o : Eng) : Statement (.engSend o) := encode_length _
theorem engRecv (o : Eng) : Statement (.engRecv o) := encode_length _
theorem engArm (o : Eng) : Statement (.engArm o) := encode_length _
theorem engCntrd (o : Eng) : Statement (.engCntrd o) := encode_length _
theorem engCntadd (o : Eng) : Statement (.engCntadd o) := encode_length _
theorem engReduce (o : Eng) : Statement (.engReduce o) := encode_length _
theorem engCancel (o : Eng) : Statement (.engCancel o) := encode_length _
theorem engWait (o : Eng) : Statement (.engWait o) := encode_length _
theorem engQuery (o : Eng) : Statement (.engQuery o) := encode_length _
theorem unassignedExtendedOpcode (u : Bool) (r : RawWords) : Statement (.unassignedExtendedOpcode u r) := encode_length _
theorem loopBack (g : GrpRef) : Statement (.loopBack g) := encode_length _
theorem loadDataReturn (l : LaneRef) : Statement (.loadDataReturn l) := encode_length _
theorem pageWalk (l : LaneRef) : Statement (.pageWalk l) := encode_length _
theorem faultResponse (l : LaneRef) : Statement (.faultResponse l) := encode_length _
theorem storeComplete (l : LaneRef) : Statement (.storeComplete l) := encode_length _
theorem tileOperationComplete (core : Nat) (op : Nat) : Statement (.tileOperationComplete core op) := encode_length _
theorem mmaComplete (core : Nat) : Statement (.mmaComplete core) := encode_length _
theorem mateAgreement (core : Nat) : Statement (.mateAgreement core) := encode_length _
theorem engineWriteProgress (op : Nat) : Statement (.engineWriteProgress op) := encode_length _
theorem engineOperationEnd (op : Nat) (overrun : Bool) : Statement (.engineOperationEnd op overrun) := encode_length _
theorem fetchFault (g : GrpRef) : Statement (.fetchFault g) := encode_length _
theorem mergeWindowClose (o : Origin) (id : Nat) : Statement (.mergeWindowClose o id) := encode_length _
theorem faultQueueRetry (o : Origin) (id : Nat) : Statement (.faultQueueRetry o id) := encode_length _
theorem firmwareFaultService : Statement .firmwareFaultService := encode_length _
theorem resume (word : W32) : Statement (.resume word) := encode_length _
theorem releaseAtHome (l : LaneRef) : Statement (.releaseAtHome l) := encode_length _
theorem acquireAtHome (l : LaneRef) : Statement (.acquireAtHome l) := encode_length _
theorem pull (die : Nat) (epoch : W32) : Statement (.pull die epoch) := encode_length _
theorem dispatchRequest (die : Nat) : Statement (.dispatchRequest die) := encode_length _
theorem teamStart (team : Nat) : Statement (.teamStart team) := encode_length _
theorem teamRetire (team : Nat) : Statement (.teamRetire team) := encode_length _
theorem gridRetire (launch : Nat) : Statement (.gridRetire launch) := encode_length _
theorem graphNodeFire (graph : Nat) : Statement (.graphNodeFire graph) := encode_length _
theorem gbarComplete (gang : Nat) (b : Nat) : Statement (.gbarComplete gang b) := encode_length _
theorem completionTimePassed (w : WaitRef) : Statement (.completionTimePassed w) := encode_length _
theorem barrierTimeout (team : Nat) : Statement (.barrierTimeout team) := encode_length _
theorem pairTimeout (core : Nat) : Statement (.pairTimeout core) := encode_length _
theorem estimatorWindowEnd (cluster : Nat) : Statement (.estimatorWindowEnd cluster) := encode_length _
theorem classChangeEnd (cluster : Nat) : Statement (.classChangeEnd cluster) := encode_length _
theorem forcedStop (team : Nat) : Statement (.forcedStop team) := encode_length _
theorem teamSaveEnd (team : Nat) : Statement (.teamSaveEnd team) := encode_length _
theorem teamRestore (team : Nat) (core : Nat) : Statement (.teamRestore team core) := encode_length _
theorem pairedSignature (team : Nat) : Statement (.pairedSignature team) := encode_length _
theorem counterIrq (launch : Nat) (counter : Nat) : Statement (.counterIrq launch counter) := encode_length _
theorem windowAck (ctx : Nat) : Statement (.windowAck ctx) := encode_length _
theorem groupBoost (g : GrpRef) : Statement (.groupBoost g) := encode_length _
theorem issueLimitSwitch (g : GrpRef) : Statement (.issueLimitSwitch g) := encode_length _
theorem faultServiceTimeout (o : Origin) (id : Nat) : Statement (.faultServiceTimeout o id) := encode_length _
theorem noRecvTimeout (op : Nat) : Statement (.noRecvTimeout op) := encode_length _
theorem chunkLanding (c : Chunk) : Statement (.chunkLanding c) := encode_length _
theorem peerUnreachable (op : Nat) : Statement (.peerUnreachable op) := encode_length _
theorem homeSlotUnreachable (l : SlotRef) : Statement (.homeSlotUnreachable l) := encode_length _
theorem homeEpochAgePull (line : Nat) (die : Nat) : Statement (.homeEpochAgePull line die) := encode_length _
theorem dirtyByteDeadline (die : Nat) (line : Nat) : Statement (.dirtyByteDeadline die line) := encode_length _
theorem scrub (p : Protected) (f : Flaw) : Statement (.scrub p f) := encode_length _
theorem preemptionRequest (launch : Nat) : Statement (.preemptionRequest launch) := encode_length _
theorem powerIntervalEnd (m : Measure) : Statement (.powerIntervalEnd m) := encode_length _
theorem hotSpotMigration (cluster : Nat) (temps : List Nat) : Statement (.hotSpotMigration cluster temps) := encode_length _
theorem hotSpotStepUp (cluster : Nat) : Statement (.hotSpotStepUp cluster) := encode_length _
theorem arrivalReport (peer : Nat) (grp : Nat) (number : Nat) (time : Nat) (saved : Nat) : Statement (.arrivalReport peer grp number time saved) := encode_length _
theorem budgetMessage (watts : Nat) : Statement (.budgetMessage watts) := encode_length _
theorem errorIrq (unit : Nat) : Statement (.errorIrq unit) := encode_length _
theorem dieFailure (die : Nat) : Statement (.dieFailure die) := encode_length _
theorem memorySideDieFailure (home : Nat) : Statement (.memorySideDieFailure home) := encode_length _
theorem ioDieFailure : Statement .ioDieFailure := encode_length _
theorem coreFailure (core : Nat) : Statement (.coreFailure core) := encode_length _
theorem dawn (inp : DawnInput) : Statement (.dawn inp) := encode_length _
theorem dawnPtpWaitExpiry : Statement .dawnPtpWaitExpiry := encode_length _
theorem ptpSync (offset : Int) : Statement (.ptpSync offset) := encode_length _
theorem ptpHoldover : Statement .ptpHoldover := encode_length _
theorem keepalive : Statement .keepalive := encode_length _
theorem linkLoss (ep : Nat) : Statement (.linkLoss ep) := encode_length _
theorem connectionRequest (ep : Nat) (mode : BitVec 2) : Statement (.connectionRequest ep mode) := encode_length _
theorem unknownMessage (r : Req) (type : BitVec 16) : Statement (.unknownMessage r type) := encode_length _
theorem status (r : Req) : Statement (.status r) := encode_length _
theorem attest (r : Req) (nonce : BitVec 256) : Statement (.attest r nonce) := encode_length _
theorem semClaim (r : Req) : Statement (.semClaim r) := encode_length _
theorem semRelease (r : Req) : Statement (.semRelease r) := encode_length _
theorem contextCreate (r : Req) (ctx : Nat) (area : Nat) (quotas : List Nat) : Statement (.contextCreate r ctx area quotas) := encode_length _
theorem contextEnd (r : Req) : Statement (.contextEnd r) := encode_length _
theorem window (r : Req) (n : BitVec 3) (w0 w1 w2 w3 : W64) : Statement (.window r n w0 w1 w2 w3) := encode_length _
theorem faultRoute (r : Req) (claim : Bool) : Statement (.faultRoute r claim) := encode_length _
theorem recordFree (r : Req) (first : Nat) (count : Nat) : Statement (.recordFree r first count) := encode_length _
theorem plierrovLaunch (r : Req) (packet : List W64) : Statement (.plierrovLaunch r packet) := encode_length _
theorem threshold (r : Req) (launch : Nat) (counter : Nat) (thr : Nat) : Statement (.threshold r launch counter thr) := encode_length _
theorem graphLoad (r : Req) (graph : Nat) (nodes : List (List W64)) (edges : List W64) : Statement (.graphLoad r graph nodes edges) := encode_length _
theorem graphPush (r : Req) (graph : Nat) (edge : Nat) (tokens : Nat) : Statement (.graphPush r graph edge tokens) := encode_length _
theorem rmaRead (r : Req) (va : W64) (len : Nat) : Statement (.rmaRead r va len) := encode_length _
theorem rmaWrite (r : Req) (va : W64) (data : List Byte) : Statement (.rmaWrite r va data) := encode_length _
theorem rmaAtomic (r : Req) (va : W64) (kind : BitVec 4) (wide : Bool) (operand compare : W64) : Statement (.rmaAtomic r va kind wide operand compare) := encode_length _
theorem ptSet (r : Req) (home : Nat) (level : Nat) (page : Nat) (expect new : W64) : Statement (.ptSet r home level page expect new) := encode_length _
theorem migrate (r : Req) (home : Nat) (level : Nat) (page : Nat) (new : W64) : Statement (.migrate r home level page new) := encode_length _
theorem reclaim (r : Req) (home : Nat) (level : Nat) (page : Nat) : Statement (.reclaim r home level page) := encode_length _
theorem faultResume (r : Req) (word : W32) : Statement (.faultResume r word) := encode_length _
theorem limits (r : Req) (b : LimitsBody) : Statement (.limits r b) := encode_length _
theorem partition (r : Req) (clusters : List (BitVec 16)) (target : Nat) : Statement (.partition r clusters target) := encode_length _
theorem clusterMap (r : Req) (die : Nat) (map : List Nat) : Statement (.clusterMap r die map) := encode_length _
theorem errorStatus (r : Req) (thresholds : Option (List Nat)) : Statement (.errorStatus r thresholds) := encode_length _
theorem msConfigPtroot (r : Req) (unit : Nat) (value : W64) : Statement (.msConfigPtroot r unit value) := encode_length _
theorem msConfigLease (r : Req) (unit : Nat) (value : W64) : Statement (.msConfigLease r unit value) := encode_length _
theorem msConfigPeertab (r : Req) (unit : Nat) (slot : Nat) (value : W64) : Statement (.msConfigPeertab r unit slot value) := encode_length _
theorem msConfigPoolb (r : Req) (unit : Nat) (value : W64) : Statement (.msConfigPoolb r unit value) := encode_length _
theorem msConfigPooll (r : Req) (unit : Nat) (value : W64) : Statement (.msConfigPooll r unit value) := encode_length _
theorem thermal (r : Req) (thresholds : List Nat) : Statement (.thermal r thresholds) := encode_length _
theorem peerTable (r : Req) (first : Nat) (entries : List (W64 × W64)) : Statement (.peerTable r first entries) := encode_length _
theorem portRetirement (port : Nat) : Statement (.portRetirement port) := encode_length _
theorem peerAccessArrival (a : PeerAccess) : Statement (.peerAccessArrival a) := encode_length _

end Encoding

end Sys2Proof.Laws
end

