-- ==== Sys2Proof/Laws/Touch.lean ====
section
/-! SUPPORT. What operations over memory and its caches do: they change bytes, homes, die L2s, fault stages and held accesses,
nothing else, and they keep memory in its canonical form. -/
namespace Sys2Proof.Machine
open Sys2Proof

/-- A state without what an operation over memory may change. -/
def State.rest (s : State) : State := { s with mem := [], ext := [], extPoison := [], homes := [], dies := [], stages := [], held := [], next := 0 }

/-- What an operation over memory does. -/
structure State.Touches (s u : State) : Prop where
  rest : u.rest = s.rest
  canonical : s.MemoryCanonical → u.MemoryCanonical

namespace State.Touches
variable {s u v : State}

theorem refl (s : State) : s.Touches s := ⟨rfl, id⟩
theorem trans (a : s.Touches u) (b : u.Touches v) : s.Touches v := ⟨b.rest.trans a.rest, b.canonical ∘ a.canonical⟩
theorem of_eq (hr : u.rest = s.rest) (hm : u.mem = s.mem) (he : u.ext = s.ext) : s.Touches u :=
  ⟨hr, fun h => by simpa only [State.MemoryCanonical, hm, he] using h⟩

theorem of_ite {c : Prop} [Decidable c] (a : s.Touches u) (b : s.Touches v) : s.Touches (if c then u else v) := by
  split
  · exact a
  · exact b

theorem time (a : s.Touches u) : u.time = s.time := congrArg (·.time) a.rest
theorem turns (a : s.Touches u) : u.turns = s.turns := congrArg (·.turns) a.rest
theorem cur (a : s.Touches u) : u.cur = s.cur := congrArg (·.cur) a.rest
theorem fresh (a : s.Touches u) : u.fresh = s.fresh := congrArg (·.fresh) a.rest
theorem badFrames (a : s.Touches u) : u.badFrames = s.badFrames := congrArg (·.badFrames) a.rest
theorem deadSlots (a : s.Touches u) : u.deadSlots = s.deadSlots := congrArg (·.deadSlots) a.rest
theorem draws (a : s.Touches u) : u.draws = s.draws := congrArg (·.draws) a.rest
theorem peerAbsent (a : s.Touches u) : u.peerAbsent = s.peerAbsent := congrArg (·.peerAbsent) a.rest
theorem cores (a : s.Touches u) : u.cores = s.cores := congrArg (·.cores) a.rest
theorem columns (a : s.Touches u) : u.columns = s.columns := congrArg (·.columns) a.rest
theorem clusters (a : s.Touches u) : u.clusters = s.clusters := congrArg (·.clusters) a.rest
theorem io (a : s.Touches u) : u.io = s.io := congrArg (·.io) a.rest
theorem memOps (a : s.Touches u) : u.memOps = s.memOps := congrArg (·.memOps) a.rest
theorem contexts (a : s.Touches u) : u.contexts = s.contexts := congrArg (·.contexts) a.rest
theorem launches (a : s.Touches u) : u.launches = s.launches := congrArg (·.launches) a.rest
theorem graphs (a : s.Touches u) : u.graphs = s.graphs := congrArg (·.graphs) a.rest
theorem gangs (a : s.Touches u) : u.gangs = s.gangs := congrArg (·.gangs) a.rest
theorem teams (a : s.Touches u) : u.teams = s.teams := congrArg (·.teams) a.rest
theorem saved (a : s.Touches u) : u.saved = s.saved := congrArg (·.saved) a.rest
theorem intervals (a : s.Touches u) : u.intervals = s.intervals := congrArg (·.intervals) a.rest
theorem ops (a : s.Touches u) : u.ops = s.ops := congrArg (·.ops) a.rest
theorem out (a : s.Touches u) : u.out = s.out := congrArg (·.out) a.rest
theorem net (a : s.Touches u) : u.net = s.net := congrArg (·.net) a.rest

end State.Touches

/-! ## Parts of the state that hold no bytes -/

theorem State.updHome_touches (s : State) (h : Nat) (f : Home → Home) : s.Touches (s.updHome h f) := .of_eq rfl rfl rfl
theorem State.setHome_touches (s : State) (h : Nat) (x : Home) : s.Touches (s.setHome h x) := .of_eq rfl rfl rfl
theorem State.updDie_touches (s : State) (d : Nat) (f : Die → Die) : s.Touches (s.updDie d f) := .of_eq rfl rfl rfl
theorem State.setSlice_touches (s : State) (line : Nat) (x : HomeLine) : s.Touches (s.setSlice line x) := .of_eq rfl rfl rfl
theorem State.setL2_touches (s : State) (die line : Nat) (x : L2Line) : s.Touches (s.setL2 die line x) := .of_eq rfl rfl rfl
theorem State.setRec_touches (s : State) (o : Origin) (id : Nat) (r : FaultRec) : s.Touches (s.setRec o id r) := .of_eq rfl rfl rfl

/-! ## Tables and frames (R75 to R78) -/

theorem State.setEntry_touches (s : State) (h a e : Nat) : s.Touches (s.setEntry h a e) := by
  unfold State.setEntry
  split
  · exact ⟨rfl, fun c => ⟨Memory.wf_writeBytes _ _ _ c.1, c.2⟩⟩
  · exact ⟨rfl, fun c => ⟨c.1, Memory.wf_writeBytes _ _ _ c.2⟩⟩

theorem State.touch_touches (s : State) (ia : Nat) (l : Leaf) (write : Bool) : s.Touches (s.touch ia l write) := s.setEntry_touches ..

theorem State.setFrame_touches (s : State) (ia : Nat) (l : Leaf) (bs : List Byte) : s.Touches (s.setFrame ia l bs) := by
  unfold State.setFrame
  split
  · exact ⟨rfl, fun c => ⟨Memory.wf_writeBytes _ _ _ c.1, c.2⟩⟩
  · exact ⟨rfl, fun c => ⟨c.1, Memory.wf_writeBytes _ _ _ c.2⟩⟩

theorem State.setFramePoison_touches (s : State) (ia : Nat) (l : Leaf) (p : BitVec 32) : s.Touches (s.setFramePoison ia l p) := by
  unfold State.setFramePoison
  exact .of_ite (.of_ite (.refl s) (s.updHome_touches ..)) (.of_ite (.refl s) (.of_eq rfl rfl rfl))

/-! ## Home slices (R136) -/

theorem State.flushSlice_touches (s : State) (line : Nat) : s.Touches (s.flushSlice line) := by
  unfold State.flushSlice
  dsimp only
  split
  · exact .refl s
  · split
    · exact ((s.setFrame_touches ..).trans (State.setFramePoison_touches ..)).trans (State.setSlice_touches ..)
    · exact .refl s

theorem State.evictSlice_touches (s : State) (line : Nat) : s.Touches (s.evictSlice line) :=
  (s.flushSlice_touches _).trans (State.setSlice_touches ..)

/-! ## Stages and writes at a home (R77, R91, R99) -/

theorem State.report_touches (s : State) (o : Origin) (r : FaultRec) (w : Waiter) : s.Touches (s.report o r w).1 := by
  unfold State.report
  split
  · exact s.setRec_touches ..
  · split
    · exact .refl s
    · exact s.setRec_touches ..

theorem State.keep_touches (s : State) (id : Nat) (a : HeldAccess) : s.Touches (s.keep id a) := .of_eq rfl rfl rfl

theorem State.holdAtHome_touches (s : State) (id ia ctx level : Nat) (wp peer : Bool) (access : BitVec 5) (a : HeldAccess) :
    s.Touches (s.holdAtHome id ia ctx level wp peer access a) := by
  unfold State.holdAtHome
  exact (s.keep_touches id a).trans (State.report_touches ..)

/-! ## What uses a way to make room, while that way touches no more than it may -/

section room
variable {room : State → Nat → State}

theorem State.fillWith_touches (h : ∀ (s : State) (l : Nat), s.Touches (room s l)) (s : State) (line : Nat) (l : Leaf) : s.Touches (s.fillWith room line l) := by
  unfold State.fillWith
  split
  · exact .refl s
  · exact .of_ite (h s line) ((h s line).trans (State.setSlice_touches ..))

theorem State.mergeWith_touches (h : ∀ (s : State) (l : Nat), s.Touches (room s l)) (s : State) (line : Nat) (l : Leaf) (mask : BitVec 256) (data : BitVec 2048)
    (p : BitVec 32) : s.Touches (s.mergeWith room line l mask data p).1 :=
  ((s.touch_touches ..).trans (State.fillWith_touches h ..)).trans (State.setSlice_touches ..)

theorem State.reachWith_touches (h : ∀ (s : State) (l : Nat), s.Touches (room s l)) (s : State) (id die line : Nat) (mask : BitVec 256) (data : BitVec 2048)
    (p : BitVec 32) (ctx since : Nat) (owner : Option Owed) : s.Touches (s.reachWith room id die line mask data p ctx since owner).1 := by
  unfold State.reachWith
  dsimp only
  split
  · split
    · exact s.holdAtHome_touches ..
    · split
      · exact s.keep_touches ..
      · exact (s.mergeWith_touches h ..).trans (State.keep_touches ..)
  · exact s.holdAtHome_touches ..
  · exact s.holdAtHome_touches ..
  · exact .of_eq rfl rfl rfl

theorem State.writeBackWith_touches (h : ∀ (s : State) (l : Nat), s.Touches (room s l)) (s : State) (die line : Nat) (mask : BitVec 256) (data : BitVec 2048)
    (p : BitVec 32) (ctx : Nat) (owner : Option Owed) : s.Touches (s.writeBackWith room die line mask data p ctx owner).1 := by
  unfold State.writeBackWith
  dsimp only
  split
  · exact .refl s
  · split
    · exact .of_eq rfl rfl rfl
    · exact .trans (.of_eq rfl rfl rfl : s.Touches { s with next := s.next + 1 }) (State.reachWith_touches h ..)

/-! ### The die L2 (R129 to R133, R183) -/

theorem State.cleanWith_touches (h : ∀ (s : State) (l : Nat), s.Touches (room s l)) (s : State) (die line ctx : Nat) (owner : Option Owed) :
    s.Touches (s.cleanWith room die line ctx owner).1 := by
  unfold State.cleanWith
  dsimp only
  split
  · exact .refl s
  · exact (s.setL2_touches ..).trans (State.writeBackWith_touches h ..)

theorem State.pullLinesWith_touches (h : ∀ (s : State) (l : Nat), s.Touches (room s l)) (die : Nat) (e : Option W32) :
    ∀ (l : List Nat) (s : State), s.Touches (s.pullLinesWith room die e l).1
  | [], s => .refl s
  | k :: r, s => by
    unfold State.pullLinesWith
    dsimp only
    split
    · exact (s.cleanWith_touches h die k 0 none).trans (pullLinesWith_touches h die e r _)
    · exact pullLinesWith_touches h die e r s

theorem State.pullWith_touches (h : ∀ (s : State) (l : Nat), s.Touches (room s l)) (s : State) (die : Nat) (e : Option W32) : s.Touches (s.pullWith room die e).1 := by
  unfold State.pullWith
  split
  · exact .refl s
  · exact State.pullLinesWith_touches h ..

theorem State.settleWith_touches (h : ∀ (s : State) (l : Nat), s.Touches (room s l)) (line : Nat) : ∀ (l : List Nat) (s : State), s.Touches (s.settleWith room line l)
  | [], s => .refl s
  | d :: r, s => by
    unfold State.settleWith
    dsimp only
    split
    · exact settleWith_touches h line r s
    · split
      · exact ((s.pullWith_touches h ..).trans (State.setSlice_touches ..)).trans (settleWith_touches h line r _)
      · exact (s.setSlice_touches ..).trans (settleWith_touches h line r _)

end room

/-- Room in a slice set is made by what the pulls for its records do, and by evictions (R136, R184). -/
theorem State.roomWith_touches : ∀ (n : Nat) (busy : List Nat) (s : State) (line : Nat), s.Touches (State.roomWith n busy s line)
  | n, busy, s, line => by
    unfold State.roomWith
    repeat' split
    all_goals first
      | exact s.evictSlice_touches _
      | exact .refl s
      | exact (State.settleWith_touches (fun u l => State.roomWith_touches _ _ u l) ..).trans (State.roomWith_touches ..)
theorem State.roomSlice_touches (s : State) (line : Nat) : s.Touches (s.roomSlice line) := State.roomWith_touches ..

theorem State.fillSlice_touches (s : State) (line : Nat) (l : Leaf) : s.Touches (s.fillSlice line l) := State.fillWith_touches State.roomSlice_touches ..
theorem State.homeMerge_touches (s : State) (line : Nat) (l : Leaf) (mask : BitVec 256) (data : BitVec 2048) (p : BitVec 32) :
    s.Touches (s.homeMerge line l mask data p).1 := State.mergeWith_touches State.roomSlice_touches ..
theorem State.writeBack_touches (s : State) (die line : Nat) (mask : BitVec 256) (data : BitVec 2048) (p : BitVec 32) :
    s.Touches (s.writeBack die line mask data p).1 := State.writeBackWith_touches State.roomSlice_touches ..
theorem State.cleanL2_touches (s : State) (die line ctx : Nat) (owner : Option Owed) : s.Touches (s.cleanL2 die line ctx owner).1 :=
  State.cleanWith_touches State.roomSlice_touches ..
theorem State.pull_touches (s : State) (die : Nat) (e : Option W32) : s.Touches (s.pull die e).1 := State.pullWith_touches State.roomSlice_touches ..
theorem State.settle_touches (s : State) (line : Nat) (l : List Nat) : s.Touches (s.settle line l) := State.settleWith_touches State.roomSlice_touches ..

theorem State.roomL2_touches (s : State) (die line : Nat) : s.Touches (s.roomL2 die line) := by
  unfold State.roomL2
  dsimp only
  split
  · exact .refl s
  · split
    · exact .refl s
    · exact (s.cleanL2_touches _ _ 0 none).trans (State.updDie_touches ..)

theorem State.grant_touches (s : State) (die line : Nat) (l : Leaf) (want : BitVec 4) : s.Touches (s.grant die line l want) := by
  unfold State.grant
  extract_lets s1 h till s2 y permit s3 x v fill
  refine .trans (?_ : s.Touches s3) ((State.setL2_touches ..).trans (State.updDie_touches ..))
  exact (((s.touch_touches ..).trans (State.roomL2_touches ..)).trans (s1.fillSlice_touches line l)).trans (s2.setSlice_touches ..)

theorem State.l2Write_touches (s : State) (die line : Nat) (mask : BitVec 256) (data : BitVec 2048) :
    s.Touches (s.l2Write die line mask data).1 := by
  unfold State.l2Write
  dsimp only
  refine .trans ?_ (State.setL2_touches ..)
  split
  · exact s.cleanL2_touches _ _ 0 none
  · exact .refl s

theorem State.pullLine_touches (line : Nat) : ∀ (l : List Nat) (s : State), s.Touches (s.pullLine line l).1
  | [], s => .refl s
  | d :: r, s => by
    unfold State.pullLine
    dsimp only
    refine .trans ?_ (pullLine_touches line r _)
    split
    · exact .refl s
    · exact s.cleanL2_touches _ _ 0 none

theorem State.gather_touches (s : State) (line : Nat) : s.Touches (s.gather line).1 := State.pullLine_touches ..

theorem State.hostWrite_touches : ∀ (fuel : Nat) (s : State) (ia : Nat) (bs : List Byte), s.Touches (s.hostWrite ia fuel bs)
  | 0, s, _, _ => .refl s
  | fuel + 1, s, ia, bs => by
    unfold State.hostWrite
    split
    · exact .refl s
    · exact ((s.gather_touches _).trans (State.writeBack_touches ..)).trans (hostWrite_touches fuel _ _ _)

/-! ## Releases (R156, R181 to R186) -/

theorem State.recordRelease_touches (s : State) (die line : Nat) : s.Touches (s.recordRelease die line) := by
  unfold State.recordRelease
  exact (s.setSlice_touches line _).trans (State.updDie_touches _ die _)

theorem State.flushForeign_touches : ∀ (l : List (Nat × HomeLine)) (s : State), s.Touches (s.flushForeign l)
  | [], s => .refl s
  | (k, x) :: r, s => by
    unfold State.flushForeign
    dsimp only
    refine .trans ?_ (flushForeign_touches r _)
    split
    · exact .refl s
    · split
      · split
        · exact .refl s
        · exact s.flushSlice_touches k
      · exact .refl s

theorem State.foldl_touches {α : Type} (f : State → α → State) (h : ∀ (u : State) (x : α), u.Touches (f u x)) :
    ∀ (l : List α) (s : State), s.Touches (l.foldl f s)
  | [], s => .refl s
  | x :: r, s => (h s x).trans (foldl_touches f h r (f s x))

theorem State.drain_touches (s : State) (die : Nat) (system : Bool) : s.Touches (s.drain die system).1 := by
  unfold State.drain
  dsimp only
  refine (s.pull_touches die none).trans ?_
  split
  · exact State.foldl_touches _ (fun u h => State.flushForeign_touches (u.home h).lines u) _ _
  · exact .refl _

end Sys2Proof.Machine
end

