-- ==== Sys2Proof/Tests/Slice0.lean ====
section
/-! SUPPORT. Tests: ill-formed terms refused, the spec's own words decoded, single steps with the spec's own numbers, and for each
statement with hypotheses a state that meets them. -/
set_option Elab.async false
namespace Sys2Proof.Tests
open Sys2Proof Sys2Proof.Machine

/-! ## Ill-formed terms, one for each check of WellFormed -/

def long : Hdr := { long := true }

theorem test_illformed_operands :
    [Instr.iadd { a := .reserved 7 }, .iadd { b := .reserved 0xC0 }, .sel { h := long, c := .reserved 0 }, .iadd { h := { guard := some ⟨false, 1⟩ } },
     .iadd { h := { sp := some ⟨129, 0, 0, 0, false, false, 0⟩ } }, .iadd { h := { sp := some ⟨0, 129, 0, 0, false, false, 0⟩ } },
     .iadd { c := .reg 1 }, .iadd { fmt := 2 }, .iadd { rnd := .rz }, .iadd { sat := true }, .iadd { var := 1 },
     .iadd { w := true, d := 1 }, .nop { w := true }, .sel {}, .regroup { h := long, w := true }, .movi { o := { c := .reg 1 } }].all
      (fun i => !i.wf) = true := by decide

theorem test_illformed_memory :
    [Instr.icmp { cond := 6 }, .icmp { c := .reg 1 }, .fcmp { fmt := 2 }, .icmpi { o := { cond := 7 } }, .ld { tag := 2 }, .ld { width := 3 },
     .ld { sx := true }, .ld { imm := true }, .ld { order := .acq }, .ld { scope := 1 }, .ld { a := .reserved 7 }, .ld { b := .reserved 7 },
     .st { h := long, d := 1 }, .st { val := .reg 1 }, .st { h := long, val := .reserved 7 }, .st { order := .rel }, .st { scope := 1 },
     .atom { c := .reg 1 }, .atom { kind := 1 }, .atom { wide := true }, .atom { order := .rel }, .atom { scope := 3 }, .atomU {}, .atoms {},
     .red { h := long, d := 1 }, .red { h := long, w := true }, .pref {}, .engCopy { cls := true }, .engSend {}, .engCopy { c := .reg 1 }].all
      (fun i => !i.wf) = true := by decide

theorem test_illformed_others :
    [Instr.lxch { c := 1 }, .poll { mode := 1 }, .gbar { scope := 3 }, .barSync { h := long, mode := 1 }, .barArrive { h := long }, .barWait {},
     .part { w := true }, .mma {}, .mma { h := long, d := 8 }, .tld {}, .tst { h := long, d := 8 }, .bra { h := { long := false, guard := some ⟨false, 0⟩ } },
     .braNodiv {}, .jmp { h := { guard := some ⟨false, 0⟩ } }, .ret { a := .reg 1 }, .ret { b := .reg 1 }, .jmpi { b := .reg 1 }, .jmpi { a := .reserved 7 },
     .loop { imm := 1 }, .loop { b := .reserved 7 }, .brk { imm := 1 }, .brk { len := 1 }, .exit { d := 1 }, .exitU { a := .reg 1 }, .yield { b := .reg 1 },
     .nop { a := .reg 1 }, .nopU { d := 1 }, .unassignedExtendedOpcode true ⟨0x3F000000, 0⟩, .unassignedExtendedOpcode false ⟨0x3F000000, 0x69000000⟩,
     .unassignedExtendedOpcode false ⟨0, 0x3F000000⟩].all (fun i => !i.wf) = true := by decide

/-! ## The spec's words (R388's table and the encodings of each chapter) -/

/-- The words decode to the instruction. -/
def reads (ws : List W32) (i : Instr) : Bool :=
  match decode ws with
  | .ok j => decide (j = i)
  | .error _ => false

/-- Guard p1. -/
def onP1 : Hdr := { long := true, guard := some ⟨false, 1⟩ }

theorem test_decode_tour :
    (reads [0xB80D0000, 0x3F000000] (.moviU { o := { d := 13 }, imm := 0x3F000000 }) &&
    reads [0x3A098600, 4] (.imuli false { o := { d := 9, a := .index }, imm := 4 }) &&
    reads [0x3D800A00, 0x40000000] (.fmuli { o := { w := true, a := .reg 10 }, imm := 0x40000000 }) &&
    reads [0x3E0A8000, 0x3F800000] (.faddi { o := { d := 10, a := .latch 0 }, imm := 0x3F800000 }) &&
    reads [0x24000002] (.meet { off := 2 }) && reads [0x23080001] (.bra { idx := 1, off := 1 }) &&
    reads [0x3F0A0ACD, 0x13008840] (.fadd { h := onP1, d := 10, a := .reg 10, b := .bcast 13, fmt := 2 }) &&
    reads [0x0D0E09CE] (.xor { d := 14, a := .reg 9, b := .bcast 14 }) &&
    reads [0xBE000400, 3] (.loopi { len := 4, imm := 3 })) = true := by decide

theorem test_decode_memory :
    (reads [0x3F0AC809, 0x1D020200] (.ld { h := long, d := 10, a := .bcast 8, b := .reg 9, tag := 2 }) &&
    reads [0x1D070409] (.ld { d := 7, a := .reg 4, b := .reg 9 }) &&
    reads [0x3F030203, 0x1F0001A0] (.lds { h := long, d := 3, a := .reg 2, b := .reg 3, width := 1, sx := true, imm := true }) &&
    reads [0x200A0984] (.sts { d := 10, a := .reg 9 }) && reads [0x1E0ACA09] (.st { d := 10, a := .bcast 10, b := .reg 9 }) &&
    reads [0x3F030406, 0x2F000013] (.atom { h := long, d := 3, a := .reg 4, b := .reg 6, order := .rel, scope := 3 }) &&
    reads [0x3F000406, 0x51000502] (.red { h := long, a := .reg 4, b := .reg 6, kind := 10, scope := 2 }) &&
    reads [0xBF000000, 0x21000023] (.fence { h := long, mode := 1, scope := 3 }) &&
    reads [0x30050984] (.pres { d := 5, a := .reg 9 }) && reads [0xB0040000] (.ctime { d := 4 }) &&
    reads [0xB71E080A, 0x0FC08003] (.engCopy { d := 30, a := .reg 8, b := .reg 10, imm := 3 })) = true := by decide

theorem test_decode_arithmetic :
    (reads [0x02010203] (.iadd { d := 1, a := .reg 2, b := .reg 3 }) && reads [0x82010203] (.iaddU { d := 1, a := .reg 2, b := .reg 3 }) &&
    reads [0x3F010203, 0x02000504] (.iadd { h := long, d := 1, a := .reg 2, b := .reg 3, fmt := 0x28, sat := true }) &&
    reads [0x112A0103] (.icmp { cond := 2, u := true, p := 2, a := .reg 1, b := .reg 3 }) &&
    reads [0x3F010203, 0x120C0000] (.sel { h := long, d := 1, a := .reg 2, b := .reg 3, c := .reg 12 }) &&
    reads [0x3F040506, 0x40070040] (.fma { h := long, d := 4, a := .reg 5, b := .reg 6, c := .reg 7, fmt := 2 }) &&
    reads [0x3F140A00, 0x48C500F6] (.cvt { h := long, d := 20, a := .reg 10, c := .bcast 5, fmt := 7, rnd := .rs, sat := true, var := 2 }) &&
    reads [0x3F080CC5, 0x490000E0] (.qnt { h := long, d := 8, a := .reg 12, b := .bcast 5, fmt := 7 }) &&
    reads [0xAE000805] (.cbld { a := .reg 8, b := .reg 5 }) && reads [0xBF800203, 0x4F000000] (.tagw { h := long, w := true, a := .reg 2, b := .reg 3 })) = true := by
  decide

theorem test_decode_control :
    (reads [0x3F080001, 0x23000001] (.braNodiv { h := long, idx := 1, off := 1 }) &&
    reads [0x9557FFFB] (.bru { neg := true, idx := 2, off := 0x7FFFB }) && reads [0x97000020] (.call { off := 0x20 }) &&
    reads [0x98000000] (.ret {}) && reads [0x99000800] (.jmpi { a := .reg 8 }) &&
    reads [0x9A200A03] (.loop { ctr := 1, len := 10, b := .reg 3 }) && reads [0x9B200000] (.brk { ctr := 1 }) &&
    reads [0x9C000000] (.yield {}) && reads [0x25000000] (.exit {}) && reads [0xB6000000] (.exitU {}) &&
    reads [0xA2030008] (.part { d := 3, b := .reg 8 }) && reads [0x21040506] (.lxch { d := 4, a := .reg 5, b := .reg 6 }) &&
    reads [0x3F040506, 0x21AB0020] (.lxch { h := long, d := 4, a := .reg 5, b := .reg 6, c := 0xAB, mode := 1 }) &&
    reads [0x3F060000, 0x22B00060] (.poll { h := long, d := 6, c := 0xB0, mode := 3 }) &&
    reads [0x3F070800, 0x52000300] (.lreduce { h := long, d := 7, a := .reg 8, mode := 24 }) &&
    reads [0x3F0A0B00, 0x53000000] (.peers { h := long, d := 10, a := .reg 11 }) &&
    reads [0x3F000200, 0x54000000] (.regroup { h := long, a := .reg 2 })) = true := by decide

theorem test_decode_matrix_and_rings :
    (reads [0x3F040001, 0x690000E4] (.mma { h := long, d := 4, a := .reg 0, b := .reg 1, fmt := 7, fusion := 1 }) &&
    reads [0x3F020406, 0x69070083] (.mma { h := long, d := 2, a := .reg 4, b := .reg 6, second := 7, fmt := 4, pair := true, var := true }) &&
    reads [0x3F00D484, 0x6A070083] (.tld { h := long, a := .bcast 20, tag := 7, space := 2, kc := 3 }) &&
    reads [0x3F04D484, 0x6B000000] (.tst { h := long, d := 4, a := .bcast 20 }) &&
    reads [0x3F040000, 0x6C000040] (.tzero { h := long, d := 4, fmt := 2 }) &&
    reads [0x3F040901, 0x6E000004] (.tamax { h := long, d := 4, a := .reg 9, b := .reg 1, fusion := 1 }) &&
    reads [0x3F000400, 0x68000000] (.msign { h := long, a := .reg 4 }) && reads [0xBF000407, 0x4C000000] (.mset { h := long, a := .reg 4, b := .reg 7 }) &&
    reads [0xAF030803] (.yring { d := 3, a := .reg 8, b := .reg 3 }) &&
    reads [0x3F080607, 0x57000561] (.yadd { h := long, d := 8, a := .reg 6, b := .reg 7, fmt := 0x2B, var := 1 }) &&
    reads [0x3F050404, 0x66000000] (.ymap { h := long, d := 5, a := .reg 4, b := .reg 4 })) = true := by decide

theorem test_decode_system :
    (reads [0xDD000000, 0x0B100000] (.barSync { h := { sp := some ⟨0x0B, 0x10, 0, 0, false, false, 0⟩ } }) &&
    reads [0xBF000003, 0x1D000020] (.barArrive { h := long, b := .reg 3, mode := 1 }) &&
    reads [0xBF000003, 0x1D000040] (.barWait { h := long, b := .reg 3, mode := 2 }) && reads [0x9E000001] (.gbar { b := .reg 1 }) &&
    reads [0x9F000205] (.stgw { a := .reg 2, b := .reg 5 }) && reads [0xBF000205, 0x20000020] (.stga { h := long, a := .reg 2, b := .reg 5, mode := 1 }) &&
    reads [0xAC000400] (.wdog { a := .reg 4 }) && reads [0xA6000400] (.burn { a := .reg 4 }) &&
    reads [0xA7060405] (.shunt { d := 6, a := .reg 4, b := .reg 5 }) && reads [0xA8070000] (.curr { d := 7 }) &&
    reads [0xAA0A0800] (.launch { d := 10, a := .reg 8 }) && reads [0xAB0C0A00] (.gwait { d := 12, a := .reg 10 }) &&
    reads [0xBF000500, 0x29008800] (.trap { h := onP1, a := .reg 5 }) && reads [0xA3041203] (.csrr { d := 4, a := .reg 0x12, b := .reg 3 }) &&
    reads [0xA4000B06] (.csrw { a := .reg 0x0B, b := .reg 6 }) && reads [0xA5060001] (.clk { d := 6, b := .reg 1 })) = true := by decide

theorem test_decode_refuses :
    (match decode [0x3F000000] with | .error .truncated => true | _ => false) = true ∧
    decodeTableWord 32 0x02010203 = some (.iadd { d := 1, a := .reg 2, b := .reg 3 }) ∧
    reads [0x3F000000, 0x3F000000] (.unassignedExtendedOpcode false ⟨0x3F000000, 0x3F000000⟩) = true := by decide

/-! ## A small state: one team of one group of two threads -/

def r0 : GrpRef := { team := 1, grp := 0 }

/-- Two threads at the placed program's first word, on lanes 0 and 1. -/
def two : List Thread := [{ tid := 0, lane := 0, pc := fetchPc }, { tid := 1, lane := 1, pc := fetchPc }]

/-- The placed program's machine, its team's group as `f` makes it of a fresh one, at the issue of an instruction. -/
def at_ (f : Group → Group) (k : Team → Team := id) (z : State → State := id) : State :=
  z { State.reset.withFetchWord 32 0 with
      turns := [], cur := some (r0, 0, 0),
      teams := [(1, k { fetchTeam 0 with groups := [(0, f { threads := two, pc := fetchPc })] })] }

def groupOf (f : Group → Group) : Group := f { threads := two, pc := fetchPc }
def teamOf (f : Group → Group) (k : Team → Team := id) : Team := k { fetchTeam 0 with groups := [(0, groupOf f)] }

def clear (p : Plan) (x : Issue) : Bool :=
  !p.illegal x && !maskIllegal x.team.k p.h && !p.srcs.any (srcIllegal p.u x.team.k) && !p.dsts.any (dstIllegal p.u x.team.k) && !p.operand x &&
    p.role x.grp.role && !x.latchInvalid (p.srcs.map (·.1)) && (x.pending p.srcs).isNone && (x.pending ((p.readable x).map (·.src))).isNone &&
    (!(p.readable x).any (·.illegal x) && !(p.readable x).any (·.operand x))

theorem clear_iff {p : Plan} {x : Issue} (h : clear p x = true) : p.Clear x := by
  simp only [clear, Bool.and_eq_true, Bool.not_eq_true', Option.isNone_iff_eq_none] at h
  obtain ⟨⟨⟨⟨⟨⟨⟨⟨⟨h1, h2⟩, h3⟩, h4⟩, h5⟩, h6⟩, h7⟩, h8⟩, h9⟩, h10⟩ := h
  exact ⟨h1, h2, h3, h4, h5, h6, h7, h8, h9, h10⟩

def settles (g : Group) : Bool := match g.settle with | .ok _ => true | .deadlock _ => false
theorem settles_iff {g : Group} (h : settles g = true) : g.Settles := by
  unfold settles at h; split at h
  · exact ⟨_, by assumption⟩
  · simp at h

def flows (x : Issue) : Bool :=
  if x.grp.atLoopEnd x.next then x.grp.converged else settles { (x.grp.mapActive fun t => { t with pc := x.next }) with pc := x.next }
theorem flows_iff {x : Issue} (h : flows x = true) : x.FlowsOn := by
  unfold flows at h; unfold Issue.FlowsOn Group.FlowsTo
  split <;> rename_i c
  · simpa [c] using h
  · rw [if_neg c] at h; exact settles_iff h

/-- The issue of `i` in the small state. -/
def issue (i : Instr) (p : Plan) (f : Group → Group) (k : Team → Team := id) (z : State → State := id) : Issue :=
  issueOf i p (at_ f k z) r0 (0, 0) (teamOf f k) (groupOf f)

/-- In the small state the issue of `i` passes its checks, and `ok` holds. -/
def acts (i : Instr) (p : Plan) (ok : Issue → Bool) (f : Group → Group := id) (k : Team → Team := id) (z : State → State := id) : Bool :=
  decide ((at_ f k z).cur = some (r0, 0, 0)) && decide ((at_ f k z).group? r0 = some (teamOf f k, groupOf f)) && clear p (issue i p f k z) && ok (issue i p f k z)

/-- The same, and flow goes on in sequence. -/
def meets (i : Instr) (p : Plan) (ok : Issue → Bool := fun _ => true) (f : Group → Group := id) (k : Team → Team := id) (z : State → State := id) : Bool :=
  acts i p (fun x => flows x && ok x) f k z

theorem acts_iff {i : Instr} {p : Plan} {ok : Issue → Bool} {f : Group → Group} {k : Team → Team} {z : State → State} (h : acts i p ok f k z = true) :
    ∃ s r w t g, AtIssue s r w t g ∧ p.Clear (issueOf i p s r w t g) ∧ ok (issueOf i p s r w t g) = true := by
  simp only [acts, Bool.and_eq_true, decide_eq_true_eq] at h
  obtain ⟨⟨⟨h1, h2⟩, h3⟩, h4⟩ := h
  exact ⟨at_ f k z, r0, (0, 0), teamOf f k, groupOf f, ⟨h1, h2⟩, clear_iff h3, h4⟩

/-- Such an issue is one that the statements about completion speak of. -/
theorem meets_iff {i : Instr} {p : Plan} {ok : Issue → Bool} {f : Group → Group} {k : Team → Team} {z : State → State} (h : meets i p ok f k z = true) :
    ∃ s r w t g, AtIssue s r w t g ∧ p.Clear (issueOf i p s r w t g) ∧ (issueOf i p s r w t g).FlowsOn ∧ ok (issueOf i p s r w t g) = true := by
  obtain ⟨s, r, w, t, g, h1, h2, h3⟩ := acts_iff h
  rw [Bool.and_eq_true] at h3
  exact ⟨s, r, w, t, g, h1, h2, flows_iff h3.1, h3.2⟩

/-- Every register of the group carries a tag. -/
def tagged (t : Tag) (g : Group) : Group := { g with tags := (List.range 16).foldl (fun m n => Sp.put m n t) [] }

def okay {α : Type} (e : Except Stop α) : Bool := match e with | .ok _ => true | .error _ => false
def tagsOk (x : Issue) (l : List ((Tag → Bool) × Src × Nat)) : Bool := (l.findSome? fun (ok, c) => x.classFail ok c).isNone
def vectorMeets (t : Tag) (i : Instr) : Bool :=
  match vectorOp i with
  | some (o, q) => meets i (q.plan false o) (fun x => tagsOk x (q.classes o) && okay (q.tie x)) (tagged t)
  | none => false
def uniformMeets (i : Instr) : Bool :=
  match uniformOp i with
  | some (o, q) => meets i (q.plan true o)
  | none => false

def v5 : Alu := { h := long, d := 4, a := .reg 2, b := .reg 6, c := .reg 8 }

/-- States that meet the hypotheses of IntegerLaneInstructionsComplete, and with those for FloatInstructionsComplete the ones of
VectorInstructionsKeepTheRest and of ResultsLandInTheSelectedLanes. -/
theorem witness_IntegerLaneInstructionsComplete :
    ([.mov v5, .sel { v5 with c := .reg 0 }, .iadd v5, .isub v5, .imul v5, .imulh v5, .imulhu v5, .imin v5, .imax v5, .iminu v5, .imaxu v5, .iabs v5, .ineg v5, .imac v5, .bdot v5,
      .iadd64 v5, .isub64 v5, .lea v5, .and v5, .or v5, .xor v5, .not v5, .shl v5, .shr v5, .sar v5, .popc v5, .clz v5, .brev v5, .bfx v5, .bfi v5,
      .movi { o := v5 }, .iaddi false { o := v5 }, .imuli false { o := v5 }, .andi false { o := v5 }, .ori false { o := v5 }] : List Instr).all (vectorMeets 0) = true := by
  decide +kernel

/-- The tag of F32. -/
def tF32 : Tag := mkTag 2 0
def f32 : Alu := { v5 with fmt := 2 }
def sfu : Alu := { h := long, d := 4, a := .reg 2, fmt := 2 }

/-- States that meet the hypotheses of UniformInstructionsComplete, and those of UniformInstructionsKeepTheRest. -/
theorem witness_UniformInstructionsComplete :
    ([.movU v5, .selU { v5 with c := .reg 0 }, .iaddU v5, .isubU v5, .imulU v5, .imulhU v5, .imulhuU v5, .iminU v5, .imaxU v5, .iminuU v5, .imaxuU v5, .iabsU v5, .imacU v5,
      .iadd64U v5, .isub64U v5, .leaU v5, .andU v5, .orU v5, .xorU v5, .notU v5, .shlU v5, .shrU v5, .sarU v5, .popcU v5, .clzU v5, .bfxU v5, .bfiU v5,
      .moviU { o := v5 }, .iaddi true { o := v5 }, .imuli true { o := v5 }, .andi true { o := v5 }, .ori true { o := v5 }] : List Instr).all uniformMeets = true := by
  decide +kernel

/-- States that meet the hypotheses of FloatInstructionsComplete. -/
theorem witness_FloatInstructionsComplete :
    ([.fadd f32, .fsub f32, .fmul f32, .fma f32, .fmuli { o := f32 }, .faddi { o := f32 }, .fmin f32, .fmax f32, .fabs f32, .fneg f32, .fint f32, .fclass f32,
      .rcp sfu, .rsq sfu, .exp2 sfu, .log2 sfu, .sin sfu, .cos sfu, .tanh sfu, .sqrt sfu, .logistic sfu] : List Instr).all (vectorMeets tF32) = true ∧
    ([.padd { v5 with fmt := 4 }, .pmul { v5 with fmt := 4 }, .pfma { v5 with fmt := 4 }] : List Instr).all (vectorMeets (mkTag 4 1)) = true := by
  decide +kernel

def cmp : Cmp := { h := long, cond := 1, p := 1, a := .reg 2, b := .reg 3 }

/-- States that meet the hypotheses of ComparesAndNopComplete, and of its compares and NOPs those of ComparesAndFlowKeepTheRest. -/
theorem witness_ComparesAndNopComplete :
    meets (.nop {}) (nopPlan {}) = true ∧ meets (.nopU {}) (nopUPlan {}) = true ∧ meets (.icmp cmp) (icmpPlan cmp) (tagsOk · (icmpClasses cmp)) = true ∧
    meets (.icmpU cmp) (icmpUPlan cmp) = true ∧ meets (.icmpi { o := cmp }) (icmpiPlan { o := cmp }) = true ∧
    meets (.fcmp { cmp with fmt := 2 }) (fcmpPlan { cmp with fmt := 2 }) (tagsOk · (fcmpClasses { cmp with fmt := 2 })) (tagged tF32) = true := by
  decide +kernel

def cvt0 : Alu := { h := long, d := 20, a := .reg 10, c := .bcast 5, fmt := 7, rnd := .rs, sat := true, var := 2 }
def qnt0 : Alu := { h := long, d := 8, a := .reg 12, b := .bcast 5, fmt := 7 }
def dqn0 : Alu := { h := long, d := 8, a := .reg 3, b := .bcast 5, fmt := 2 }
def amax0 : Alu := { h := long, d := 8, a := .reg 3, var := 1 }
def cblk0 : Alu := { h := long, d := 8, a := .reg 3 }


def tE4M3 : Tag := mkTag 7 2
def tCode : Tag := mkTag 0x0D 0

/-- States that meet the hypotheses of ConversionsComplete. -/
theorem witness_ConversionsComplete :
    meets (.cvt cvt0) (cvtPlan cvt0) (fun x => okay (widthCheck x cvt0.a (cvtSrc x cvt0)) && tagsOk x (cvtClasses x cvt0)) (tagged tF32) = true ∧
    meets (.qnt qnt0) (qntPlan qnt0) (fun x => okay (qntTags x qnt0) && tagsOk x [(clsScale (qnt0.var.getLsbD 0), qnt0.b, 1)]) (tagged tF32) = true ∧
    meets (.dqn dqn0) (dqnPlan dqn0) (fun x => x.tagOf dqn0.a == some tE4M3 && tagsOk x [(fun t => qntFormat (tagCode t), dqn0.a, 1)] && okay (x.classes [(clsScale false, dqn0.b, 1)])) (tagged tE4M3) = true ∧
    meets (.amax amax0) (amaxPlan amax0) (fun x => x.tagOf amax0.a == some tF32 && okay (widthCheck x amax0.a (amaxSrc tF32)) &&
      tagsOk x [(fun t => amaxFormat (tagCode t), amax0.a, amaxSrc tF32)]) (tagged tF32) = true ∧
    meets (.cblk cblk0) (cblkPlan cblk0) (fun x => x.tagOf cblk0.a == some tCode && okay (codebookOf x tCode)) (tagged tCode) id
      (fun s => s.updCore 0 fun c => { c with codebooks := [(0, some 0)] }) = true := by decide +kernel

/-- The instruction where its guard selects the group, and where it does not. -/
def sruns (c : Hdr → Instr × Plan) (ok : Issue → Bool := fun _ => true) (f : Group → Group := id) (k : Team → Team := id) (z : State → State := id) : Bool :=
  meets (c long).1 (c long).2 (fun x => x.selected && ok x) f k z && meets (c onP1).1 (c onP1).2 (fun x => !x.selected) f k z

/-- A ring of eight points in slot 0. -/
def ringed (s : State) : State := s.updCore 0 fun c => { c with rings := [(0, some { n := 8, points := [] })] }
def y0 : Alu := { h := long, d := 8, a := .reg 6, b := .reg 7 }
def tY16 : Tag := mkTag 0x2B 0
def tYC8 : Tag := mkTag 0x2D 0
def ringMeets (t : Tag) (q : Instr × Alu × YOp) : Bool := meets q.1 (q.2.2.plan q.2.1) (fun x => okay (yWork x q.2.1 q.2.2.ok q.2.2.srcs)) (tagged t) id ringed

def y1 : Alu := { h := long, d := 4, a := .reg 10, fmt := 0x2B }
def y2 : Alu := { h := long, d := 6, a := .reg 4, c := .reg 11 }
def y3 (h : Hdr) : Alu := { h := h, d := 3, a := .reg 8, b := .reg 3 }

/-- States that meet the hypotheses of RingInstructionsComplete. -/
theorem witness_RingInstructionsComplete : ([
    (([(.yadd y0, y0, yaddOp y0), (.ysub y0, y0, ysubOp y0), (.ymul y0, y0, ymulOp y0), (.ydiv y0, y0, ydivOp y0), (.yfma y0, y0, yfmaOp y0), (.yneg y0, y0, ynegOp y0),
        (.yrec y0, y0, yrecOp y0), (.ysqr y0, y0, ysqrOp y0), (.ymap { y0 with b := .reg 4 }, { y0 with b := .reg 4 }, ymapOp { y0 with b := .reg 4 }), (.yuni y0, y0, yuniOp y0),
        (.yint y0, y0, yintOp y0), (.yhull y0, y0, yhullOp y0), (.ymid y0, y0, ymidOp y0), (.ytest y0, y0, ytestOp y0), (.ycmp y0, y0, ycmpOp y0)] : List (Instr × Alu × YOp)).all (ringMeets tY16)),
    (ringMeets tYC8 (.yunpk y0, y0, yunpkOp y0)),
    (meets (.ycvt y1) (ycvtPlan y1) (fun x => tagsOk x [(ycvtClass, y1.a, 1)] && okay (ringOf x (ycvtTag y1))) (tagged tF32) id ringed),
    (meets (.ypack y2) (ypackPlan y2) (fun x => okay (yWork x y2 yMask [y2.a])) (tagged tY16) id ringed),
    (sruns (fun h => (.yring (y3 h), yringPlan (y3 h))) fun x => okay (yringCheck x (y3 x.h)) && okay x.gate)] : List Bool).all id = true := by decide +kernel

def m0 : Mode := { h := long, d := 4, a := .reg 6, b := .reg 8 }
def p0 : Mode := { h := long, d := 4 }
def e0 : Alu := { d := 3, b := .reg 8 }

/-- States that meet the hypotheses of LaneCrossingInstructionsComplete. -/
theorem witness_LaneCrossingInstructionsComplete : ([
    (meets (.lxch m0) (lxchPlan m0) (fun x => tagsOk x ((lxchSrcs m0).map fun p => (clsAny, p.1, 1)))),
    (meets (.poll p0) ((pollOp p0).plan p0) (fun x => tagsOk x (pollOp p0).tags)),
    (meets (.lreduce m0) ((lreduceOp m0).plan m0) (fun x => tagsOk x (lreduceOp m0).tags)),
    (meets (.peers m0) ((peersOp m0).plan m0) (fun x => tagsOk x (peersOp m0).tags)),
    (meets (.part e0) (partPlan e0))] : List Bool).all id = true := by decide +kernel

def jumps (x : Issue) (target : Nat) : Bool :=
  settles { (x.grp.mapActive fun t => { t with pc := target }) with pc := target, levels := endLevels target x.grp.levels }
def flowsTo (g : Group) (next : Nat) : Bool :=
  if g.atLoopEnd next then g.converged else settles { (g.mapActive fun t => { t with pc := next }) with pc := next }
def b0 : Bra := { idx := 1, off := 4 }
def j0 : Jmp := { off := 4 }
def on (p : List (BitVec 8)) (g : Group) : Group := { g with threads := (g.threads.zip p).map fun (t, q) => { t with p := q } }
def rg : Alu := { h := long, a := .reg 2 }

/-- States that meet the hypotheses of ControlFlowCompletes, and, of its branches, jumps and MEET, those of ComparesAndFlowKeepTheRest. -/
theorem witness_ControlFlowCompletes : ([
    ((meets (.bra b0) (braPlan b0) fun x => x.grp.active.all fun t => !braTaken b0 t)),
    (acts (.braNodiv b0) (braPlan b0) (fun x => !x.grp.active.isEmpty && x.grp.active.all (braTaken b0) && jumps x (braTarget b0 x.next)) (on [2, 2])),
    (acts (.bra b0) (braPlan b0) (fun x => (!x.grp.active.all fun t => !braTaken b0 t) && !x.grp.active.all (braTaken b0) && !braBarred false b0 x && settles (x.grp.parted b0 x.next)) (on [2, 0])),
    (acts (.meet j0) (meetPlan j0) fun x => flowsTo (x.grp.meetAt (jmpTarget j0 x.next)) x.next),
    (acts (.bru b0) (bruPlan b0) (fun x => (x.grp.q.getLsbD 1 != false) && jumps x (braTarget b0 x.next)) (fun g => { g with q := 2 })),
    (meets (.bru b0) (bruPlan b0) (fun x => (x.grp.q.getLsbD 1 != false) == false)),
    (acts (.jmp j0) (jmpPlan j0) fun x => jumps x (jmpTarget j0 x.next)),
    (acts (.jmpi { a := .reg 8 }) (jmpiPlan { a := .reg 8 }) fun x => (x.read64 groupThread (.reg 8)).toNat % 4 == 0 && jumps x (x.read64 groupThread (.reg 8)).toNat),
    (acts (.call j0) (callPlan j0) fun x => x.grp.converged && jumps x (jmpTarget j0 x.next)),
    (acts (.ret {}) (retPlan {}) (fun x => x.grp.converged && jumps x (x.grp.ret.headD 0)) (fun g => { g with ret := [0x1010] })),
    (acts (.exit {}) (exitPlan {}) fun x => x.grp.active.all x.selects && settles (x.grp.exit x.selects)),
    (acts (.exit { h := onP1 }) (exitPlan { h := onP1 }) (fun x => !x.grp.active.all x.selects && flowsTo (x.grp.exit x.selects) x.next) (on [2, 0])),
    (acts (.exitU {}) (exitUPlan {}) fun x => x.selected && settles (x.grp.exit fun _ => true)),
    (meets (.yield {}) (yieldPlan {})),
    (acts (.regroup rg) (regroupPlan rg) (fun x => tagsOk x [(clsInt, rg.a, 1)] && settles (x.grp.offer (fun t => x.read t rg.a 0) x.next none)))] : List Bool).all id = true := by decide +kernel

def lp : Lop := { ctr := 1, len := 4, b := .reg 3, imm := 2 }

/-- States that meet the hypotheses of LoopsComplete. -/
theorem witness_LoopsComplete : ([
    (meets (.loop lp) (loopPlan lp) (fun x => !loopIllegal x lp && x.grp.converged && loopCount lp x != 0) (fun g => { g with s := [(3, 2)] })),
    (acts (.loop lp) (loopPlan lp) (fun x => !loopIllegal x lp && x.grp.converged && loopCount lp x == 0 && flowsTo x.grp (lopStop lp x.next))),
    (meets (.loopi lp) (loopiPlan lp) (fun x => !loopIllegal x lp && x.grp.converged && lp.imm.toNat != 0)),
    (acts (.loopi { lp with imm := 0 }) (loopiPlan { lp with imm := 0 }) (fun x => !loopIllegal x lp && x.grp.converged && flowsTo x.grp (lopStop { lp with imm := 0 } x.next))),
    (acts (.brk { ctr := 1 }) (brkPlan { ctr := 1 }) (fun x => flowsTo { x.grp with levels := (brkLevels { ctr := 1 } x).tail } (brkStop { ctr := 1 } x)) (fun g => { g with levels := [{ ctr := 1, start := 0x1000, stop := 0x1010 }] }))] : List Bool).all id = true := by decide +kernel


/-! ## Memory -/

def memGrp (g : Group) : Group := { g with s := [(8, 0x2000)] }
def admits (x : Issue) (a : Access) : Bool :=
  match x.places a with
  | .ok ias => okay (x.unlocked a ias) && okay x.gate && okay (x.orderGate a.entry) && (x.slots.isEmpty || (okay (x.throughGate a.entry) && x.freeEntry.isSome))
  | .error _ => false
def ld0 : Ld := { d := 10, a := .bcast 8, b := .zero }
def ldu0 : Ld := { d := 10, a := .reg 8, b := .zero }
def st0 : St := { d := 10, a := .bcast 8, b := .zero }
def stu0 : St := { d := 10, a := .reg 8, b := .zero }
def atm0 : Atm := { h := long, d := 3, a := .bcast 8, b := .reg 6, scope := 2 }
def atmu0 : Atm := { h := long, d := 3, a := .reg 8, b := .reg 6, scope := 2 }
def red0 : Atm := { h := long, a := .bcast 8, b := .reg 6, scope := 2 }

/-- States that meet the hypotheses of GlobalAccessesAreSent, and those of GlobalAccessesReachMemoryLater. -/
theorem witness_GlobalAccessesAreSent : ([
    (meets (.ld ld0) (ldPlan false ld0) (fun x => tagsOk x (memClasses (ldPlan false ld0).srcs) && admits x (ldAccess ld0 x)) memGrp),
    (meets (.ldU ldu0) (ldPlan true ldu0) (fun x => admits x (ldAccess ldu0 x)) memGrp),
    (meets (.st st0) (stPlan false st0) (fun x => tagsOk x (memClasses (stPlan false st0).srcs) && admits x (stAccess st0 x)) memGrp),
    (meets (.stU stu0) (stPlan true stu0) (fun x => admits x (stAccess stu0 x)) memGrp),
    (meets (.atom atm0) (atomPlan false atm0) (fun x => tagsOk x (atmClasses 2 atm0) && !x.team.k.paired && admits x (atmAccess .atomic atm0 x)) memGrp),
    (meets (.atomU atmu0) (atomPlan true atmu0) (fun x => tagsOk x (atmClasses 2 atmu0) && !x.team.k.paired && admits x (atmAccess .atomic atmu0 x)) memGrp),
    (meets (.red red0) (redPlan red0) (fun x => tagsOk x (atmClasses 2 red0) && !x.team.k.paired && admits x (atmAccess .red red0 x)) memGrp)] : List Bool).all id = true := by decide +kernel

def lds0 : Ld := { d := 4, a := .reg 2 }
def sts0 : St := { d := 4, a := .reg 2 }
def all {α : Type} (e : Except Stop (List α)) (p : α → Bool) : Bool := match e with | .ok l => l.all p | .error _ => false
/-- A vault address of the team's own allocation in every lane. -/
def own (g : Group) : Group := { g with threads := g.threads.map fun t => { t with v := [(2, BitVec.ofNat 32 (2 ^ 29 + 8 * t.lane))] } }
def atms0 : Atm := { h := long, d := 3, a := .reg 2, b := .reg 6, scope := 0 }

/-- States that meet the hypotheses of LocalAccessesComplete, and those of LocalLoadsKeepTheRest. -/
theorem witness_LocalAccessesComplete : ([
    (meets (.lds lds0) (localPlan lds0 1) (fun x => tagsOk x (memClasses (localPlan lds0 1).srcs) && all (padsOf x lds0.a lds0.b lds0.imm 4) (fun _ => true) && okay x.gate && all (padsOf x lds0.a lds0.b lds0.imm 4) fun q => padsPresent x 4 [q] && okay (padsClear x 4 [q]))),
    (meets (.sts sts0) (stsPlan sts0) (fun x => tagsOk x (memClasses (stsPlan sts0).srcs) && all (padsOf x sts0.a sts0.b sts0.imm 4) (fun q => !padLocked x.s 4 q.2 && okay (padsClear x 4 [q])) && okay (localRelease x false (x.scope 0)))),
    (meets (.ldv lds0) (localPlan lds0 2) (fun x => tagsOk x (memClasses (localPlan lds0 2).srcs) && all (vaultsOf x lds0.a lds0.b lds0.imm 4) (fun q => !vaultLocked x 4 false q.2 && !x.vaultFlawed q.2.1 q.2.2 4) && okay x.gate) own),
    (meets (.stv sts0) (stvPlan sts0) (fun x => tagsOk x (memClasses (stvPlan sts0).srcs) && all (vaultsOf x sts0.a sts0.b sts0.imm 4) (fun q => !vaultLocked x 4 true q.2 && !stvForbidden x [q]) && okay (localRelease x false (x.scope 0))) own),
    (meets (.atoms atms0) (atomsPlan atms0) (fun x => tagsOk x (atmClasses 1 atms0) && all (padsOf x atms0.a .zero false 4) (fun q => !padLocked x.s 4 q.2 && okay (padsClear x 4 [q])) && okay (localRelease x false 0))),
    (meets (.pres lds0) (presPlan lds0) (fun x => tagsOk x (memClasses (presPlan lds0).srcs) && okay (presPlaces lds0 x) && okay x.gate))] : List Bool).all id = true := by decide +kernel

def mruns (c : Hdr → Instr × Plan) (ok : Issue → Bool := fun _ => true) (f : Group → Group := id) (k : Team → Team := id) (z : State → State := id) : Bool :=
  meets (c long).1 (c long).2 (fun x => x.acts && ok x) f k z && meets (c onP1).1 (c onP1).2 (fun x => !x.acts) f k z
def cc (d : BitVec 7) (h : Hdr) : Ld := { h := h, d := d, a := .reg 8 }
def fence0 (h : Hdr) : Mode := { h := h, mode := 1, scope := 3 }
def bar (h : Hdr) (m : BitVec 6) : Mode := { h := h, b := .reg 3, mode := m }
def later (s : State) : State := { s with time := 5 }

/-- States that meet the hypotheses of CacheControlCompletes, and those of CtimeReadsTheHorizon. -/
theorem witness_CacheControlCompletes : ([
    (meets (.pref (cc 0 long)) (cachePlan (cc 0 long) true [0, 2]) (fun x => okay x.gate) memGrp),
    (sruns (fun h => (.cinv (cc 0 h), cachePlan (cc 0 h) true [0])) (fun x => okay (cacheCheck x (cc 0 x.h)) && okay x.gate) memGrp),
    (sruns (fun h => (.cwb (cc 0 h), cachePlan (cc 0 h) true [0])) (fun x => okay (cacheCheck x (cc 0 x.h)) && okay x.gate) memGrp),
    (sruns (fun h => (.lockl (cc 4 h), cachePlan (cc 4 h) false [0])) (fun x => (match cacheCheck x (cc 4 x.h) with | .ok ia => !lockWaits x ia | _ => false) && okay x.gate) memGrp),
    (sruns (fun h => (.unlockl (cc 4 h), cachePlan (cc 4 h) false [0])) (fun x => okay (cacheCheck x (cc 4 x.h)) && okay x.gate) memGrp),
    (meets (.ctime { d := 4 }) (ctimePlan { d := 4 })),
    (sruns (fun h => (.fence (fence0 h), fencePlan (fence0 h))) (fun x => okay (fenceWaits (fence0 x.h) x)) (fun g => { memGrp g with drained := [fetchPc] }) id later)] : List Bool).all id = true := by decide +kernel

def gbar (h : Hdr) (m : BitVec 6) : Mode := { bar h m with scope := 1 }
def stg (h : Hdr) (m : BitVec 6) : Mode := { h := h, a := .reg 2, b := .reg 5, mode := m }
def rings (t : Team) : Team := { t with k := { t.k with stages := [{}, {}, { slots := 2 }] } }

/-- States that meet the hypotheses of BarriersComplete. -/
theorem witness_BarriersComplete : ([
    (acts (.barSync (bar long 0)) (barPlan (bar long 0) false) fun x => x.selected && x.grp.converged && okay (x.releaseGate 0) && x.arrivals.all fun t => !(x.team.bar 3).arrived.contains t),
    (acts (.barArrive (bar long 1)) (barPlan (bar long 1) true) fun x => x.selected && x.grp.converged && okay (x.releaseGate 0) && x.arrivals.all fun t => !(x.team.bar 3).arrived.contains t),
    (meets (.barSync (bar onP1 0)) (barPlan (bar onP1 0) false) fun x => !x.selected),
    (sruns (fun h => (.barWait (bar h 2), barPlan (bar h 2) true)) fun x => okay x.settledEntries),
    (acts (.gbar (gbar long 0)) (gbarPlan (gbar long 0)) (fun x => x.selected && x.gangBars.broken.isNone && x.grp.converged && okay (gbarWaits (gbar long 0) x) && x.gangArrivals.all fun t => !(x.gangBars.bars.get {} 3).arrived.contains t) id id later),
    (meets (.gbar (gbar long 2)) (gbarPlan (gbar long 2)) fun x => x.selected && x.gangBars.broken.isNone && okay x.settledEntries),
    (meets (.gbar (gbar onP1 0)) (gbarPlan (gbar onP1 0)) fun x => !x.selected),
    (sruns (fun h => (.stgw (stg h 0), stagePlan (stg h 0))) (fun x => okay (x.releaseGate 0)) id rings later),
    (sruns (fun h => (.stga (stg h 1), stagePlan (stg h 1))) (fun x => stageReady (stg x.h 1) x (stageSlot x (stg x.h 1))) id rings)] : List Bool).all id = true := by decide +kernel

def u0 (h : Hdr) : Alu := { h := h, d := 6, a := .reg 4, b := .reg 5 }
def one (h : Hdr) : Alu := { h := h, d := 6, a := .reg 4 }
def two0 (h : Hdr) : Alu := { h := h, a := .reg 4 }
def csrw0 (h : Hdr) : Alu := { h := h, a := .reg 0x0A, b := .reg 4 }
/-- A packet for one team of sixteen threads (R389). -/
def packet : List W64 :=
  [0x0100000000000000, 0x1000, 1, 0, BitVec.ofNat 64 (15 * 2 ^ 37 + 15 * 2 ^ 48 + 31 * 2 ^ 55)] ++ List.replicate 24 0 ++ [1, 1, 0]
def packed (s : State) : State := later { s with mem := writeBytes s.mem (stackAt 0 (fetchFrame + 0x2000)) (packet.flatMap fun w => leBytes 8 w.toNat) }
def launch0 (h : Hdr) : Alu := { h := h, d := 6, a := .reg 8 }
def cbld0 (h : Hdr) : Alu := { h := h, a := .reg 8, b := .reg 5 }
def launchOk (f : Launched → Bool) (x : Issue) : Bool :=
  !x.team.k.paired && (match checkGlobal x.context.windows (x.read64 groupThread (launch0 x.h).a).toNat 256 permR with | .ok ia => f (launchTry x ia) | _ => false)

/-- States that meet the hypotheses of SystemInstructionsComplete, and those of TrapRaisesSoftware. -/
theorem witness_SystemInstructionsComplete : ([
    (sruns (fun h => (.wdog (two0 h), wdogPlan (two0 h))) (fun x => x.ua (two0 x.h) == 0)),
    (meets (.wdog (two0 long)) (wdogPlan (two0 long)) (fun x => x.selected && x.ua (two0 long) == 1024) (fun g => {g with s := [(4, 1024)]})),
    (meets (.csrr (one long)) (csrrPlan (one long))),
    (sruns (fun h => (.csrw (csrw0 h), csrwPlan (csrw0 h))) (fun x => csrWritable 0x0A && (csrSet x.team 0x0A (x.read64 groupThread (csrw0 x.h).b)).isSome) (fun g => { g with s := [(4, 64)] })),
    (meets (.clk (one long)) (clkPlan (one long))),
    (meets (.clk {one long with a := .reg 0}) (clkPlan {one long with a := .reg 0})),
    (meets (.fcnt (one long)) (fcntPlan (one long)) (fun x => x.ua (one long) == 383 && x.countsDue.isNone) (fun g => { g with s := [(4, 383)] })),
    (sruns (fun h => (.burn (two0 h), burnPlan (two0 h))) (fun x => x.ua (two0 x.h) == 255) (fun g => { g with s := [(4, 255)] })),
    (meets (.curr { d := 7 }) (currPlan { d := 7 })),
    (sruns (fun h => (.shunt (u0 h), shuntPlan (u0 h))) (fun x => x.ua (u0 x.h) == 255 && x.ub (u0 x.h) == 4095) (fun g => { g with s := [(4, 255), (5, 4095)] })),
    (sruns (fun h => (.opcl (one h), opclPlan (one h))) (fun x => x.ua (one x.h) / 4 % 2 ^ 29 == 0) (fun g => { g with s := [(4, 1)] })),
    (sruns (fun h => (.gwait (one h), gwaitPlan (one h))) (fun x => gwaitStatus x (x.ua (one x.h)) == some 2)),
    (sruns (fun h => (.launch (launch0 h), launchPlan (launch0 h))) (fun x => launchOk (fun l => match l with | .accepted .. => true | _ => false) x && okay (x.releaseGate 3) && okay (x.writeThrough false)) (fun g => { memGrp g with drained := [fetchPc] }) id packed),
    (meets (.launch (launch0 long)) (launchPlan (launch0 long)) (fun x => x.selected && launchOk (fun l => match l with | .refused 4 _ => true | _ => false) x) memGrp id later),
    (acts (.trap (two0 long)) (trapPlan (two0 long)) Issue.selected),
    (meets (.trap (two0 onP1)) (trapPlan (two0 onP1)) (fun x => !x.selected)),
    (sruns (fun h => (.tagr (one h), tagrPlan (one h))) (fun x => okay (tagOld x (x.read groupThread (one x.h).a 0).toNat false)) (fun g => { g with s := [(4, 0x87)] })),
    (sruns (fun h => (.tagw (u0 h), tagwPlan (u0 h))) (fun x => okay (tagOld x (x.read groupThread (u0 x.h).a 0).toNat true)) (fun g => { g with s := [(4, 0x87)] })),
    (sruns (fun h => (.cbld (cbld0 h), cbldPlan (cbld0 h))) fun x => okay (cbldPlace (cbld0 x.h) x) && okay x.gate)] : List Bool).all id = true := by decide +kernel

def isOk {α : Type} (e : Except Stop α) (p : α → Bool) : Bool := match e with | .ok a => p a | .error _ => false
/-- A group of the matrix role, with an address in s20. -/
def mtx (g : Group) : Group := { g with role := .matrix, s := [(5, 64), (20, 0x2000)] }
/-- E4M3 operands in t0 and t1, an F32 accumulator in t4. -/
def tiled (s : State) : State := s.updCore 0 fun c => { c with tiles := [(0, { tag := mkTag 7 0 }), (1, { tag := mkTag 7 0 }), (4, { tag := tF32 })] }
def mset0 (h : Hdr) : Mtx := { h := h, a := .reg 15, b := .reg 5 }
def msign0 (h : Hdr) : Mtx := { h := h, a := .reg 15 }
def muster0 (t : Team) : Team := { t with musters := [(15, { expected := 1 })] }
def mstat0 : Mtx := { h := long, a := .reg 3, b := .reg 15 }
def mwait0 (b : BitVec 7) (h : Hdr) : Mtx := { h := h, a := .reg 15, b := .reg b }
def tm (space : BitVec 2) (tag : BitVec 6) (h : Hdr) : Tmem := { h := h, d := 4, a := .bcast (if space = 0 then 20 else 6), space := space, tag := tag }
def tzero0 (h : Hdr) : Mtx := { h := h, d := 4, fmt := 2 }
def tcvt0 (h : Hdr) : Mtx := { h := h, d := 2, a := .reg 4, b := .zero, fmt := 7 }
def tamax0 (h : Hdr) : Mtx := { h := h, d := 4, a := .reg 9, b := .reg 1, fusion := 1 }
def mma0 : Mtx := { h := long, d := 4, a := .reg 0, b := .reg 1, fmt := 7, fusion := 1 }
def mma1 : Mtx := { mma0 with var := true }

/-- States that meet the hypotheses of MatrixInstructionsComplete. -/
theorem witness_MatrixInstructionsComplete : ([
    (sruns (fun h => (.mset (mset0 h), msetPlan (mset0 h))) (fun x => (x.read groupThread (.reg 5) 0).toNat == 64) mtx),
    (mruns (fun h => (.msign (msign0 h), msignPlan (msign0 h))) (fun x => !x.tilesOut && !musterShut (x.team.muster 15) x.g.grp) mtx muster0),
    (meets (.mstat mstat0) (mstatPlan mstat0) (fun _ => true) mtx),
    ([0, 1].all fun b => mruns (fun h => (.mwait (mwait0 b h), mwaitPlan (mwait0 b h))) (mwaitDone (mwait0 b long)) mtx),
    (mruns (fun h => (.mwait (mwait0 2 h), mwaitPlan (mwait0 2 h))) (mwaitDone (mwait0 2 long)) mtx fun t => { t with musters := [(15, { expected := 1, count := 1 })] }),
    (mruns (fun h => (.tld (tm 0 7 h), tmemPlan (tm 0 7 h) true)) (fun x => okay (tileReach x (tm 0 7 x.h) permR false) && okay x.gate && okay (x.tileOrder [] [4]) && x.freeEntry.isSome) mtx),
    ([1, 2].all fun sp => mruns (fun h => (.tld (tm sp 7 h), tmemPlan (tm sp 7 h) true)) (fun x => isOk (tileRange x (sp == 2) (tmemAddr x (tm sp 7 x.h))) (fun b => x.s.present x.team.core b 4096) && okay x.gate && okay (x.tileOrder [] [4])) mtx),
    (mruns (fun h => (.tst (tm 0 0 h), tmemPlan (tm 0 0 h) false)) (fun x => okay (tileReach x (tm 0 0 x.h) permW true) && okay x.gate && okay (x.tileOrder [4] []) && x.freeEntry.isSome) mtx),
    ([1, 2].all fun sp => mruns (fun h => (.tst (tm sp 0 h), tmemPlan (tm sp 0 h) false)) (fun x => isOk (tileRange x (sp == 2) (tmemAddr x (tm sp 0 x.h))) (fun b => !tstLocked x b) && okay x.gate && okay (x.tileOrder [4] [])) mtx),
    (mruns (fun h => (.tzero (tzero0 h), tzeroPlan (tzero0 h))) (fun x => okay (x.tileOrder [] (tilesFrom 4 (tzeroTiles (tzero0 x.h))))) mtx),
    (mruns (fun h => (.tcvt (tcvt0 h), tcvtPlan (tcvt0 h))) (fun x => okay (accCheck x (tileOf (tcvt0 x.h).a)) && okay (x.tileOrder (tcvtWork (tcvt0 x.h) x).reads (tcvtWork (tcvt0 x.h) x).writes) && okay x.arrayRoom) mtx id tiled),
    (meets (.tcvt (tcvt0 onP1)) (tcvtPlan (tcvt0 onP1)) (fun x => !x.acts && okay (accCheck x (tileOf (tcvt0 x.h).a))) mtx id tiled),
    (mruns (fun h => (.tamax (tamax0 h), tamaxPlan (tamax0 h))) (fun x => okay (accCheck x (tamax0 x.h).d.toNat) && okay (x.tileOrder (tamaxWork (tamax0 x.h) x).reads (tamaxWork (tamax0 x.h) x).writes)) mtx id tiled),
    (meets (.tamax (tamax0 onP1)) (tamaxPlan (tamax0 onP1)) (fun x => !x.acts && okay (accCheck x 4)) mtx id tiled),
    (meets (.mma mma0) (mmaPlan mma0) (fun x => x.grp.agreed != some x.grp.pc && mmaReady x mma0 && okay (mmaFormats x mma0) && x.acts && !mmaStalls x mma0 && !mma0.pair) mtx id tiled),
    (meets (.mma mma0) (mmaPlan mma0) (fun x => x.grp.agreed == some x.grp.pc) (fun g => { mtx g with agreed := some fetchPc }) id tiled)] : List Bool).all id = true := by decide +kernel

def shape0 (h : Hdr) : Eng := { h := h, w := true, a := .reg 8, idx := 0x3F, imm := 15 }
def engReady (x : Issue) : Bool := !x.team.k.paired && okay x.settledEntries
def lenGrp (g : Group) : Group := { g with s := [(8, 64)] }
/-- Addresses in s8 and s10, and a shape of one row in slot 0. -/
def engGrp (g : Group) : Group := { g with s := [(8, 0x2000), (10, 0x4000), (12, 64)] }
def shaped (ws : List W32) (t : Team) : Team := { t with shapes := [(0, ws)] }
def eng (imm : BitVec 15) (h : Hdr) : Eng := { h := h, d := 30, a := .reg 8, b := .reg 10, idx := 0x3F, imm := imm }
def copies (q : CopyFn × BitVec 15 × List W32) : Bool :=
  let o := eng q.2.1
  sruns (fun h => (copyInstr q.1 (o h), copyPlan q.1 (o h)))
    (fun x => engReady x && match shapeAt x ((o x.h).imm.toNat % 16), pickEngine x (o x.h) with
      | some h, some e => (match copyOp x q.1 (o x.h) h e with | .ok op => (x.enter x.s (o x.h) op).isSome | _ => false)
      | _, _ => false) engGrp (shaped q.2.2)
def tok (h : Hdr) : Eng := { h := h, d := 30, a := .reg 12, b := .reg 11, idx := 0 }
/-- An ended operation's token in entry 0. -/
def ended (t : Team) : Team := { t with tokens := [(0, { gen := 0, ended := some (stDone, 0) })] }
def cnt (h : Hdr) : Eng := { h := h, d := 30, a := .reg 12, b := .reg 10, idx := 0x3F }
def arm0 (h : Hdr) : Eng := { cnt h with imm := 255 }
def coll (h : Hdr) : Eng := { h := h, cls := true, d := 30, a := .reg 8, b := .reg 10, idx := 0x3F }
def f32Row (t : Team) : Team := shaped [64, 0, 0, 0, 0, 0, 2, 0] t
def enters (x : Issue) (o : Eng) (op : Shape → Nat → List RangeHold → EngOp) (perm : Nat) (dst : Bool) (s : List RangeHold → State) : Bool :=
  match shapeAt x 0, pickEngine x o with
  | some h, some e => (match allHolds x .global [x.engAddr .global o.a] (h.len * h.rows) perm dst with | .ok d => (dst || !(s d).rangeHeld x.die d) && (x.enter (s d) o (op h e d)).isSome | _ => false)
  | _, _ => false

/-- States that meet the hypotheses of EngineInstructionsComplete. -/
theorem witness_EngineInstructionsComplete : ([
    (sruns (fun h => (.engShape (shape0 h), engShapePlan (shape0 h))) engReady lenGrp),
    (copies (.copy, 0, [64, 0, 0, 0, 0, 0, 0, 0])),
    (copies (.gather, 0, [64, 0, 0, 0, 0, 0, 8, 0])),
    (copies (.scatter, 0, [64, 0, 0, 0, 0, 0, 8, 0])),
    (copies (.fill, 0, [64, 0, 0, 0, 0, 0, 0, 0])),
    (copies (.plane, 0xC0, [16, 15, 16, 0, 0, 0, 7, 0])),
    (copies (.unplane, 0x30, [16, 15, 0, 0, 16, 0, 7, 0])),
    (sruns (fun h => (.engWait (tok h), tokenPlan (tok h))) (fun x => engReady x && match tokenNamed x (tok x.h) with | .error _ => true | _ => false) engGrp),
    (sruns (fun h => (.engWait (tok h), tokenPlan (tok h))) (fun x => engReady x && match tokenNamed x (tok x.h) with | .ok (_, k) => k.ended.isSome | _ => false) id ended),
    (sruns (fun h => (.engQuery (tok h), tokenPlan (tok h))) engReady),
    (sruns (fun h => (.engCancel (tok h), tokenPlan (tok h))) engReady),
    (sruns (fun h => (.engCntrd (cnt h), engCntrdPlan (cnt h))) engReady),
    (sruns (fun h => (.engCntadd (cnt h), engCntaddPlan (cnt h))) engReady),
    (sruns (fun h => (.engArm (arm0 h), engArmPlan (arm0 h))) (fun x => engReady x && (x.enter x.s (arm0 x.h) (x.engOp true 0x3F .copy)).isSome) fun g => { g with s := [(12, 255)] }),
    (sruns (fun h => (.engRecv (coll h), engRecvPlan (coll h))) (fun x => engReady x && enters x (coll x.h) (recvOp (coll x.h) x) permW true fun _ => x.s) engGrp f32Row),
    (sruns (fun h => (.engSend (coll h), engSendPlan (coll h))) (fun x => engReady x && enters x (coll x.h) (fun h e d => sendOp (coll x.h) x h e sendWork d (x.s.cleanRange x.die d).2) permR false fun d => (x.s.cleanRange x.die d).1) engGrp f32Row),
    (sruns (fun h => (.engReduce (coll h), engReducePlan (coll h))) (fun x => engReady x && enters x (coll x.h) (fun h e d => sendOp (coll x.h) x h e (reduceWork (coll x.h)) d (x.s.cleanRange x.die d).2) permR false fun d => (x.s.cleanRange x.die d).1) engGrp f32Row)] : List Bool).all id = true := by decide +kernel


/-! ## States for the package's steps -/

def base : State := at_ id id later
def l0 : LaneRef := { core := 0, entry := 0, lane := 0 }
def dataIa : Nat := 0x2000
/-- The small state, one entry in core 0's log with one lane. -/
def sent (kind : AccessKind) (stage : LaneStage) (f : LogEntry → LogEntry := id) (ia : Nat := dataIa) (z : State → State := id) : State :=
  z (base.updCore 0 fun c => { c with log := [(0, f { uid := 1, team := 1, ctx := 1, grps := [0], kind := kind, lanes := [{ lane := 0, ia := ia, stage := stage }] })] })
def laneMeets (s : State) (p : LogEntry → LogLane → Bool) : Bool := match s.laneGo l0 with | some (e, x) => p e x | none => false
def laneStands (s : State) (p : LogEntry → LogLane → Bool) : Bool := match s.laneAt l0 with | some (e, x) => x.waiting && p e x | none => false
/-- A line of the die's L2 with every sector, and a write permit. -/
def warm (s : State) : State := s.updDie 0 fun d => { d with lines := (List.range 16).map fun i => (lineOf dataIa + i, { valid := 15, permit := true, lease := 100 }) }
/-- The placed page on a HOST slot. -/
def onHost (s : State) : State :=
  { (s.updHome 0 fun h => { h with peertab := [(1, 0x8000000000000000)] }) with
    mem := writeBytes s.mem (stackAt 0 (fetchTable + 0x2000)) (leBytes 8 (3 * 2 ^ 61 + 2 ^ 52 + fetchFrame)), time := 100000000 }
def rel3 (e : LogEntry) : LogEntry := { e with order := .rel, scope := 3 }
def acq3 (e : LogEntry) : LogEntry := { e with order := .acq, scope := 3 }
def inInterval (s : State) : State := { s with intervals := [(1, {})] }

def oper (o : EngOp) (now : Nat := 5) : State := { base with ops := [(7, { o with team := 1, ctx := 1, windows := [fetchWindow] })], time := now }
def opMeets (s : State) (p : EngOp → Bool) : Bool := match s.ops.find? 7 with | some o => p o | none => false

/-- Those of a lane's clause of AccessStepsComplete. -/
def laneOf (kind : AccessKind) (stage : LaneStage) (p : State → LogEntry → LogLane → Bool) (f : LogEntry → LogEntry := id) (z : State → State := id) : Bool :=
  let s := sent kind stage f dataIa z
  laneMeets s fun e x => e.kind == kind && x.stage == stage && p s e x
def free (s : State) (e : LogEntry) (x : LogLane) : Bool := !s.heldStore e && !e.atHome x.ia && s.hits 0 e x

/-- States that meet the hypotheses of AccessStepsComplete. -/
theorem witness_AccessStepsComplete : ([
    (laneOf .load .sent fun s e x => !s.pageHeld x.ia && !e.homeRelease && !e.homeAcquire && !s.heldStore e && s.needsHome l0 e x),
    (laneOf .load .sent (fun s e x => s.foreign x.ia e.isWrite && decide (s.time ≥ x.sent + 100000000) && !s.heldStore e && s.needsHome l0 e x) id onHost),
    (let s := at_ id id onHost; match s.group? r0 with | some (t, g) => State.mayIssue t g && decide (s.time ≥ g.readySince + 100000000) && (s.fetchPage t g).isSome | none => false),
    (let s := onHost (oper { work := .copy, src := 0x2000, dst := 0x4000, len := 64 }); opMeets s fun o => s.mayRun 7 o && decide (s.time ≥ max o.reached o.after + 100000000) && (s.opPlaces o).any fun (ia, w) => s.opNeedsHome o ia w && s.foreign ia w),
    (let s := { (onHost base).keep 9 (.rma {} (.read 0x2000 8) [fetchWindow] none 0) with deadSlots := [(0, 1, 2 ^ 40)] }; match s.held.find? 9 with | some (.rma _ i ws none since) => (rmaPlaces ws i).any (fun p => s.foreign p.1 i.writes && s.pageDead p.1) && decide (s.time ≥ since + 100000000) | _ => false),
    (laneOf .store .sent (fun s e x => !s.pageHeld x.ia && e.homeRelease && !s.heldStore e) rel3),
    (laneOf .load .sent (fun s e x => !s.pageHeld x.ia && e.homeAcquire) acq3),
    (laneOf .load (.home 0 false 0) fun _ _ _ => true),
    (laneOf .load .sent (fun s e x => !e.atHome x.ia && (s.cachedLoad 0 e x).isSome) id warm),
    (laneOf .load (.settling 4 0 false) fun s _ x => s.acquired x 4),
    (laneOf .atomic (.home 0 false 0) fun _ _ _ => true),
    (laneOf .atomic (.settling 4 0 false) fun s _ x => s.acquired x 4),
    (laneOf .atomic .sent (fun s e x => !e.atHome x.ia && s.hits 0 e x) id warm),
    (laneOf .tld (.home 0 false 0) fun _ _ _ => true),
    (laneOf .tld .sent (fun s e x => !e.atHome x.ia && s.hits 0 e x) id warm),
    (laneOf .store .sent free id warm),
    ([AccessKind.store, .tst].all fun k => laneOf k (.home 0 false 0) fun s e _ => !s.heldStore e),
    (laneOf .red .sent (fun s e x => !e.atHome x.ia && s.hits 0 e x) id warm),
    (laneOf .red (.home 0 false 0) fun _ _ _ => true),
    (laneOf .red (.settling 4 0 false) fun s _ x => s.acquired x 4),
    (laneOf .tst .sent free id warm),
    (laneOf .store .sent (fun s e _ => s.heldStore e) id inInterval)] : List Bool).all id = true := by decide +kernel

def absent : LaneStage := .resp 3 false false
/-- The group's pc, and the page table's entry for its page, as given. -/
def fetches (pc e : Nat) : State := at_ (fun g => { g with pc := pc }) id fun s => { s with mem := writeBytes s.mem (stackAt 0 (fetchTable + 0x2008)) (leBytes 8 e) }
def fetchWaits (s : State) (ok : Walk → Bool) : Bool := match s.group? r0 with
  | some (t, g) => State.mayIssue t g && (match s.nextInstr t g with | .absent _ ia => ok (s.walk ia) | _ => false)
  | none => false
def o0 : Origin := { kind := 0, die := 0, unit := 0 }
def recd (r : FaultRec) (now : Nat) : State := ({ State.reset with time := now }.setRec o0 1 r).updIo fun io => { io with faultq := [(o0, 1)] }

/-- States that meet the hypotheses of FaultStepsComplete. -/
theorem witness_FaultStepsComplete : ([
    (laneStands (sent .load (.bad 2)) fun _ x => x.stage == .bad 2),
    (let s := sent .load absent; laneStands s fun e x => x.stage == absent && x.replay == 0 && (s.reportLane l0 e x 3 false false).isSome),
    (let s := sent .load absent fun e => { e with replays := 15, lanes := e.lanes.map fun x => { x with replay := 15 } }; laneStands s fun e x => x.stage == absent && x.replay != 0 && decide (e.replays ≥ 15)),
    (fetchWaits (fetches 0x200000 0) fun | .absent lv => (match (fetches 0x200000 0).group? r0 with | some (t, g) => ((fetches 0x200000 0).parkFetch r0 t g 0x200000 lv false).isSome | none => false) | _ => false),
    (fetchWaits (fetches 0x200000 (2 ^ 62 + 1)) fun | .bad 1 => true | _ => false),
    (let s := recd {} 512; (match s.rec? o0 1 with | some r => r.posted.isNone && !r.refused && decide (s.time ≥ r.opened + s.stageSpan o0 false) | none => false)),
    (let s := recd { refused := true } 4096; (match s.rec? o0 1 with | some r => r.posted.isNone && r.refused && decide (s.time ≥ r.opened + s.stageSpan o0 true) | none => false)),
    (let s := recd { posted := some 0 } 0; s.unclaimed == some (o0, 1) && (match s.rec? o0 1 with | some r => !s.pageBusy (r.page * 65536) | none => false)),
    (let s := recd { posted := some 0 } (2 ^ 33); (match s.rec? o0 1 with | some r => r.posted == some 0 && decide (s.time ≥ 0 + 2 ^ 33) | none => false))] : List Bool).all id = true := by decide +kernel

def recorded (now : Nat) : State := ({ State.reset with time := now } : State).setSlice 8 { recs := [(2, {})] }
def dirty : State := base.updDie 0 fun d => { d with lines := [(lineOf dataIa, { valid := 15, permit := true, dirty := 1 })] }

/-- States that meet the hypotheses of UpkeepStepsComplete. -/
theorem witness_UpkeepStepsComplete : ([
    ((recorded 0).pullAsked 2 0),
    (let s := recorded (2 ^ 28); (match (s.slice 8).recs.find? 2 with | some q => (q.now s 2).asks && decide (s.time ≥ q.raised + 2 ^ 28) | none => false)),
    ((dirty.l2 0 (lineOf dataIa)).dirty != 0 && !(dirty.die 0).failed),
    ((State.reset.updIo fun io => { io with irqs := [(7, 383)] }).io.irqs.contains (7, 383)),
    ([0, 16].all fun unit => (State.reset.updIo fun io => { io with errors := [(unit, 3)], errThr := [(unit, 3)] }).io.errDue unit)] : List Bool).all id = true := by decide +kernel

def ofTeam (s : State) (p : Team → Group → Bool) : Bool := match s.group? r0 with | some (t, g) => p t g | none => false

/-! units -/

def tiling (w : TileWork) : State := base.updCore 0 fun c => { c with tiles := [(0, { tag := mkTag 7 0 }), (1, { tag := mkTag 7 0 }), (4, { tag := tF32 })], tileOps := [{ uid := 9, team := 1, grp := 0, work := w }] }
def mmaWork0 : TileWork := .mma 4 0 1 7 7 0 1 false false none none none none
def lone (now : Nat) : State := { (tiling mmaWork0).updCore 0 fun c => { c with mate := some (0, r0, 9) } with time := now }
def mated (now : Nat) : State := { ((tiling mmaWork0).updCore 0 fun c => { c with mate := some (0, r0, 9) }).updCore (mateOf 0) fun c => { c with mate := some (0, r0, 9), tileOps := [{ uid := 9, team := 1, grp := 0, work := mmaWork0 }] } with time := now }
def chunk0 : Chunk := { ctx := 1, slot := 3, off := 0, data := [7, 7], reduce := none }
def recvs (o : EngOp) : State := (oper { o with work := .recv 3 0, len := o.len, dst := 0x2000 }).updCtx 1 fun c => { c with recv := [(3, some 7)] }
def recvMeets (s : State) (p : EngOp → Bool) : Bool := match s.contexts.find? chunk0.ctx with | some x => x.recv.get none chunk0.slot == some 7 && opMeets s (fun o => o.work == .recv 3 0 && o.mode != .suspended && (decide (o.after < s.time) || decide (o.after = 0)) && p o) | none => false

/-- States that meet the hypotheses of UnitStepsComplete. -/
theorem witness_UnitStepsComplete : ([
    (let s := tiling (.tzero 4 1); match (s.core 0).opOf 9 with | some p => (s.tileDone 0 9 p).isSome | none => false),
    (let s := (tiling mmaWork0).updCore 0 fun c => { c with tileOps := c.tileOps.map fun p => { p with begun := some 0 } }; let s := { s with time := nsOf (s.classOf 0) 128 }; match (s.core 0).firstMma with | some p => (s.mmaDone 0 p).isSome | none => false),
    (let s := mated 5; match (s.core 0).mate, (s.core (mateOf 0)).mate with | some a, some b => s.launchOf a.2.1 == s.launchOf b.2.1 && s.signed 0 a.2.2 == s.signed (mateOf 0) b.2.2 | _, _ => false),
    (let s := lone (nsOf 0 (2 ^ 16)); match (s.core 0).mate with | some (t, _, _) => decide (2 ^ 16 ≤ cyclesOf (s.classOf 0) (s.time - t)) && (s.core (mateOf 0)).mate.isNone | none => false),
    (let s := oper { work := .copy, src := 0x2000, dst := 0x4000, len := 64 }; opMeets s fun o => s.mayRun 7 o && (s.nextProgress 7 o).isSome),
    (let s := oper { work := .copy, len := 64, progress := 64 }; opMeets s fun o => o.work.copies && decide (o.total ≤ o.progress) && decide (o.compl < s.time) && s.through o.die o.mark && (o.total != 0 || decide (o.after < s.time))),
    (opMeets (oper { work := .send 0 0 0, landed := 1 }) fun o => o.work.sends && o.landed == 1),
    (recvMeets (recvs { len := 2 }) fun o => o.chunk.isNone && decide (chunk0.off + chunk0.data.length ≤ o.len)),
    (recvMeets (recvs { len := 1 }) fun o => o.chunk.isNone && decide (chunk0.off + chunk0.data.length > o.len)),
    (let s := recvs { len := 2, chunk := some chunk0 }; recvMeets s fun o => o.chunk == some chunk0 && decide (o.progress < 2) && (s.landMore 7 o chunk0).isSome),
    (let s := recvs { len := 2, chunk := some chunk0, progress := 2 }; recvMeets s fun o => o.chunk == some chunk0 && decide (2 ≤ o.progress) && decide (o.compl < s.time)),
    (let s := oper { work := .send 0 0 0, landed := 1 } (2 ^ 27); opMeets s fun o => o.work.sends && o.landed == 1 && decide (s.time ≥ o.compl + 2 ^ 27) && decide (s.time ≥ o.compl + 100000000))] : List Bool).all id = true := by decide +kernel


/-! groups -/

def looping (lc : Nat) (ls : List Level) : State := at_ fun g => { g with loopDue := true, pc := fetchPc, lc := [(0, lc)], levels := { ctr := 0, start := 0xFF0, stop := fetchPc } :: ls }
def loopMeets (s : State) (p : Group → Level → List Level → Bool) : Bool := ofTeam s fun t g => t.mode != .stopped && g.loopDue && g.mode == .ready && match g.levels with | v :: r => p g v r | [] => false

/-- States that meet the hypotheses of GroupStepsComplete. -/
theorem witness_GroupStepsComplete : ([
    (loopMeets (looping 2 []) fun g v _ => decide (g.lc.get 0 v.ctr > 1)),
    (loopMeets (looping 1 [{ ctr := 1, start := 0xFE0, stop := fetchPc }]) fun g v r => decide (g.lc.get 0 v.ctr ≤ 1) && (g.close v r).loopDue),
    (loopMeets (looping 1 []) fun g v r => decide (g.lc.get 0 v.ctr ≤ 1) && !(g.close v r).loopDue),
    (let s := at_ fun g => { g with run := 32 }; ofTeam s fun t g => decide (32 ≤ g.run) && g.mode == .ready && g.formed.isEmpty && g.switchDue.isNone && t.mode == .running && !g.loopDue && s.nextReadsLatch t g == some false),
    (let s := at_ fun g => { g with switchDue := some none }; ofTeam s fun t g => g.mode == .ready && g.formed.isEmpty && g.switchDue == some none && t.mode == .running && !g.loopDue && s.nextReadsLatch t g != none),
    (let s := at_ fun g => { g with run := 32, mode := .formed, formed := [0, 1] }; ofTeam s fun t g => decide (32 ≤ g.run) && g.mode == .formed && !g.formed.isEmpty && g.switchDue.isNone && t.mode == .running && !g.loopDue && s.nextReadsLatch t g == some false),
    (let s := at_ id id fun s => { s with time := nsOf 0 256 }; ofTeam s fun t g => g.mode == .ready && !g.boosted && decide (256 ≤ cyclesOf (s.classOf t.core) (s.time - g.readySince))),
    (let s : State := { base with gangs := [(4, { members := [1], expected := 2, bars := [(3, { count := 2 })] })] }; match s.gangs.find? 4 with | some gg => gg.broken.isNone && decide ((gg.bars.get ({} : Barrier) 3).count = gg.expected) | none => false),
    (let s := at_ (fun g => { g with mode := .stalled, wait := .time 4 }) id later; ofTeam s fun _ g => g.wait == .time 4 && decide (4 < s.time) && g.mode != .stopped),
    (let s := at_ (fun g => { g with mode := .stalled, wait := .through 0 3 4 }) id later; ofTeam s fun _ g => g.wait == .through 0 3 4 && decide (4 < s.time) && s.through 0 3 && g.mode != .stopped),
    (let s : State := { base with memOps := [{ req := {}, home := 0, level := 4, off := 0, op := .reclaim, ends := some 4 }] }; match s.memOps[0]? with | some m => m.ends == some 4 && decide (4 < s.time) | none => false),
    (let s := at_ (fun g => { g with mode := .barrier, wait := .muster 0 false }) (fun t => { t with wdog := 1024 }) fun s => { s with time := nsOf 0 2048 }; ofTeam s fun t _ => t.mode != .stopped && (s.expired 1 t).isSome)] : List Bool).all id = true := by decide +kernel


/-! teams -/

def ofOne (s : State) (p : Team → Bool) : Bool := match s.teams.find? 1 with | some t => p t | none => false
def queued (l : Launch) (f : State → State := id) : State := f { at_ id with launches := [(0, { l with ctx := 1, k := { fetchKernel with scratch := 0, tensor := 0, vault := 0 }, hi := 1 })] }
/-- All of cluster 0 stands in partition 0 on its own place. -/
def mapped (s : State) : State := (s.updCluster 0 fun c => { c with phys := some 0 })
def savedTeam : Saved := { team := { teamOf id with mode := .running } }
def expired (l : Launch) : State := { State.reset with launches := [(0, l)], time := 5 }
def graph0 (kind addr : Nat) (z : State → State := id) : State :=
  z { at_ id id later with graphs := [(3, { ctx := 1, running := true, nodes := [[BitVec.ofNat 64 (kind * 2 ^ 62 + addr), 0xFFFFFFFFFFFFFFFF, 0xFFFFFFFFFFFFFFFF, 0xFFFFFFFFFFFFFFFF]] })] }
def graphMeets (s : State) (p : FrontRead → Bool) : Bool := match s.graphs.find? 3 with | some g => g.running && !s.nodeIsHeld 3 && g.next == some 0 && p (s.nodeRead g 0) | none => false
/-- Launch 0 of queue 0 has a team to place; launch 9 of queue 5 holds the only column. -/
def crowded : State :=
  let s := mapped (queued { checked := true })
  { s with launches := s.launches.put 9 { ctx := 1, queue := 5, k := fetchKernel, hi := 1, next := 1, checked := true },
           teams := [(1, { teamOf id with launch := 9 })], io := { s.io with deadCols := [1, 2, 3] } }
def pair : State := let s := at_ id fun t => { t with twin := some (2, true), k := { t.k with paired := true } }
  { s with teams := s.teams ++ [(2, { teamOf id with twin := some (1, false) })], intervals := [(1, { atBoundary := true }), (2, { atBoundary := true })] }

/-- States that meet the hypotheses of TeamStepsComplete. -/
theorem witness_TeamStepsComplete : ([
    (let s := queued {}; match s.nextGrant s.serving with | some (.attempt 0 _) => true | _ => false),
    (let s := mapped (queued { checked := true }); match s.nextGrant s.serving with | some (.start 0 u) => u.io.lastDie == some 0 | _ => false),
    (let s := mapped (queued { checked := true, next := 1, requeued := [6] } fun s => { s with saved := [(6, savedTeam)] }); match s.nextGrant s.serving with | some (.restore 0 6 u) => u.coreOf 6 == u.coreOf 6 | _ => false),
    (let s := at_ id fun t => { t with mode := .placed }; ofOne s fun t => t.mode == .placed && !s.poolsChanging (s.startSet 1 t)),
    (let s := at_ fun g => { g with threads := g.threads.map fun t => { t with mode := .exited } }; ofOne s fun t => t.mode != .stopped && s.retires 1 t),
    (let s := at_ id fun t => { t with mode := .stopped }; ofOne s fun t => t.mode == .stopped && !s.busySlices t),
    (match (expired {}).launches.find? 0 with | some l => (expired {}).gridOver 0 l && l.releasing.isNone | none => false),
    (let s := expired { releasing := some (4, 3) }; match s.launches.find? 0 with | some l => s.gridOver 0 l && l.releasing == some (4, 3) && s.released l.dies 4 3 | none => false),
    (graphMeets (graph0 0 0x2000) fun | .bytes .. => true | _ => false),
    (graphMeets (graph0 1 0x2000 fun s => s.setSlice (lineOf 0x2000) { recs := [(2, {})] }) fun | .settling _ => true | _ => false),
    (graphMeets (graph0 1 (2 ^ 40)) fun | .error _ => true | _ => false),
    (graphMeets (graph0 1 0x200000) fun | .held .. => true | _ => false),
    (let s := at_ id (fun t => { t with mode := .stopping 0 }) fun s => { s with time := nsOf 0 (2 ^ 20) }; ofOne s fun t => decide (s.stopLimit t ≤ cyclesOf (s.classOf t.core) (s.time - 0)) && !t.groups.all fun q => q.2.hasStopped),
    ([none, some (4, 3)].all fun f => let s := at_ (fun g => { g with mode := .saving }) (fun t => { t with mode := .stopping 0, saveFence := f }) later; ofOne s fun t => (s.saveSet 1 t).map (·.1) == [1] && s.saveReady 1 t && (t.saveFence.isNone || s.saveFenced t)),
    (match crowded.launches.find? 0 with | some l => crowded.mayPreempt 0 l && (crowded.preemptFor (crowded.wantOf 0 l) l.queue (crowded.roomIn 0 l)).isSome | none => false),
    (match pair.teams.find? 1, pair.teams.find? 2, pair.intervals.find? 1, pair.intervals.find? 2 with | some ta, some tb, some x, some y => ta.twin == some (2, true) && ta.mode != TeamMode.stopped && tb.mode != TeamMode.stopped && (pair.pairBoundary 1 2 ta tb x y).isSome | _, _, _, _ => false)] : List Bool).all id = true := by decide +kernel


/-! power, failures, links -/

def ready (io : Io) : Io := { io with dawn := dawnReady, ctl := (1, 2) }
def up (f : State → State := id) : State := f (State.reset.updIo ready)

/-- States that meet the hypotheses of PowerStepsComplete. -/
theorem witness_PowerStepsComplete : ([
    (up.io.dawn == 0x80 && (up.cluster 127).changing.isNone && decide ((up.cluster 127).windowEnd ≤ (up fun s => { s with time := 1000 }).time)),
    (let s := up fun s => (s.updCluster 3 fun c => { c with changing := some (5, 1) }); (s.cluster 3).changing == some (5, 1) && decide (5 ≤ { s with time := 5 }.time)),
    (let s := up fun s => { s with time := 1000000 }; s.io.dawn == 0x80 && decide (s.io.power.mark < s.time / 1000000)),
    ((up).io.dawn == 0x80 && decide ((up.cluster 127).hot < (List.replicate 128 96).getD 127 0)),
    (let s := up fun s => s.updCluster 3 fun c => { c with thermalFrom := some 0 }; (s.cluster 3).thermalFrom == some 0 && (s.cluster 3).stepTo.isNone),
    (let s := up fun s => s.updIo fun io => { io with peers := [(5, (0x8000000000000005, 0x0007000000000000))] }; (s.groupPeers 7).contains 5)] : List Bool).all id = true := by decide +kernel


/-- States that meet the hypotheses of FailureStepsComplete. -/
theorem witness_FailureStepsComplete : ([
    (!(up.die 7).failed && !(up.home 7).failed && !(up.die (dieOf 2047)).failed)] : List Bool).all id = true := by decide +kernel


/-- Dawn at a step, with no images, a column that works and endpoints 1 and 2. -/
def dawning (step : Nat) (f : Io → Io := id) : State :=
  State.reset.updIo fun io => f { io with dawn := step, dawning := some { cap := [2 ^ 36], deadColumns := [3], deadPorts := [], ptpLocked := true, config := some (1, 2, 3) } }

/-- States that meet the hypotheses of DawnGoesStepByStep. -/
theorem witness_DawnGoesStepByStep :
    ([1, 3, 4, 5, 7].all fun n => (dawning n).io.dawn == n && (dawning n).io.dawning.isSome) = true ∧
    (dawning 6).io.ptpWait.isNone = true ∧ (dawnImages { cap := [], deadColumns := [], deadPorts := [], ptpLocked := true, config := none })[(dawning 2).io.log.length]?.isSome = true ∧
    decide (4 ≤ (dawning 2 fun io => { io with log := List.replicate 4 ⟨0, 0, 0, 0⟩ }).io.log.length) = true := by decide +kernel

/-- States that meet the hypotheses of LinkStepsComplete. -/
theorem witness_LinkStepsComplete : ([
    (let s := (State.reset.updIo fun io => { io with dawn := 6, ptpWait := some 0 }); s.io.ptpWait == some 0 && s.io.dawn == 6 && decide (({ s with time := 2000000000 } : State).time ≥ 0 + 2000000000) && s.io.dawn != dawnFailed),
    (let s := up fun s => { s.updIo fun io => { io with ptp := .locked } with time := 1000000000 }; s.io.ptp == .locked && decide (s.time ≥ s.io.lastSync + 1000000000) && s.io.dawn == dawnReady && decide (s.time ≥ s.io.kept + 10000000) && (1 == s.io.ctl.1) && !s.io.lost.contains 1 && decide (s.time ≥ s.io.heard.get 0 1 + 100000000) && !s.io.failed),
    (let s := up fun s => { s with contexts := [(1, { acks := [({}, [9])] })] }; match (s.ctx 1).acks with | (_, old) :: _ => !old.any (s.translated 1).contains | [] => false)] : List Bool).all id = true := by decide +kernel


/-! ## Host messages -/

def takes (s : State) (ep : Nat) (type : BitVec 16) (who : Who) (needCtx bad : Bool) : Bool :=
  !s.io.failed && s.awake type && s.controls who ep && s.holdsSem who ep && s.sound { ep := ep, ctx := 1 } needCtx && headerOk { ep := ep, ctx := 1 } (bodyNeed type) && !bad
/-- A module that is ready, endpoint 1 holding the semaphore, context 1 created. -/
def host : State := up fun s => { s.updIo fun io => { io with sem := some 1 } with contexts := [(1, {})], graphs := [(3, { edges := [{ cap := 64, tokens := 0 }] })] }

/-- States that meet the hypotheses of ContextMessagesHandled. -/
theorem witness_ContextMessagesHandled : ([
    (takes { State.reset with contexts := [(1, {})] } 9 0x01 .any false false && takes host 1 0x02 .any false false &&
      ([0x10, 0x11, 0x51].all fun t => takes host 1 t .ctl false false) && takes host 1 0x20 .ctl false (contextCreateBad 65535 0 (List.replicate 8 65535)) &&
      ([0x21, 0x22, 0x23].all fun t => takes host 1 t .ctl true false) && takes host 2 0x24 .ctl true (recordFreeBad 255 1))] : List Bool).all id = true := by decide +kernel


/-- States that meet the hypotheses of WorkMessagesHandled. -/
theorem witness_WorkMessagesHandled : ([
    (takes host 1 0x30 .ctl true (plierrovLaunchBad (List.replicate 32 0)) && takes host 1 0x31 .ctl false (thresholdBad 4095 383 (2 ^ 48 - 1)) &&
      takes host 1 0x32 .ctl true (graphLoadBad {} 63 [[]] [0]) && takes host 1 0x33 .ctl false false && !host.graphPushBad 3 0 64 &&
      takes host 1 0x40 .ctl true (rmaReadBad 0 32768) && takes host 1 0x41 .ctl true (rmaWriteBad {} [0]) && takes host 1 0x42 .ctl true (rmaAtomicBad 9) &&
      !host.rmaWaits 1 && takes host 1 0x50 .ctl false (msBad 7 3 0))] : List Bool).all id = true := by decide +kernel


/-- States that meet the hypotheses of SettingMessagesHandled. -/
theorem witness_SettingMessagesHandled : ([
    (takes host 1 0x60 .sem false (limitsBad { mask := 0, cap := 0, ramp := 0, skew := 0, floors := List.replicate 8 0, ceilings := List.replicate 8 0 }) &&
      takes host 1 0x61 .sem false (partitionBad (List.replicate 8 0) 7) && takes host 1 0x62 .sem false (clusterMapBad 7 (List.replicate 16 0xFF)) &&
      takes host 2 0x63 .ctl false (errorStatusBad {} none) && takes host 1 0x63 .sem false (errorStatusBad {} (some (List.replicate 17 0))) &&
      takes host 1 0x64 .sem false (decide (8 > 8) || decide (63 > 63)) && takes host 1 0x65 .sem false (thermalBad (List.replicate 128 95)) && takes host 1 0x66 .sem false (peerTableBad {} 0 [(0, 0)]))] : List Bool).all id = true := by decide +kernel


/-- States that meet the hypotheses of MessagesRefused. -/
theorem witness_MessagesRefused : ([
    (!State.reset.io.failed && !State.reset.awake 0x10 && host.awake 0x10 && !host.controls .ctl 3 && host.controls .sem 2 && !host.holdsSem .sem 2 && host.controls .ctl 1 && host.holdsSem .ctl 1 &&
     contextCreateBad 0 0 [] && !host.sound { ctx := 7 } true && !host.sound { broken := true } false && !headerOk { length := 32 } 8 && host.sound { ctx := 1 } true && !(requestTypes.contains (0x67 : BitVec 16).toNat) && host.io.dawn == dawnReady)] : List Bool).all id = true := by decide +kernel


/-! ## Whole-machine statements and traps -/

/-- The placed program is YIELD. -/
def yields : State := State.reset.withFetchWord 32 0x9C000000
def stepRuns (u : State) : Bool := match u.group? r0 with
  | some (t, g) => State.mayIssue t g && (u.cluster (clusterOf t.core)).changing.isNone && g.formed.isEmpty && g.switchDue.isNone && !u.io.failed && decide (g.run < 32) &&
    (u.core t.core).issuersAt 0 == [] && u.chosen 0 r0 t g && (u.issueIn 0 (r0, t, g)).isSome && (u.cyclesNow t.core).head? == some 0 &&
    (match decode (u.fetchWords (dieOf t.core) (u.ctx t.ctx).windows 5 g.pc).1 with | .ok i => i == .yield {} && (match u.gateOf r0 t g i with | .go => true | _ => false) && u.pipeFree t.core 0 (pipeOf i t.k.width) | .error _ => false)
  | none => false

/-- States that meet the hypotheses of StepRunsTheDecodedInstruction. -/
theorem witness_StepRunsTheDecodedInstruction : ([
    (yields.turns == [.issue r0] && stepRuns { yields with turns := [] }),
    (let s := { yields with turns := [] }; (workStep s.calm s).isNone && (match issueNow s with | some (.inl _) => true | _ => false) && stepRuns s)] : List Bool).all id = true := by decide +kernel

/-- A vault address of another team's allocation in cluster 1. -/
def other (g : Group) : Group := { g with threads := g.threads.map fun t => { t with v := [(2, BitVec.ofNat 32 (2 ^ 25 + 8 * t.lane))] } }
def neighbour (s : State) : State := { s with teams := s.teams ++ [(2, { ctx := 1, core := 16, vault := some (0, 65536) })], intervals := [(1, {})] }

/-- A store with release at DIE. -/
def stvRel : St := { h := long, val := .reg 6, a := .reg 2, order := .rel, scope := 2 }

/-- States that meet the hypotheses of LocalStoresKeepTheRest. -/
theorem witness_LocalStoresKeepTheRest : ([
    (meets (.stv stvRel) (stvPlan stvRel) (fun x => tagsOk x (memClasses (stvPlan stvRel).srcs) && all (vaultsOf x stvRel.a stvRel.b stvRel.imm 4) (fun q => !vaultLocked x 4 true q.2 && !stvForbidden x [q]) && okay (localRelease x true (x.scope 2))) other id fun s => later (neighbour s)),
    (meets (.stv sts0) (stvPlan sts0) (fun x => tagsOk x (memClasses (stvPlan sts0).srcs) && (match x.s.intervals.find? 1 with | some iv => all (vaultsOf x sts0.a sts0.b sts0.imm 4) (fun q => !vaultLocked x 4 true q.2 && !stvForbidden x [q] && !ownVault x.team q.2.1 q.2.2) && decide (iv.held.length + iv.heldVault.length + 2 * 2 < 1024) | none => false) && okay (localRelease x false (x.scope 0))) other id neighbour)] : List Bool).all id = true := by decide +kernel

/-- EN, R and X over 64 KiB from 0x10000. -/
def win0 : List W64 := [0x10000, 0x20000, 0, 0x13]
def failsWith (ws : List (List W64)) (va size perm : Nat) (p : Nat) : Bool := match checkAccess ws va size perm with | .error e => e.1 == p | .ok _ => false
def far (g : Group) : Group := { g with s := [(9, 0x100)] }
def ldFar : Ld := { d := 10, a := .bcast 8, b := .zero }
def stFar : St := { d := 10, a := .bcast 8, b := .zero }

/-- The tag classes that a V-set access checks. -/
def accessTags : Instr → List ((Tag → Bool) × Src × Nat)
  | .ld o => memClasses (ldPlan false o).srcs
  | .st o => memClasses (stPlan false o).srcs
  | .atom o | .atomU o | .red o => atmClasses 2 o
  | _ => []

/-- States that meet the hypotheses of AccessChecksInOrder. -/
theorem witness_AccessChecksInOrder : ([
    (failsWith [win0] (2 ^ 57) 4 permR 1 && failsWith [win0] 0x1FFFE 4 permR 2 && failsWith [win0] 0x20000 4 permR 3 && hitWindow [win0] 0x20000 == none &&
     failsWith [win0] 0x1FFFC 4 permW 4 && hitWindow [win0] 0x1FFFC == some win0 && (match checkAccess [win0] 0x10000 4 permR with | .ok _ => true | _ => false)),
    (match firstFail false [(0, .error (3, tPrivilege)), (1, .error (1, tPrivilege)), (2, .ok 5), (3, .error (1, tIllegalOperand))] with | .error (.trap t) => t.lane == some 1 | _ => false),
    ([Instr.ld ldFar, .ldU { ldFar with a := .reg 8 }, .st stFar, .stU { stFar with a := .reg 8 }, .atom atm0, .atomU atmu0, .red red0].all fun i =>
      match globalAccess i with
      | some (p, _, a) => acts i p (fun x => tagsOk x (accessTags i) && !x.team.k.paired && match x.places (a x) with | .error _ => true | .ok _ => false) far
      | none => false)] : List Bool).all id = true := by decide +kernel


/-- States that meet the hypotheses of ProgramsReadWindowsOnly. -/
theorem witness_ProgramsReadWindowsOnly : ([
    (meets (.csrr { d := 4, a := .reg 0x17, b := .reg 3 }) (csrrPlan { d := 4, a := .reg 0x17, b := .reg 3 }) && meets (.csrr { d := 4, a := .reg 0x10, b := .reg 0 }) (csrrPlan { d := 4, a := .reg 0x10, b := .reg 0 })),
    ([0x10, 0x17].all fun n => acts (.csrw { a := .reg n, b := .reg 4 }) (csrwPlan { a := .reg n, b := .reg 4 }) fun x => x.selected)] : List Bool).all id = true := by decide +kernel

def trapping : State := at_ id

/-- States that meet the hypotheses of TakingATrap. -/
theorem witness_TakingATrap : ([
    ((match trapping.group? r0 with | some (t, _) => t.mode != .stopped && t.mode != .placed && t.gang.isNone && t.twin.isNone && (trapping.launches.find? t.launch).isSome | none => false) && trapScope tIllegalInstruction.code == 0 && tIllegalInstruction.also.isEmpty)] : List Bool).all id = true := by decide +kernel

def paired (t : Team) : Team := { t with k := { t.k with paired := true } }
def atm3 : Atm := { h := long, d := 3, a := .bcast 8, b := .reg 6, scope := 3 }
def atmu3 : Atm := { h := long, d := 3, a := .reg 8, b := .reg 6, scope := 3 }
def red3 : Atm := { h := long, a := .bcast 8, b := .reg 6, scope := 4 }

/-- States that meet the hypotheses of PairedAtomicsForbidden. -/
theorem witness_PairedAtomicsForbidden : ([
    (acts (.atom atm3) (atomPlan false atm3) (fun x => tagsOk x (atmClasses 2 atm3) && x.team.k.paired && decide (3 ≤ x.scope atm3.scope)) memGrp paired),
    (acts (.atomU atmu3) (atomPlan true atmu3) (fun x => tagsOk x (atmClasses 2 atmu3) && decide (3 ≤ x.scope atmu3.scope)) memGrp paired),
    (acts (.red red3) (redPlan red3) (fun x => tagsOk x (atmClasses 2 red3) && decide (3 ≤ x.scope red3.scope)) memGrp paired),
    (let w3 : W64 := 0x8007; !windowBad 0x10000 0x20000 0 w3 && !w3.getLsbD 8 && (w3.extractLsb' 12 4).toNat == 8),
    ((hitWindow [win0] 0x10000).any fun w => !(w.getD 3 0).getLsbD 3)] : List Bool).all id = true := by decide +kernel

def split (g : Group) : Group := { g with threads := [{ tid := 0, lane := 0, pc := fetchPc }, { tid := 1, lane := 1, pc := fetchPc + 64, mode := .waiting }], ret := [0x1010] }

/-- States that meet the hypotheses of CallAndReturnTrap. -/
theorem witness_CallAndReturnTrap : ([
    (acts (.call { off := 4 }) (callPlan { off := 4 }) (fun x => !x.grp.converged) split && acts (.ret {}) (retPlan {}) (fun x => !x.grp.converged) split)] : List Bool).all id = true := by decide +kernel

def latched : Alu := { d := 4, a := .latch 3, b := .reg 3 }

/-- States that meet the hypotheses of YieldRotates. -/
theorem witness_YieldRotates : ([
    (acts (.yield {}) (yieldPlan {}) (fun x => flows x && x.grp.waiting != []) split),
    (nextPc 0x1000 [{ pc := 0x1040 }, { pc := 0x1020 }, { pc := 0xFF0 }] == 0x1020 && nextPc 0x2000 [{ pc := 0x1040 }, { pc := 0x1020 }] == 0x1020),
    (let p := (intOp latched true (· + ·)).plan false latched; let x := issue (.iadd latched) p id; x.grp.x.isEmpty && x.grp.y.isEmpty && p.srcs.contains (.latch 3, 1) && !p.illegal x && !maskIllegal x.team.k p.h && !p.srcs.any (srcIllegal p.u x.team.k) && !p.dsts.any (dstIllegal p.u x.team.k) && !p.operand x && p.role x.grp.role && (x.pending ((p.readable x).map (·.src))).isNone && !(p.readable x).any (·.illegal x) && !(p.readable x).any (·.operand x))] : List Bool).all id = true := by decide +kernel


/-- States that meet the hypotheses of CountersSaturate. -/
theorem witness_CountersSaturate : ([
    (hasCounter 2 && !hasCounter 383 && (({ State.reset with launches := [(0, { counters := [(2, 2 ^ 48 - 1)], thresholds := [(2, 2 ^ 48 - 1)], fired := [2] })] } : State).launches.find? 0).isSome),
    ((({ State.reset with launches := [(0, { counters := [(2, 7)], thresholds := [(2, 8)] })] } : State).addCount 0 2 1).launches.find? 0).any fun m => decide (8 ≤ m.counters.get 0 2)] : List Bool).all id = true := by decide +kernel


/-- States that meet the hypotheses of BarrierCompletes. -/
theorem witness_BarrierCompletes : ([
    ((trapping.teams.find? 1).any fun t => (t.groups.find? 0).any fun g => g.wait != .bar 3 (t.bar 3).gen && g.wait != .barNext 3 (t.bar 3).gen),
    (((at_ fun g => { g with wait := .bar 3 0, mode := .barrier }).teams.find? 1).any fun t => (t.groups.find? 0).any fun g => g.wait == .bar 3 (t.bar 3).gen)] : List Bool).all id = true := by decide +kernel


/-- States that meet the hypotheses of HostRequestsAnswered. -/
theorem witness_HostRequestsAnswered : ([
    (State.reset.io.sem.isNone && (511#64).toNat < 512)] : List Bool).all id = true := by decide +kernel


/-- States that meet the hypotheses of EncodingRoundTrips, and those of DecodedWordsEncodeBack. -/
theorem witness_EncodingRoundTrips : ([
    ((match encode (.fma { h := onP1, d := 127, a := .bcast 127, b := .latch 3, c := .index, fmt := 2, rnd := .dyn, sat := true }) with | [_, _] => true | _ => false) && (Instr.fma { h := onP1, d := 127, a := .bcast 127, b := .latch 3, c := .index, fmt := 2, rnd := .dyn, sat := true }).wf)] : List Bool).all id = true := by decide +kernel


/-- States that meet the hypotheses of MemoryStaysCanonical. -/
theorem witness_MemoryStaysCanonical : ([
    (Memory.wf State.reset.mem && Memory.wf State.reset.ext && (match step State.reset with | .next _ => true | _ => false))] : List Bool).all id = true := by decide +kernel


/-- States that meet the hypotheses of LowestHittingWindowTranslates. -/
theorem witness_LowestHittingWindowTranslates : ([
    (winHits win0 0x10000 && winHits win0 0x1FFFF && !winHits win0 0x20000 && !winHits win0 0xFFFF)] : List Bool).all id = true := by decide +kernel

/-- Windows and addresses that meet the hypotheses of WindowsTranslate: DIRECT, and STRIPED at a whole page of each home. -/
def striped : List W64 := [0, 0x100000000, 0, 0x11F]
theorem witness_WindowsTranslate : ([
    !(win0.getD 3 0).getLsbD 8 && decide (0x10000 - (win0.getD 0 0).toNat + (win0.getD 2 0).toNat < 2 ^ 64),
    (striped.getD 3 0).getLsbD 8 && decide ((striped.getD 0 0).toNat ≤ 524288) && decide (524288 - (striped.getD 0 0).toNat + (striped.getD 2 0).toNat < 2 ^ 64) &&
      decide ((524288#64).toNat % 16384 = 0) && decide ((524288#64).toNat % 524288 = 0) && decide ((524288#64).toNat + 16384 < 2 ^ 51)] : List Bool).all id = true := by decide +kernel

/-- Operands that meet the hypotheses of IntegerResults: sums below, above and within the range of a word, shifts by 32. -/
theorem witness_IntegerResults : ([
    decide ((0x80000000#32).toInt + (0xFFFFFFFF#32).toInt < -2147483648), decide (2147483647 < (0x7FFFFFFF#32).toInt + (1#32).toInt),
    decide (-2147483648 ≤ (0x80000000#32).toInt + (0#32).toInt), decide ((0x7FFFFFFF#32).toInt + (0#32).toInt ≤ 2147483647), decide (32 ≤ (32#32).toNat)] : List Bool).all id = true := by
  decide +kernel

/-! ## Single steps with the spec's own numbers -/

/-- The group after one instruction in the small state. -/
def ran (i : Instr) (f : Group → Group := id) (k : Team → Team := id) (z : State → State := id) : Option Group :=
  match exec i (at_ f k z) with
  | .next u => (u.group? r0).map (·.2)
  | _ => none
/-- Both threads hold these registers. -/
def vregs (l : Sp W32) (g : Group) : Group := { g with threads := g.threads.map fun t => { t with v := l } }
def lane0 (g : Group) (n : Nat) : Option W32 := g.threads.head?.map (·.reg n)

/-- The example of R279. -/
theorem test_bfx : ((ran (.bfx { h := long, d := 1, a := .reg 2, b := .reg 3, var := 1 }) (vregs [(2, 0x0000A500), (3, 0x0808)])).bind fun g => lane0 g 1) =
    some 0xFFFFFFA5 := by decide +kernel

/-- R277: a sum above 2^31 - 1 is clamped. -/
theorem test_iadd_sat : ((ran (.iadd { h := long, d := 1, a := .reg 2, b := .reg 3, fmt := 0x28, sat := true }) (vregs [(2, 0x7FFFFFF0), (3, 0x20)])).bind fun g => lane0 g 1) =
    some 0x7FFFFFFF := by decide +kernel

/-- The example of QNT (R287, R261): 1.0, -2.0, 0.5 and 448.0 by 0.5. -/
theorem test_qnt : ((ran (.qnt { h := long, d := 8, a := .reg 12, b := .bcast 5, fmt := 7 })
      fun g => tagged tF32 { vregs [(12, 0x3F800000), (13, 0xC0000000), (14, 0x3F000000), (15, 0x43E00000)] g with s := [(5, 0x3F000000)] }).map
        fun g => (lane0 g 8, g.tag 8)) = some (some 0x7F38C840, 0x072) := by decide +kernel

/-- The example of DQN, by 2.0. -/
theorem test_dqn : ((ran (.dqn { h := long, d := 16, a := .reg 8, b := .bcast 5, fmt := 2 })
      fun g => { vregs [(8, 0x7E30C038)] g with tags := [(8, 0x072)], s := [(5, 0x40000000)] }).map
        fun g => (lane0 g 16, lane0 g 17, lane0 g 18, lane0 g 19)) = some (some 0x40000000, some 0xC0800000, some 0x3F800000, some 0x44600000) := by decide +kernel

/-- The example of TAGW (R293). -/
theorem test_tagw : ((ran (.tagw { h := long, d := 4, a := .reg 2, b := .reg 3 }) fun g => { g with s := [(2, 0x0C), (3, 0x20)] }).map
      fun g => (g.sreg 4, g.tag 12)) = some (0, 0x020) := by decide +kernel

/-- The example of CTIME (R157). -/
theorem test_ctime : ((ran (.ctime { d := 4 }) fun g => { g with horizon := 1000000750 }).map fun g => (g.sreg 4, g.sreg 5)) = some (0x3B9ACCEE, 0) := by
  decide +kernel

/-- Lanes of R309's worked exchange: sixteen threads, blocks of eight, a shift of four. -/
def sixteen (g : Group) : Group :=
  { g with g := [(3, 8)], threads := (List.range 16).map fun l => { tid := l, lane := l, pc := fetchPc, v := [(5, BitVec.ofNat 32 (100 + l)), (6, 4)] } }
def exchanged (mode : BitVec 6) (lane : Nat) : Option (W32 × Bool) :=
  (ran (.lxch { h := long, d := 4, a := .reg 5, b := .reg 6, c := 0xAB, mode := mode }) sixteen).bind fun g => (g.threads[lane]?).map fun t => (t.reg 4, t.p.getLsbD 2)

/-- LXCH.AHEAD and LXCH.ROTA in blocks of eight. -/
theorem test_lxch : exchanged 3 2 = some (106, true) ∧ exchanged 3 5 = some (105, false) ∧ exchanged 3 10 = some (114, true) ∧ exchanged 5 5 = some (101, true) := by
  decide +kernel

/-- The eight-point ring of R259. -/
def ring8 : Ring := loadRing 8 [0xC0800000, 0xBF800000, 0xBE800000, 0x00000000, 0x3E800000, 0x3F800000, 0x40800000, 0x7F800000]

theorem test_ring_cells : yBinary ring8 ring8.add 0x07C0 0x0400 = 0x0C00 ∧ yBinary ring8 ring8.add 0x07C0 (yUnary ring8 0 0x0400) = 0x007C ∧
    yBinary ring8 ring8.div 0x0400 0x0080 = 0x2000 ∧ yBinary ring8 ring8.div 0x0400 0x0040 = 0x4000 ∧ yBinary ring8 ring8.div 0x07C0 0x01F0 = 0xFFFF := by
  decide +kernel
theorem test_ring_functions : yUnary ring8 1 0x8000 = 0x0020 ∧ yUnary ring8 2 0x0404 = 0x0400 ∧ yUnary ring8 4 0x4000 = 0x4040 ∧
    yUnary ring8 6 0x2000 = 0x0200 ∧ yUnary ring8 3 0x0008 = 0xFFFF ∧ hullMask 16 0x0404 = 0xFC07 := by
  decide +kernel

/-- A placed program's instruction is the next that runs, and its group goes past it. -/
def placedRuns (nbits w after : Nat) : Bool :=
  match step (State.reset.withFetchWord nbits w) with
  | .next u => ((u.group? r0).map fun (_, g) => decide (g.pc = after)) == some true
  | _ => false

theorem test_placed : placedRuns 32 0x02010203 0x1004 = true ∧ placedRuns 64 0x1D0202003F0AC809 0x1008 = true ∧ placedRuns 32 0x24000002 0x1004 = true ∧
    placedRuns 64 0x000000043A098600 0x1008 = true := by decide +kernel

end Sys2Proof.Tests
end

section
/-! Windows: which of them an access takes, and where it sends an address (R61, R62). -/
namespace Sys2Proof.Machine
open Sys2Proof

/-! ## The window that hits (R61) -/

theorem winHits_iff (w : List W64) (va : Nat) :
    winHits w va = true ↔ (w.getD 3 0).getLsbD 0 = true ∧ (w.getD 0 0).toNat ≤ va ∧ va < (w.getD 1 0).toNat := by
  simp [winHits, winWord, BitVec.getLsbD, and_assoc]

theorem hitWindow_eq_some_iff (ws : List (List W64)) (va : Nat) (w : List W64) :
    hitWindow ws va = some w ↔ ∃ n : Nat, ws[n]? = some w ∧ winHits w va = true ∧
      ∀ (m : Nat) v, m < n → ws[m]? = some v → winHits v va = false := by
  rw [hitWindow, List.find?_eq_some_iff_getElem]
  constructor
  · rintro ⟨hit, n, hn, hw, below⟩
    refine ⟨n, by rw [List.getElem?_eq_getElem hn, hw], hit, fun m v hm hv => ?_⟩
    obtain ⟨-, rfl⟩ := List.getElem?_eq_some_iff.mp hv
    simpa using below m hm
  · rintro ⟨n, hw, hit, below⟩
    obtain ⟨hn, hw⟩ := List.getElem?_eq_some_iff.mp hw
    exact ⟨hit, n, hn, hw, fun m hm => by simp [below m _ hm (List.getElem?_eq_getElem (Nat.lt_trans hm hn))]⟩

/-- The window that an access takes hits its address. -/
theorem winHits_of_hitWindow {ws : List (List W64)} {va : Nat} {w : List W64} (h : hitWindow ws va = some w) : winHits w va = true :=
  List.find?_some (p := fun w => winHits w va) h

theorem hitWindow_singleton {w : List W64} {va : Nat} (h : winHits w va = true) : hitWindow [w] va = some w := by
  simp [hitWindow, h]

/-- Windows enter the checks of an access through the hitting one alone. -/
theorem checkAccess_congr {ws vs : List (List W64)} {va : Nat} (h : hitWindow ws va = hitWindow vs va) (size perm : Nat) :
    checkAccess ws va size perm = checkAccess vs va size perm := by
  rw [checkAccess, checkAccess, h]

/-- Settles O43: the search is that of the first window for which `winHits` holds, and the checks see what it finds alone. -/
theorem lowestHittingWindowTranslates : Obligations.LowestHittingWindowTranslates :=
  ⟨winHits_iff, hitWindow_eq_some_iff, fun _ _ _ size perm h =>
    checkAccess_congr (h.trans (hitWindow_singleton (winHits_of_hitWindow h)).symm) size perm⟩

/-! ## Translation (R62) -/

/-- R62's `w`: where a window puts an address, in its home or in the striped space. -/
def spaceAt (w : List W64) (va : Nat) : Nat := va - (w.getD 0 0).toNat + (w.getD 2 0).toNat

/-- Where byte `x` of the striped space lies. -/
def striped (x : Nat) : Nat := x / 2 ^ 11 % 8 * 2 ^ 48 + x / 2 ^ 14 % 2 ^ 37 * 2 ^ 11 + x % 2 ^ 11

theorem translate_direct {w : List W64} (h : (w.getD 3 0).getLsbD 8 = false) (va : Nat) :
    translate w va = ((w.getD 3 0).extractLsb' 12 4).toNat * 2 ^ 48 + spaceAt w va % 2 ^ 48 := by
  have direct : ¬ (winWord w 3).testBit 8 = true := by rw [winWord, ← BitVec.getLsbD, h]; exact Bool.false_ne_true
  rw [translate, if_neg direct, BitVec.extractLsb'_toNat, Nat.shiftRight_eq_div_pow]
  rfl

theorem translate_striped {w : List W64} (h : (w.getD 3 0).getLsbD 8 = true) (va : Nat) : translate w va = striped (spaceAt w va) :=
  if_pos h

theorem spaceAt_add {w : List W64} {va : Nat} (h : (w.getD 0 0).toNat ≤ va) (n : Nat) : spaceAt w (va + n) = spaceAt w va + n := by
  unfold spaceAt
  omega

theorem homeOf_striped (x : Nat) : homeOf (striped x) = x / 2 ^ 11 % 8 := by
  unfold homeOf striped
  omega

theorem offsetOf_striped (x : Nat) : offsetOf (striped x) = x / 2 ^ 14 % 2 ^ 37 * 2 ^ 11 + x % 2 ^ 11 := by
  unfold offsetOf striped
  omega

/-- The fields of `w` that R62 names. -/
theorem striped_fields (x : W64) :
    striped x.toNat = (x.extractLsb' 11 3).toNat * 2 ^ 48 + (x.extractLsb' 14 37).toNat * 2 ^ 11 + (x.extractLsb' 0 11).toNat := by
  simp [striped, Nat.shiftRight_eq_div_pow]

/-- The stripes of an aligned 16 KiB lie on the eight homes in turn. -/
theorem homeOf_striped_stripe {x k j : Nat} (hx : x % 16384 = 0) (hk : k < 8) (hj : j < 2048) : homeOf (striped (x + 2048 * k + j)) = k := by
  rw [homeOf_striped]
  omega

/-- A home's 64 KiB page holds its stripes of 512 KiB of striped space. -/
theorem page_striped (x : Nat) : offsetOf (striped x) / 65536 = x / 2 ^ 19 % 2 ^ 32 := by
  rw [offsetOf_striped]
  have row : (x / 2 ^ 14 % 2 ^ 37 * 2 ^ 11 + x % 2 ^ 11) / 65536 = x / 2 ^ 14 % 2 ^ 37 / 2 ^ 5 := by omega
  calc _ = x / 2 ^ 14 % (2 ^ 5 * 2 ^ 32) / 2 ^ 5 := row
    _ = x / 2 ^ 14 / 2 ^ 5 % 2 ^ 32 := Nat.mod_mul_right_div_self ..
    _ = x / 2 ^ 19 % 2 ^ 32 := by rw [Nat.div_div_eq_div_mul, ← Nat.pow_add]

/-- An aligned 512 KiB of striped space lie in one 64 KiB page of each home. -/
theorem page_striped_span {x j : Nat} (hx : x % 524288 = 0) (hj : j < 524288) :
    offsetOf (striped (x + j)) / 65536 = offsetOf (striped x) / 65536 := by
  rw [page_striped, page_striped]
  omega

/-- One row on, the same stripe follows in the same home. -/
theorem striped_next_row {x : Nat} (hx : x + 16384 < 2 ^ 51) :
    homeOf (striped (x + 16384)) = homeOf (striped x) ∧ offsetOf (striped (x + 16384)) = offsetOf (striped x) + 2048 := by
  rw [homeOf_striped, homeOf_striped, offsetOf_striped, offsetOf_striped]
  omega

/-- Settles O44: a window is linear from its base, so each clause is one about `spaceAt`'s value, and in STRIPED mode about the
bits of a byte's place in the striped space. -/
theorem windowsTranslate : Obligations.WindowsTranslate := by
  intro w va x bound
  have hx : x.toNat = spaceAt w va := Nat.mod_eq_of_lt bound
  refine ⟨fun direct => ?_, fun str => ?_, fun str base row k hk j hj => ?_, fun str base span j hj => ?_, fun str base last => ?_⟩
  · simp [translate_direct direct, hx]
  · rw [translate_striped str, ← hx, striped_fields]
  · rw [translate_striped str, Nat.add_assoc, spaceAt_add base, ← Nat.add_assoc, ← hx]
    exact homeOf_striped_stripe row hk hj
  · rw [translate_striped str, translate_striped str, spaceAt_add base, ← hx]
    exact page_striped_span span hj
  · rw [translate_striped str, translate_striped str, spaceAt_add base, ← hx]
    exact striped_next_row last

end Sys2Proof.Machine
end

section
/-! Taking a trap leaves every window (R65, R384): what ends a team writes contexts at their receive slots, triggers and record
areas alone. -/
namespace Sys2Proof.Machine
open Sys2Proof

/-- The windows of every context stand. -/
structure State.KeepsWindows (s u : State) : Prop where
  windows : ∀ c, (u.ctx c).windows = (s.ctx c).windows

namespace State.KeepsWindows
variable {s u v : State}

theorem refl (s : State) : s.KeepsWindows s := ⟨fun _ => rfl⟩
theorem trans (a : s.KeepsWindows u) (b : u.KeepsWindows v) : s.KeepsWindows v := ⟨fun c => (b.windows c).trans (a.windows c)⟩

theorem of_contexts (h : s.KeepsWindows u) (e : v.contexts = u.contexts) : s.KeepsWindows v :=
  h.trans ⟨fun c => by rw [State.ctx, State.ctx, e]⟩

theorem of_ite {c : Prop} [Decidable c] (a : s.KeepsWindows u) (b : s.KeepsWindows v) : s.KeepsWindows (if c then u else v) := by
  split
  · exact a
  · exact b

theorem foldl {α : Type} {f : State → α → State} {l : List α} (h : s.KeepsWindows u) (step : ∀ (v : State) (x : α), v.KeepsWindows (f v x)) :
    s.KeepsWindows (l.foldl f u) := by
  induction l generalizing u with
  | nil => exact h
  | cons x r ih => exact ih (h.trans (step u x))

theorem updCtx {i : Nat} {f : Context → Context} (h : s.KeepsWindows u) (hf : ∀ x, (f x).windows = x.windows) :
    s.KeepsWindows (u.updCtx i f) := by
  refine h.trans ⟨fun c => ?_⟩
  simp only [State.ctx, State.updCtx, Sp.get, Sp.find?_adjust]
  split
  · rename_i hi
    subst hi
    cases u.contexts.find? i with
    | none => rfl
    | some x => exact hf x
  · rfl

/-! ## What a team has in flight -/

theorem dropTiles {core team : Nat} (h : s.KeepsWindows u) : s.KeepsWindows (u.dropTiles core team) := by
  refine .of_contexts (u := u.chargePasses core) ?_ rfl
  unfold State.chargePasses
  split
  · exact h
  · exact h.of_contexts rfl

theorem dropAccesses {id core : Nat} (h : s.KeepsWindows u) : s.KeepsWindows (u.dropAccesses id core) :=
  of_contexts (u := u.dropTiles core id) h.dropTiles rfl

theorem dropStores {id : Nat} (h : s.KeepsWindows u) : s.KeepsWindows (u.dropStores id) := .of_ite h (h.of_contexts rfl)

theorem wakeLog (s : State) (core : Nat) : s.KeepsWindows (s.wakeLog core) := by
  unfold State.wakeLog
  dsimp only
  split
  · exact .refl s
  · exact (refl s).of_contexts rfl

theorem wakeLogs {core : Nat} (h : s.KeepsWindows u) : s.KeepsWindows (u.wakeLogs core) := h.foldl fun v _ => wakeLog v core

/-! ## Engine operations -/

theorem lowerLines {l : List Nat} (h : s.KeepsWindows u) : s.KeepsWindows (u.lowerLines l) := by
  induction l generalizing u with
  | nil => exact h
  | cons k r ih => exact ih (h.of_contexts rfl)

theorem wakeAll {p : Group → Bool} (h : s.KeepsWindows u) : s.KeepsWindows (u.wakeAll p) := by
  unfold State.wakeAll
  exact h.foldl fun v _ => (refl v).of_contexts rfl

theorem arrived (s : State) (g n : Nat) : s.KeepsWindows (s.arrived g n) := by
  unfold State.arrived
  refine .of_ite (.refl s) ?_
  split
  · exact .refl s
  · exact .of_ite (.refl s) ((refl s).of_contexts rfl)

/-- The end of an operation writes its context at the receive slot and the triggers that name it. -/
theorem dropOp (s : State) (id : Nat) : s.KeepsWindows (s.dropOp id) := by
  unfold State.dropOp
  split
  · exact .refl s
  · refine foldl (wakeAll (of_contexts (u := State.updCtx _ _ _) ?_ rfl)) fun v q => arrived v q.1 q.2
    exact (refl s).lowerLines.updCtx fun _ => rfl

theorem dropOps {p : EngOp → Bool} (h : s.KeepsWindows u) : s.KeepsWindows (u.dropOps p) := by
  unfold State.dropOps
  exact h.foldl fun v q => dropOp v q.1

/-! ## Teams, records and reports -/

theorem stopTeam {id : Nat} (h : s.KeepsWindows u) : s.KeepsWindows (u.stopTeam id) := by
  unfold State.stopTeam
  split
  · exact h
  · dsimp only
    exact wakeLogs (dropOps (dropStores (dropAccesses (h.of_contexts rfl))))

theorem reportItem {t : Team} {status code : Nat} (h : s.KeepsWindows u) : s.KeepsWindows (u.reportItem t status code) :=
  .of_ite h (h.of_contexts rfl)

/-- A record marks its slot used, or is held, in its context. -/
theorem writeRecord {ctx : Nat} {ws : List W64} (h : s.KeepsWindows u) : s.KeepsWindows (u.writeRecord ctx ws) := by
  unfold State.writeRecord
  dsimp only
  split
  · refine of_contexts (u := State.updCtx _ _ _) ?_ rfl
    exact (h.of_contexts (u.hostWrite_touches _ _ _).contexts).updCtx fun _ => rfl
  · refine of_contexts (u := State.updCtx _ _ _) ?_ rfl
    exact updCtx (h.of_contexts rfl) fun _ => rfl

theorem trapTeam {id slot : Nat} {g : Group} {tr : Trap} {scope : Nat} {origin : Bool} (h : s.KeepsWindows u) :
    s.KeepsWindows (u.trapTeam id slot g tr scope origin) := by
  unfold State.trapTeam
  split
  · exact h
  · exact .of_ite h (.of_ite (reportItem (stopTeam h)) (reportItem (writeRecord (stopTeam h))))

theorem trapKept {id : Nat} {v : Saved} {slot : Nat} {g : Group} {tr : Trap} {scope : Nat} {origin : Bool} (h : s.KeepsWindows u) :
    s.KeepsWindows (u.trapKept id v slot g tr scope origin) := by
  unfold State.trapKept
  dsimp only
  refine reportItem (writeRecord (of_contexts (u := State.dropOps _ _) ?_ rfl))
  exact dropOps (h.of_contexts rfl)

theorem trapOthers {tr : Trap} {scope : Nat} {origin : Bool} {l : List Nat} (h : s.KeepsWindows u) :
    s.KeepsWindows (u.trapOthers tr scope origin l) := by
  induction l generalizing u with
  | nil => exact h
  | cons id r ih =>
    unfold State.trapOthers
    split
    · exact ih h
    · exact ih h.trapTeam

theorem trapSaved {tr : Trap} {scope : Nat} {l : List (Nat × Saved)} (h : s.KeepsWindows u) : s.KeepsWindows (u.trapSaved tr scope l) := by
  induction l generalizing u with
  | nil => exact h
  | cons p r ih => exact ih h.trapKept

theorem endLaunches {status code : Nat} {l : List Nat} (h : s.KeepsWindows u) : s.KeepsWindows (u.endLaunches status code l) := by
  induction l generalizing u with
  | nil => exact h
  | cons k r ih => exact ih (h.of_contexts rfl)

/-! ## Gangs -/

theorem breakWaits {gid cause : Nat} {l : List Nat} (h : s.KeepsWindows u) : s.KeepsWindows (u.breakWaits gid cause l) := by
  induction l generalizing u with
  | nil => exact h
  | cons id r ih =>
    refine ih ?_
    split
    · split
      · exact h.trapTeam
      · exact h
    · split
      · exact h.trapKept
      · exact h
    · exact h

theorem breakGang {gid cause : Nat} (h : s.KeepsWindows u) : s.KeepsWindows (u.breakGang gid cause) := by
  unfold State.breakGang
  split
  · exact h
  · exact .of_ite h (breakWaits (h.of_contexts rfl))

theorem breakGangs {l : List Nat} (h : s.KeepsWindows u) : s.KeepsWindows (u.breakGangs l) := by
  induction l generalizing u with
  | nil => exact h
  | cons id r ih =>
    unfold State.breakGangs
    split
    · exact ih h.breakGang
    · exact ih h

theorem breakSaved {l : List (Nat × Saved)} (h : s.KeepsWindows u) : s.KeepsWindows (u.breakSaved l) := by
  induction l generalizing u with
  | nil => exact h
  | cons p r ih =>
    refine ih ?_
    split
    · exact h.breakGang
    · exact h

theorem raiseTrap {r : GrpRef} {tr : Trap} (h : s.KeepsWindows u) : s.KeepsWindows (u.raiseTrap r tr) := by
  unfold State.raiseTrap
  split
  · exact h
  · refine .of_ite h (breakSaved (breakGangs (endLaunches (trapSaved ?_))))
    exact trapOthers (trapOthers (trapOthers (trapTeam h)))

end State.KeepsWindows

/-! ## CSRR and CSRW at the windows (R65) -/

/-- Issuing an instruction changes no context. -/
theorem issueOf_context (i : Instr) (p : Plan) (s : State) (r : GrpRef) (w : W32 × W32) (t : Team) (g : Group) :
    (issueOf i p s r w t g).context = s.ctx t.ctx := rfl

/-- CSRs 0x10 to 0x17 read WIN0 to WIN7. -/
theorem csrValue_window (x : Issue) {n : Nat} (hn : n < 8) (w : Nat) : csrValue x (0x10 + n) w = (x.context.window n).getD w 0 := by
  have past : ∀ k < 0x10, 0x10 + n ≠ k := by omega
  simp [csrValue, past]

theorem csrWritable_window {n : Nat} (h : 0x10 ≤ n) : csrWritable n = false := by
  simp only [csrWritable, List.contains_eq_mem, List.mem_cons, List.not_mem_nil, or_false, decide_eq_false_iff_not]
  omega

theorem exec_csrr (o : Alu) (s : State) : exec (.csrr o) s = execCsrr o s := rfl
theorem exec_csrw (o : Alu) (s : State) : exec (.csrw o) s = execCsrw o s := rfl

/-- PRIVILEGE is no consumption, which alone may roll a team back. -/
theorem State.take_tPrivilege (s : State) (r : GrpRef) : s.take r tPrivilege = s.raiseTrap r tPrivilege := rfl

/-- CSRW to a CSR that programs only read takes PRIVILEGE on the state before it (R367). -/
theorem csrw_readOnly {o : Alu} {s : State} {r : GrpRef} {w : W32 × W32} {t : Team} {g : Group} (issue : AtIssue s r w t g)
    (clear : (csrwPlan o).Clear (issueOf (.csrw o) (csrwPlan o) s r w t g))
    (selected : (issueOf (.csrw o) (csrwPlan o) s r w t g).selected = true) (readOnly : csrWritable o.a.code.toNat = false) :
    exec (.csrw o) s = .next (({ s with cur := none } : State).take r tPrivilege) := by
  rw [exec_csrw, execCsrw]
  refine program_stops (e := .trap tPrivilege) issue clear ?_
  dsimp only
  rw [selected, readOnly]
  rfl

/-- Settles O46: CSRR's value at a window's number is that window's word; no window is among the CSRs that CSRW may write, and the
trap keeps every window. -/
theorem programsReadWindowsOnly : Obligations.ProgramsReadWindowsOnly := by
  constructor
  · intro o n s r iw t g hn number issue x clear _
    rw [← issueOf_context (.csrr o) (csrrPlan o) s r iw t g, ← csrValue_window x hn, ← number, exec_csrr, execCsrr]
    exact program_completes issue clear rfl
  · intro o s r iw t g lo _ issue x clear selected
    have kept : s.KeepsWindows (({ s with cur := none } : State).take r tPrivilege) := by
      rw [State.take_tPrivilege]
      exact .raiseTrap ((State.KeepsWindows.refl s).of_contexts rfl)
    exact ⟨_, csrw_readOnly issue clear selected (csrWritable_window lo), rfl, rfl, kept.windows⟩

end Sys2Proof.Machine
end

section
/-! Atomics: what keeps a paired team and home 8 from them (R149 to R151). -/
namespace Sys2Proof.Machine
open Sys2Proof

/-! ## Paired teams (R151) -/

theorem exec_atom (o : Atm) (s : State) : exec (.atom o) s = execAtom o s := rfl
theorem exec_atomU (o : Atm) (s : State) : exec (.atomU o) s = execAtomU o s := rfl
theorem exec_red (o : Atm) (s : State) : exec (.red o) s = execRed o s := rfl

/-- In a paired team an atomic stops before its addresses are looked at, whatever its scope and whatever its guard selects (log 85). -/
theorem atmBody_paired {kind : AccessKind} {o : Atm} {x : Issue} (tags : x.TagsOk (atmClasses 2 o)) (paired : x.team.k.paired = true) :
    atmBody kind o x = .error (.trap tPairedForbidden) := by
  rw [atmBody, tags.ok, paired]
  rfl

/-- ATOM, its U-set form and RED in a paired team: the trap is taken on the state before the issue. -/
theorem atm_paired {i : Instr} {p : Plan} {kind : AccessKind} {o : Atm} {s : State} {r : GrpRef} {w : W32 × W32} {t : Team} {g : Group}
    (issue : AtIssue s r w t g) (paired : t.k.paired = true) (clear : p.Clear (issueOf i p s r w t g))
    (tags : (issueOf i p s r w t g).TagsOk (atmClasses 2 o)) :
    program i p (atmBody kind o) s = .next (({ s with cur := none } : State).take r tPairedForbidden) :=
  program_stops issue clear (atmBody_paired tags paired)

/-! ## Home 8 (R63, R64) -/

/-- A window that R64 does not refuse and that lies DIRECT on home 8 grants no A. -/
theorem windowBad_home8 {w0 w1 w2 w3 : W64} (taken : windowBad w0 w1 w2 w3 = false) (direct : w3.getLsbD 8 = false)
    (home : (w3.extractLsb' 12 4).toNat = 8) : w3.getLsbD 3 = false := by
  have field : w3.toNat / 2 ^ 12 % 16 = 8 := by
    rw [← home, BitVec.extractLsb'_toNat, Nat.shiftRight_eq_div_pow]
  simp only [windowBad, Bool.or_eq_false_iff] at taken
  obtain ⟨-, grants⟩ := taken
  simp only [direct, field] at grants
  have neither : w3.getLsbD 3 = false ∧ w3.getLsbD 4 = false := by simpa using grants
  exact neither.1

/-- A permission that the hitting window lacks fails the access once its address and alignment pass (R63, R67). -/
theorem checkAccess_of_lacks {ws : List (List W64)} {w : List W64} {va size perm k : Nat} (hit : hitWindow ws va = some w)
    (lacks : (w.getD 3 0).getLsbD k = false) (asks : perm.testBit k = true) (low : va < 2 ^ 57) (aligned : va % size = 0) :
    checkAccess ws va size perm = .error (4, 3) := by
  have refused : winWord w 3 &&& perm ≠ perm := fun h => by
    have granted : (winWord w 3).testBit k = true := by
      rw [← h, Nat.testBit_and] at asks
      exact (Bool.and_eq_true_iff.mp asks).1
    exact Bool.false_ne_true (lacks.symm.trans granted)
  rw [checkAccess, if_neg (Nat.not_le.mpr low), if_neg (by simp [aligned]), hit]
  exact if_neg (by simpa using refused)

/-- Settles O49: the trap comes before any look at the addresses; R64 refuses A in a window onto home 8; a window without A fails
the fourth check of R67. -/
theorem pairedAtomicsForbidden : Obligations.PairedAtomicsForbidden := by
  refine ⟨fun o s r iw t g issue paired => ⟨fun clear tags _ => ?_, fun clear tags _ => ?_, fun clear tags _ => ?_⟩,
    fun _ _ _ _ => windowBad_home8, fun _ _ _ _ _ => checkAccess_of_lacks⟩
  · exact (exec_atom o s).trans (atm_paired issue paired clear tags)
  · exact (exec_atomU o s).trans (atm_paired issue paired clear tags)
  · exact (exec_red o s).trans (atm_paired issue paired clear tags)

end Sys2Proof.Machine
end

section
/-! CTIME and the U-set pair that it writes (R36, R157, R273). -/
namespace Sys2Proof.Machine
open Sys2Proof

/-- The entry of a U-set word in `y`. -/
def groupLatch (v : W32) : Latch := { valid := true, vals := Sp.set 0 [] 0 v }

@[simp] theorem groupLatch_lane (v : W32) : (groupLatch v).lane 0 = v := Sp.get_set_self ..

@[simp] theorem Group.sreg_setSreg_self (g : Group) (d : Nat) (v : W32) : (g.setSreg d v).sreg d = v := Sp.get_set_self ..

/-- A selected pair is written, its low word first and pushed first. -/
theorem Group.writeU_pair (g : Group) (d : Nat) (a b : W32) :
    g.writeU false true d 2 [a, b] = { (g.setSreg d a).setSreg (d + 1) b with y := pushLatch (pushLatch g.y (groupLatch a)) (groupLatch b) } := rfl

theorem Group.sreg_writeU_pair (g : Group) (d : Nat) (a b : W32) :
    (g.writeU false true d 2 [a, b]).sreg d = a ∧ (g.writeU false true d 2 [a, b]).sreg (d + 1) = b := by
  rw [Group.writeU_pair]
  constructor
  · exact ((g.setSreg d a).setSreg_ne b (Nat.ne_of_lt d.lt_succ_self)).trans (g.sreg_setSreg_self d a)
  · exact (g.setSreg d a).sreg_setSreg_self (d + 1) b

/-- The two words of a value cut to 64 bits. -/
theorem pairOf_ofNat (n : Nat) : pairOf (BitVec.ofNat 64 n) = [BitVec.ofNat 32 n, BitVec.ofNat 32 (n / 2 ^ 32)] := by
  have low : (BitVec.ofNat 64 n).setWidth 32 = BitVec.ofNat 32 n := by
    apply BitVec.eq_of_toNat_eq
    simp only [BitVec.toNat_setWidth, BitVec.toNat_ofNat]
    omega
  have high : (BitVec.ofNat 64 n >>> 32).setWidth 32 = BitVec.ofNat 32 (n / 2 ^ 32) := by
    apply BitVec.eq_of_toNat_eq
    simp only [BitVec.toNat_setWidth, BitVec.toNat_ushiftRight, BitVec.toNat_ofNat, Nat.shiftRight_eq_div_pow]
    omega
  rw [pairOf, low, high]

/-- A pair at an odd register is misaligned, whatever the kernel holds (R16). -/
theorem dstIllegal_odd {d : Nat} (odd : d % 2 = 1) (u : Bool) (k : Kernel) : dstIllegal u k (d, 2) = true := by
  simp [dstIllegal, odd]

theorem exec_ctime (o : Alu) (s : State) : exec (.ctime o) s = execCtime o s := rfl

/-- Settles O52: CTIME's body always completes, with the pair of the horizon. -/
theorem ctimeReadsTheHorizon : Obligations.CtimeReadsTheHorizon := by
  refine ⟨?_, fun g d a b => ⟨groupLatch a, groupLatch b, ?_⟩, fun o k keeps odd => ?_, rfl, rfl, rfl⟩
  · intro o s r iw t g issue x clear _
    rw [← pairOf_ofNat, exec_ctime, execCtime]
    exact program_completes issue clear rfl
  · exact ⟨congrArg Group.y (g.writeU_pair d a b), groupLatch_lane a, groupLatch_lane b, g.sreg_writeU_pair d a b⟩
  · simp [ctimePlan, keeps, dstIllegal_odd odd]

end Sys2Proof.Machine
end

section
/-! YIELD: the rotation of its group, and the latches that it clears (R238, R239, R300). -/
namespace Sys2Proof.Machine
open Sys2Proof

/-! ## The lowest PC, and the next one (R238) -/

/-- The lowest PC of some threads is that of one of them. -/
theorem exists_pc_eq_minPc {l : List Thread} (nonempty : l ≠ []) : ∃ t ∈ l, minPc l = t.pc := by
  induction l with
  | nil => exact absurd rfl nonempty
  | cons a r ih =>
    cases r with
    | nil => exact ⟨a, List.mem_cons_self, rfl⟩
    | cons b q =>
      obtain ⟨t, mem, least⟩ := ih (List.cons_ne_nil _ _)
      rcases Nat.le_total a.pc (minPc (b :: q)) with here | there
      · exact ⟨a, List.mem_cons_self, Nat.min_eq_left here⟩
      · exact ⟨t, List.mem_cons_of_mem _ mem, (Nat.min_eq_right there).trans least⟩

theorem minPc_le {l : List Thread} {t : Thread} (mem : t ∈ l) : minPc l ≤ t.pc := by
  induction l with
  | nil => exact absurd mem List.not_mem_nil
  | cons a r ih =>
    cases r with
    | nil => exact Nat.le_of_eq (congrArg Thread.pc (List.mem_singleton.mp mem).symm)
    | cons b q =>
      rcases List.mem_cons.mp mem with rfl | later
      · exact Nat.min_le_left ..
      · exact Nat.le_trans (Nat.min_le_right ..) (ih later)

/-- Threads above the old PC, if there are any, decide the next one alone. -/
theorem nextPc_of_above {old : Nat} {ws : List Thread} (above : ∃ t ∈ ws, old < t.pc) :
    nextPc old ws = minPc (ws.filter fun t => decide (old < t.pc)) :=
  if_neg (by simpa [List.isEmpty_iff, List.filter_eq_nil_iff] using above)

theorem nextPc_of_noneAbove {old : Nat} {ws : List Thread} (low : ∀ t ∈ ws, t.pc ≤ old) : nextPc old ws = minPc ws :=
  if_pos (by simpa [List.isEmpty_iff, List.filter_eq_nil_iff] using low)

/-- Where some thread is above the old PC, the next one is that of such a thread. -/
theorem exists_above_pc_eq_nextPc {old : Nat} {ws : List Thread} (above : ∃ t ∈ ws, old < t.pc) :
    ∃ t ∈ ws, old < t.pc ∧ nextPc old ws = t.pc := by
  have nonempty : (ws.filter fun t => decide (old < t.pc)) ≠ [] := by simpa [List.filter_eq_nil_iff] using above
  obtain ⟨t, mem, least⟩ := exists_pc_eq_minPc nonempty
  obtain ⟨waits, higher⟩ := List.mem_filter.mp mem
  exact ⟨t, waits, of_decide_eq_true higher, (nextPc_of_above above).trans least⟩

/-- The next PC is above the old one where some thread is, and is then the lowest of those. -/
theorem nextPc_above {old : Nat} {ws : List Thread} (above : ∃ t ∈ ws, old < t.pc) :
    old < nextPc old ws ∧ ∀ t ∈ ws, old < t.pc → nextPc old ws ≤ t.pc := by
  constructor
  · obtain ⟨t, -, higher, next⟩ := exists_above_pc_eq_nextPc above
    exact Nat.lt_of_lt_of_eq higher next.symm
  · intro t mem higher
    exact Nat.le_trans (Nat.le_of_eq (nextPc_of_above above)) (minPc_le (List.mem_filter.mpr ⟨mem, decide_eq_true higher⟩))

/-- The next PC is that of a waiting thread. -/
theorem exists_pc_eq_nextPc (old : Nat) {ws : List Thread} (nonempty : ws ≠ []) : ∃ t ∈ ws, nextPc old ws = t.pc := by
  by_cases above : ∃ t ∈ ws, old < t.pc
  · obtain ⟨t, mem, -, next⟩ := exists_above_pc_eq_nextPc above
    exact ⟨t, mem, next⟩
  · rw [nextPc_of_noneAbove (by simpa using above)]
    exact exists_pc_eq_minPc nonempty

/-! ## Rotation (R238) -/

/-- The current set is made of threads at its PC. -/
theorem Group.pc_of_mem_setCurrent {g : Group} {pc : Nat} {y : Thread} (mem : y ∈ (g.setCurrent pc).threads) (active : y.mode = .active) :
    y.pc = pc := by
  obtain ⟨t, -, rfl⟩ := List.mem_map.mp mem
  by_cases flows : (t.mode == .active || t.mode == .waiting) = true
  · rw [if_pos flows] at active ⊢
    by_cases here : t.pc = pc
    · exact here
    · rw [if_neg here] at active
      exact ThreadMode.noConfusion active
  · rw [if_neg flows] at active
    simp [active] at flows

theorem Group.rotate_of_waiting {g : Group} (waits : g.waiting ≠ []) :
    g.rotate = ({ g.clearLatches with run := 0 } : Group).setCurrent (nextPc g.pc g.waiting) :=
  if_neg (by simpa [List.isEmpty_iff] using waits)

/-- Rotation clears both sets of latches, and leaves the switch point that waits for a loop-back. -/
theorem Group.rotate_latches (g : Group) : g.rotate.x = [] ∧ g.rotate.y = [] ∧ g.rotate.spDue = g.spDue := by
  unfold Group.rotate
  dsimp only
  split <;> exact ⟨rfl, rfl, rfl⟩

/-! ## The switch point of YIELD (R239, R300) -/

/-- YIELD clears both sets of latches whether it rotates its group or not. -/
theorem Group.yielded_latches (g : Group) (turned : Bool) :
    (g.yielded turned).x = [] ∧ (g.yielded turned).y = [] ∧ (g.yielded turned).spDue = g.spDue := by
  unfold Group.yielded
  split
  · exact g.rotate_latches
  · exact ⟨rfl, rfl, rfl⟩

theorem Group.yielded_eq_rotate {g : Group} (ready : g.mode = .ready) (flows : g.loopDue = false) : g.yielded false = g.rotate :=
  if_pos (by simp [ready, flows])

/-- Without S = 1 there is no safe point. -/
theorem State.safePoint_none (s : State) (r : GrpRef) : s.safePoint r none = s := by
  unfold State.safePoint
  split <;> rfl

theorem Issue.plain_of_none {x : Issue} (noPoint : x.h.sp = none) : x.plain = x := by
  rw [Issue.plain, ← noPoint]

/-- Without S = 1 YIELD is sequential flow and then its own switch point. -/
theorem Issue.yields_of_none {x : Issue} (noPoint : x.h.sp = none) :
    x.yields = (x.seq x.s).updGroup x.g (·.yielded x.turned) := by
  rw [Issue.yields, Issue.plain_of_none noPoint, noPoint, State.safePoint_none]
  congr 1
  funext g
  obtain ⟨-, -, due⟩ := g.yielded_latches x.turned
  simp [← due]

theorem exec_yield (o : Alu) (s : State) : exec (.yield o) s = execYield o s := rfl

/-! ## A read of cleared latches (R239) -/

theorem Issue.latchInvalid_of_cleared {x : Issue} {l : List Src} {n : BitVec 2} (clearX : x.grp.x = []) (clearY : x.grp.y = [])
    (reads : .latch n ∈ l) : x.latchInvalid l = true := by
  have cleared : x.latches = [] := by rw [Issue.latches, clearX, clearY, ite_self]
  exact List.any_eq_true.mpr ⟨n.toNat, List.mem_filterMap.mpr ⟨_, reads, rfl⟩, by simp [cleared, latchAt]⟩

/-- Settles O51: YIELD's body always completes; its switch point is a rotation where settling has not forced one, and leaves no valid
latch for the check of R55. -/
theorem yieldRotates : Obligations.YieldRotates := by
  refine ⟨?_, fun g b => ?_, fun g waits => ?_, fun old ws nonempty => ⟨exists_pc_eq_nextPc old nonempty, nextPc_above, fun low t mem => ?_⟩, ?_⟩
  · intro o s r iw t g issue x clear _
    refine ⟨?_, fun noPoint unturned => ?_⟩
    · rw [exec_yield, execYield]
      exact program_completes issue clear rfl
    · rw [Issue.yields_of_none noPoint, unturned]
      rfl
  · obtain ⟨clearX, clearY, -⟩ := g.yielded_latches b
    exact ⟨clearX, clearY, fun ready flows unturned => unturned ▸ Group.yielded_eq_rotate ready flows⟩
  · rw [Group.rotate_of_waiting waits]
    exact ⟨rfl, fun _ => Group.pc_of_mem_setCurrent⟩
  · rw [nextPc_of_noneAbove low]
    exact minPc_le mem
  · intro p x n k clearX clearY reads form mask sources destinations operands role judgedReady noIllegal noOperand
    have invalid : x.latchInvalid (p.srcs.map (·.1)) = true :=
      Issue.latchInvalid_of_cleared clearX clearY (List.mem_map.mpr ⟨_, reads, rfl⟩)
    simp [Plan.check, form, judgedReady, noIllegal, mask, sources, destinations, operands, noOperand, role, invalid]

end Sys2Proof.Machine
end

section
/-! TRAP: the trap of a program's own, and its data word (R383, R386). -/
namespace Sys2Proof.Machine
open Sys2Proof

variable {s : State} {r : GrpRef} {w : W32 × W32} {t : Team} {g : Group}

/-- An illegal form is the first thing that R55 looks at: it is trapped on the state before the issue, whatever else fails. -/
theorem program_illegal {i : Instr} {p : Plan} {body : Body} (issue : AtIssue s r w t g)
    (illegal : p.illegal (issueOf i p s r w t g) = true) :
    program i p body s = .next (({ s with cur := none } : State).take r tIllegalInstruction) :=
  program_refuses (e := .trap tIllegalInstruction) issue (if_pos illegal)

theorem exec_trap (o : Alu) (s : State) : exec (.trap o) s = execTrap o s := rfl

/-- A selected TRAP stops with SOFTWARE, and its operand is the trap's data. -/
theorem exec_trap_selected {o : Alu} (issue : AtIssue s r w t g) (clear : (trapPlan o).Clear (issueOf (.trap o) (trapPlan o) s r w t g))
    (selected : (issueOf (.trap o) (trapPlan o) s r w t g).selected = true) :
    exec (.trap o) s = .next (({ s with cur := none } : State).take r (tSoftware ((issueOf (.trap o) (trapPlan o) s r w t g).ua o))) := by
  rw [exec_trap, execTrap]
  exact program_stops (e := .trap (tSoftware _)) issue clear (if_pos selected)

theorem trapPlan_illegal_of_d {o : Alu} (d : o.d ≠ 0) (x : Issue) : (trapPlan o).illegal x = true := by
  have nonzero : (o.d != 0) = true := bne_iff_ne.mpr d
  simp only [trapPlan, nonzero, Bool.or_true, Bool.true_or]

/-- The last word of a record's header is the trap's data. -/
theorem recordHead_data (s : State) (t : Team) (slot : Nat) (g : Group) (tr : Trap) (scope : Nat) (origin : Bool) (pc : Nat) :
    (recordHead s t slot g tr scope origin pc)[7]? = some (BitVec.ofNat 64 tr.data) := rfl

/-- Settles O47: TRAP's body stops with SOFTWARE where it is selected; the record writes the trap's data in 64 bits, which a 32-bit
operand fits; and d stands among the fields of its form, the first check of R55. -/
theorem trapRaisesSoftware : Obligations.TrapRaisesSoftware := by
  refine ⟨fun o s r iw t g issue => exec_trap_selected issue, fun s t slot g a scope origin pc => ?_, fun o s r iw t g issue d => ?_⟩
  · rw [recordHead_data, BitVec.ofNat_toNat]
  · rw [exec_trap, execTrap]
    exact program_illegal issue (trapPlan_illegal_of_d d _)

end Sys2Proof.Machine
end

section
/-! Register-to-register instructions of both sets: what each of them does, and what it leaves (R272, R273). -/
namespace Sys2Proof.Machine
open Sys2Proof

/-- Every V-set register-to-register instruction is the one skeleton on its operation. -/
theorem exec_of_vectorOp {i : Instr} {o : Alu} {q : Op} (h : vectorOp i = some (o, q)) (s : State) : exec i s = vOp i o q s := by
  unfold vectorOp at h
  split at h <;> cases h <;> rfl

theorem exec_of_uniformOp {i : Instr} {o : Alu} {q : Op} (h : uniformOp i = some (o, q)) (s : State) : exec i s = uOp i o q s := by
  unfold uniformOp at h
  split at h <;> cases h <;> rfl

theorem vRuns_of_vectorOp {i : Instr} {o : Alu} {q : Op} (h : vectorOp i = some (o, q)) : VRuns i o q := by
  rintro s r w t g issue clear ⟨-, tags, tie⟩
  exact (exec_of_vectorOp h s).trans (vOp_completes issue clear tags tie)

theorem uRuns_of_uniformOp {i : Instr} {o : Alu} {q : Op} (h : uniformOp i = some (o, q)) : URuns i o q := by
  rintro s r w t g issue clear -
  exact (exec_of_uniformOp h s).trans (uOp_completes issue clear)

/-- Settles O1: each form is an entry of `vectorOp`. -/
theorem integerLaneInstructionsComplete : Obligations.IntegerLaneInstructionsComplete := by
  unfold Obligations.IntegerLaneInstructionsComplete
  and_intros
  all_goals exact fun o => vRuns_of_vectorOp rfl

/-- Settles O2: each form is an entry of `uniformOp`. -/
theorem uniformInstructionsComplete : Obligations.UniformInstructionsComplete := by
  unfold Obligations.UniformInstructionsComplete
  and_intros
  all_goals exact fun o => uRuns_of_uniformOp rfl

/-- Settles O3: each form is an entry of `vectorOp`. -/
theorem floatInstructionsComplete : Obligations.FloatInstructionsComplete := by
  unfold Obligations.FloatInstructionsComplete
  and_intros
  all_goals exact fun o => vRuns_of_vectorOp rfl

/-- Settles O34: the only write of such an instruction in its group is that of its results, and outside the group it counts alone. -/
theorem vectorInstructionsKeepTheRest : Obligations.VectorInstructionsKeepTheRest := by
  rintro i o q h s r w t g issue clear ⟨flows, tags, tie⟩
  refine ⟨_, vRuns_of_vectorOp h s r w t g issue clear ⟨flows, tags, tie⟩, ?_⟩
  exact onGroup_frame issue flows (fun _ => Group.writeV_keeps ..) (State.count_outside ..) (State.count_group ..)

/-- What a U-set result adds to the exception counters keeps everything outside its group, and its group. -/
theorem Issue.wroteU_counts (x : Issue) (w : Bool) (d k : Nat) (v : Res) :
    (x.s.updGroup x.g fun g => g.writeU w x.selected d k v.words).KeptOutside (x.wroteU w d k v) x.g ∧
      (x.wroteU w d k v).group? x.g = (x.s.updGroup x.g fun g => g.writeU w x.selected d k v.words).group? x.g := by
  unfold Issue.wroteU
  dsimp only
  split
  · exact ⟨State.count_outside .., State.count_group ..⟩
  · exact ⟨.refl .., rfl⟩

/-- Settles O35: a U-set result is written where the guard selects the group and W is clear. -/
theorem uniformInstructionsKeepTheRest : Obligations.UniformInstructionsKeepTheRest := by
  intro i o q h s r w t g issue clear flows
  refine ⟨_, uRuns_of_uniformOp h s r w t g issue clear ⟨flows, trivial⟩, ?_⟩
  obtain ⟨outside, group⟩ := Issue.wroteU_counts (issueOf i (q.plan true o) s r w t g) o.w o.d.toNat q.kd
    (q.value (issueOf i (q.plan true o) s r w t g) (q.lane (issueOf i (q.plan true o) s r w t g) o groupThread))
  refine onGroup_frame issue flows (fun g' => ?_) outside group
  obtain ⟨keeps, threads, levels, pc⟩ := Group.writeU_keeps g' o.w (issueOf i (q.plan true o) s r w t g).selected o.d.toNat q.kd
    (q.value (issueOf i (q.plan true o) s r w t g) (q.lane (issueOf i (q.plan true o) s r w t g) o groupThread)).words
  exact ⟨keeps, threads ▸ .refl _, levels, pc⟩

end Sys2Proof.Machine
end


section
/-! Compares, NOP, control flow and loops complete (R282, R294 to R303). -/
namespace Sys2Proof.Machine
open Sys2Proof

/-- What follows a check that passes. -/
theorem bind_of_ok {ε α β : Type} {e : Except ε α} {a : α} (h : e = .ok a) (f : α → Except ε β) : e.bind f = f a := by
  rw [h]
  rfl

theorem map_of_ok {ε α β : Type} {e : Except ε α} {a : α} (h : e = .ok a) (f : α → β) : e.map f = .ok (f a) := by
  rw [h]
  rfl

/-- Settles O4: NOP's body and those of the U-set compares always complete, those of the V-set compares where their tag classes hold. -/
theorem comparesAndNopComplete : Obligations.ComparesAndNopComplete :=
  ⟨fun o => Runs.of (execNop o) (fun _ => rfl) rfl fun _ _ => rfl,
   fun o => Runs.of (execNopU o) (fun _ => rfl) rfl fun _ _ => rfl,
   fun o => Runs.of (execIcmp o) (fun _ => rfl) rfl fun _ tags => map_of_ok (Issue.TagsOk.ok tags) _,
   fun o => Runs.of (execIcmpU o) (fun _ => rfl) rfl fun _ _ => rfl,
   fun o => Runs.of (execIcmpi o) (fun _ => rfl) rfl fun _ _ => rfl,
   fun o => Runs.of (execFcmp o) (fun _ => rfl) rfl fun _ tags => map_of_ok (Issue.TagsOk.ok tags) _⟩

/-! ## Branches (R295, R296) -/

/-- Both lane branches are the one skeleton on one body. -/
theorem exec_laneBranch (nodiv : Bool) (o : Bra) (s : State) :
    exec (laneBranch nodiv o) s = program (laneBranch nodiv o) (braPlan o) (braBody nodiv o) s := by
  cases nodiv <;> rfl

theorem braBody_untaken {nodiv : Bool} {o : Bra} {x : Issue} (none : x.grp.active.all (fun t => !braTaken o t) = true) :
    braBody nodiv o x = .ok (x.seq x.s) := if_pos none

/-- A current set that is not empty and takes the branch as a whole does not pass it as a whole. -/
theorem not_all_untaken {o : Bra} {l : List Thread} (some : l ≠ []) (all : l.all (braTaken o) = true) : l.all (fun t => !braTaken o t) ≠ true := by
  cases l with
  | nil => exact absurd rfl some
  | cons t r =>
    obtain ⟨taken, -⟩ := Bool.and_eq_true_iff.mp all
    simp [taken]

theorem braBody_taken {nodiv : Bool} {o : Bra} {x : Issue} (some : x.grp.active ≠ []) (all : x.grp.active.all (braTaken o) = true) :
    braBody nodiv o x = .ok (x.jump x.s (braTarget o x.next)) :=
  (if_neg (not_all_untaken some all)).trans (if_pos all)

theorem braBody_parts {nodiv : Bool} {o : Bra} {x : Issue} (someTake : x.grp.active.all (fun t => !braTaken o t) = false)
    (somePass : x.grp.active.all (braTaken o) = false) (free : braBarred nodiv o x = false) : braBody nodiv o x = .ok (braPart o x) := by
  rw [braBody, someTake, somePass, free]
  rfl

/-- Settles O8: each body completes in the branch that its hypotheses name. -/
theorem controlFlowCompletes : Obligations.ControlFlowCompletes :=
  ⟨fun nodiv o => Runs.of _ (exec_laneBranch nodiv o) rfl fun _ none => braBody_untaken none,
   fun nodiv o => Acts.of _ (exec_laneBranch nodiv o) rfl fun _ ⟨present, all, _⟩ => braBody_taken present all,
   fun o => Acts.of (execBra o) (fun _ => rfl) rfl fun _ ⟨someTake, somePass, free, _⟩ => braBody_parts someTake somePass free,
   fun o => Acts.of (execMeet o) (fun _ => rfl) rfl fun _ _ => rfl,
   fun o => Acts.of (execBru o) (fun _ => rfl) rfl fun _ ⟨taken, _⟩ => congrArg Except.ok (if_pos taken),
   fun o => Runs.of (execBru o) (fun _ => rfl) rfl fun _ untaken => congrArg Except.ok (if_neg (ne_true_of_eq_false untaken)),
   fun o => Acts.of (execJmp o) (fun _ => rfl) rfl fun _ _ => rfl,
   fun o => Acts.of (execJmpi o) (fun _ => rfl) rfl fun _ ⟨aligned, _⟩ => if_neg (by simp [aligned]),
   fun o => Acts.of (execCall o) (fun _ => rfl) rfl fun _ ⟨converged, _⟩ => if_pos converged,
   fun o => Acts.of (execRet o) (fun _ => rfl) rfl fun _ ⟨converged, _⟩ => if_pos converged,
   fun o => Acts.of (execExit o) (fun _ => rfl) rfl fun _ _ => rfl,
   fun o => Acts.of (execExitU o) (fun _ => rfl) rfl fun _ _ => rfl,
   fun o => Acts.of (execYield o) (fun _ => rfl) rfl fun _ _ => rfl,
   fun o => Acts.of (execRegroup o) (fun _ => rfl) rfl fun _ ⟨tags, _⟩ => map_of_ok tags.ok _⟩

/-! ## Loops (R301, R302) -/

theorem loopBody_opens {o : Lop} {count : Issue → Nat} {x : Issue} (legal : loopIllegal x o = false) (converged : x.grp.converged = true)
    (runs : count x ≠ 0) : loopBody o count x = .ok (x.seq (loopOpen o (count x) x)) := by
  rw [loopBody, legal, converged, if_neg Bool.false_ne_true, if_neg (by simp), if_neg runs]

theorem loopBody_passes {o : Lop} {count : Issue → Nat} {x : Issue} (legal : loopIllegal x o = false) (converged : x.grp.converged = true)
    (zero : count x = 0) : loopBody o count x = .ok ((x.goTo (lopStop o x.next)).seq x.s) := by
  rw [loopBody, legal, converged, if_neg Bool.false_ne_true, if_neg (by simp), if_pos zero]

/-- Settles O9: LOOP and LOOPI share one body, which opens a level or passes over it; BRK's body always completes. -/
theorem loopsComplete : Obligations.LoopsComplete :=
  ⟨fun o => Runs.of (execLoop o) (fun _ => rfl) rfl fun _ ⟨legal, converged, runs⟩ => loopBody_opens legal converged runs,
   fun o => Acts.of (execLoop o) (fun _ => rfl) rfl fun _ ⟨legal, converged, zero, _⟩ => loopBody_passes legal converged zero,
   fun o => Runs.of (execLoopi o) (fun _ => rfl) rfl fun _ ⟨legal, converged, runs⟩ => loopBody_opens legal converged runs,
   fun o => Acts.of (execLoopi o) (fun _ => rfl) rfl fun _ ⟨legal, converged, zero, _⟩ => loopBody_passes legal converged zero,
   fun o => Acts.of (execBrk o) (fun _ => rfl) rfl fun _ _ => rfl⟩

/-! ## CALL and RET where they may not run (R297) -/

theorem exec_call (o : Jmp) (s : State) : exec (.call o) s = execCall o s := rfl
theorem exec_ret (o : Jind) (s : State) : exec (.ret o) s = execRet o s := rfl

/-- A U-set instruction without operands, mask word or fields to refuse fails R55's operand check first, where it fails that one. -/
theorem check_of_operand {p : Plan} {x : Issue} (form : p.illegal x = false) (judged : p.judged = []) (fails : p.operand x = true) :
    p.check x = some (.trap tIllegalOperand) := by
  have none : p.readable x = [] := by rw [Plan.readable, judged]; rfl
  have ready : x.pending [] = Option.none := rfl
  simp [Plan.check, form, none, ready, fails]

/-- Settles O50: the stack is judged among the operands of R55, convergence by the body; either trap is taken on the state before the
issue. -/
theorem callAndReturnTrap : Obligations.CallAndReturnTrap := by
  refine ⟨fun o s r iw t g issue clear apart => ?_, fun o s r iw t g issue clear apart => ?_, fun o s r iw t g issue _ full => ?_,
    fun o s r iw t g issue _ empty => ?_⟩
  · rw [exec_call, execCall]
    exact program_stops (e := .trap tUniformViolation) issue clear (if_neg (ne_true_of_eq_false apart))
  · rw [exec_ret, execRet]
    exact program_stops (e := .trap tUniformViolation) issue clear (if_neg (ne_true_of_eq_false apart))
  · rw [exec_call, execCall]
    exact program_refuses (e := .trap tIllegalOperand) issue (check_of_operand rfl rfl (decide_eq_true full))
  · rw [exec_ret, execRet]
    exact program_refuses (e := .trap tIllegalOperand) issue (check_of_operand rfl rfl (List.isEmpty_iff.mpr empty))

end Sys2Proof.Machine
end


section
/-! What compares, NOP, branches, jumps and MEET leave unchanged (R282, R295, R296, R298). -/
namespace Sys2Proof.Machine
open Sys2Proof

/-- The current set stands at `a`, with the loop levels `l`. -/
def Group.movedTo (g : Group) (a : Nat) (l : List Level) : Group := { (g.mapActive fun t => { t with pc := a }) with pc := a, levels := l }

theorem Group.movedTo_keeps (g : Group) (a : Nat) (l : List Level) : g.KeepsAll (g.movedTo a l) :=
  (Group.mapActive_keeps g (fun t => { t with pc := a }) fun _ => ⟨rfl, rfl, rfl, rfl⟩).then_all (.of_flow (f := id) (List.map_id _).symm (by simp) rfl)

theorem StandAlike.movedTo {g h : Group} (e : StandAlike g.threads h.threads) (a : Nat) (l m : List Level) :
    StandAlike (g.movedTo a l).threads (h.movedTo a m).threads :=
  e.map fun a b h1 h2 h3 => by rw [h1]; split <;> simp [*]

/-- A redirect keeps all but the flow, where the threads stand as they did at the issue. -/
theorem Issue.jump_frame {x : Issue} {s : State} {t : Team} {g : Group} {target : Nat} (group : s.group? x.g = some (t, g))
    (alike : StandAlike x.grp.threads g.threads) (jumps : x.grp.JumpsTo target) :
    s.Frame (x.jump s target) x.g g (fun _ => False) (fun _ => False) False False := by
  have settles : (g.movedTo target (endLevels target g.levels)).Settles :=
    Group.Settles.alike (g := x.grp.movedTo target (endLevels target x.grp.levels)) (alike.movedTo ..) jumps
  have moved : (s.setGroup x.g (g.movedTo target (endLevels target g.levels))).group? x.g = some (_, g.movedTo target (endLevels target g.levels)) :=
    State.group?_setGroup_self _ group
  have first : s.Frame (s.setGroup x.g (g.movedTo target (endLevels target g.levels))) x.g g (fun _ => False) (fun _ => False) False False :=
    .of (State.setGroup_outside ..) moved (Group.movedTo_keeps ..)
  unfold Issue.jump
  simp only [group]
  refine first.then_all fun t' h found => ?_
  obtain ⟨-, rfl⟩ := Prod.mk.inj (Option.some.inj (moved.symm.trans found))
  exact State.settled_frame moved settles

variable {s : State} {r : GrpRef} {w : W32 × W32} {t : Team} {g : Group} {i : Instr} {p : Plan}

/-- The group at its issue, on its way. -/
def onItsWay (p : Plan) (s : State) (g : Group) : Group := { (g.overtake p.u p.h p.dsts).issued with ipc := g.pc, readySince := s.time }

/-- What an instruction finds when it makes its effect: its group on its way, with everything but its flow as before, and the rest. -/
theorem issueOf_group (issue : AtIssue s r w t g) (i : Instr) (p : Plan) : ∃ t', (issueOf i p s r w t g).s.group? r = some (t', onItsWay p s g) :=
  chargedState_group issue.resident

theorem onItsWay_alike (p : Plan) (s : State) (g : Group) : StandAlike g.threads (onItsWay p s g).threads :=
  (Group.issued_keeps g p.u p.h p.dsts g.pc s.time).2

/-- The issue itself keeps all but the flow; what follows decides. -/
theorem frame_of_issue {u : State} (issue : AtIssue s r w t g)
    (after : ∀ t', (issueOf i p s r w t g).s.group? r = some (t', onItsWay p s g) →
      (issueOf i p s r w t g).s.Frame u r (onItsWay p s g) (fun _ => False) (fun _ => False) False False) :
    s.Frame u r g (fun _ => False) (fun _ => False) False False := by
  obtain ⟨t', group⟩ := issueOf_group issue i p
  refine State.Frame.then_all (.of (chargedState_outside ..) group (Group.issued_keeps g p.u p.h p.dsts g.pc s.time).1) fun t2 g2 found => ?_
  obtain ⟨-, rfl⟩ := Prod.mk.inj (Option.some.inj (group.symm.trans found))
  exact after t' group

/-- An issue that redirects its group keeps all but the flow. -/
theorem jump_frame_of_issue {target : Nat} (issue : AtIssue s r w t g) (jumps : (issueOf i p s r w t g).grp.JumpsTo target) :
    s.Frame ((issueOf i p s r w t g).jump (issueOf i p s r w t g).s target) r g (fun _ => False) (fun _ => False) False False :=
  frame_of_issue issue fun _ group => Issue.jump_frame (x := issueOf i p s r w t g) group (onItsWay_alike p s g) jumps

/-- An instruction without an effect of its own keeps all but the flow. -/
theorem seq_frame_of_issue (issue : AtIssue s r w t g) (flows : (issueOf i p s r w t g).FlowsOn) :
    s.Frame ((issueOf i p s r w t g).seq (issueOf i p s r w t g).s) r g (fun _ => False) (fun _ => False) False False :=
  frame_of_issue issue fun _ group => Issue.seq_frame (x := issueOf i p s r w t g) group (onItsWay_alike p s g) rfl rfl flows

/-- A U-set compare changes its group's predicates alone. -/
theorem setQ_keeps (g : Group) (sel : Bool) (n : Nat) (b : Bool) :
    let h := if sel then { g with q := setBit g.q n b } else g
    g.Keeps h (fun _ => False) (fun _ => False) False True ∧ StandAlike g.threads h.threads ∧ h.levels = g.levels ∧ h.pc = g.pc := by
  cases sel
  · exact ⟨⟨fun _ _ => rfl, fun _ _ => rfl, fun _ _ => rfl, fun _ => rfl, fun _ => rfl, rfl, rfl, rfl, rfl, rfl, ⟨rfl, rfl⟩, ⟨rfl, rfl⟩⟩, .refl _, rfl, rfl⟩
  · exact ⟨⟨fun _ _ => rfl, fun _ _ => rfl, fun _ _ => rfl, fun _ => rfl, fun h => absurd trivial h, rfl, rfl, rfl, rfl, rfl, ⟨rfl, rfl⟩,
      ⟨rfl, rfl⟩⟩, .refl _, rfl, rfl⟩

theorem wroteP_frame {o : Cmp} {rs : List (Nat × Bool)} (issue : AtIssue s r w t g) (flows : (issueOf i p s r w t g).FlowsOn) :
    s.Frame ((issueOf i p s r w t g).seq (wroteP o (issueOf i p s r w t g) rs)) r g (fun _ => False) (fun _ => False) True False :=
  onGroup_frame issue flows (fun _ => Group.writeP_keeps ..) (.refl ..) rfl

theorem wroteQ_frame {o : Cmp} {b : Bool} (issue : AtIssue s r w t g) (flows : (issueOf i p s r w t g).FlowsOn) :
    s.Frame ((issueOf i p s r w t g).seq (wroteQ o (issueOf i p s r w t g) b)) r g (fun _ => False) (fun _ => False) False True :=
  onGroup_frame issue flows (fun _ => setQ_keeps ..) (.refl ..) rfl

/-- Meeting addresses are flow. -/
theorem Group.meetAt_keeps (g : Group) (target : Nat) : g.KeepsAll (g.meetAt target) :=
  Group.mapActive_keeps g _ fun _ => ⟨rfl, rfl, rfl, rfl⟩

theorem StandAlike.meetAt {g h : Group} (e : StandAlike g.threads h.threads) (target : Nat) :
    StandAlike (g.meetAt target).threads (h.meetAt target).threads :=
  e.map fun a b h1 h2 h3 => by rw [h1]; split <;> simp [*]

/-- MEET keeps all but the flow: what flows on is the group with its meeting addresses. -/
theorem meet_frame {target : Nat} (issue : AtIssue s r w t g)
    (flows : ((issueOf i p s r w t g).grp.meetAt target).FlowsTo (issueOf i p s r w t g).next) :
    s.Frame ((issueOf i p s r w t g).onGroup fun g => g.meetAt target) r g (fun _ => False) (fun _ => False) False False := by
  refine frame_of_issue (i := i) (p := p) issue fun _ group => ?_
  have met : ((issueOf i p s r w t g).s.updGroup r fun g => g.meetAt target).group? r = some (_, (onItsWay p s g).meetAt target) :=
    State.group?_updGroup_self _ group
  refine State.Frame.then_all (.of (State.updGroup_outside ..) met (Group.meetAt_keeps _ target)) fun _ _ found => ?_
  obtain ⟨-, rfl⟩ := Prod.mk.inj (Option.some.inj (met.symm.trans found))
  exact Issue.seq_frame (x := { issueOf i p s r w t g with grp := g.meetAt target }) met ((onItsWay_alike p s g).meetAt target) rfl rfl flows

/-- Settles O36: a compare's one write is its predicate bit; the rest change the flow alone. -/
theorem comparesAndFlowKeepTheRest : Obligations.ComparesAndFlowKeepTheRest := by
  obtain ⟨nop, nopU, icmp, icmpU, icmpi, fcmp⟩ := comparesAndNopComplete
  obtain ⟨-, taken, -, meets, bru, -, jmp, -⟩ := controlFlowCompletes
  refine ⟨fun o s r iw t g issue clear ⟨flows, tags⟩ => ⟨_, icmp o s r iw t g issue clear ⟨flows, tags⟩, wroteP_frame issue flows⟩,
    fun o s r iw t g issue clear ⟨flows, tags⟩ => ⟨_, fcmp o s r iw t g issue clear ⟨flows, tags⟩, wroteP_frame issue flows⟩,
    fun o s r iw t g issue clear flows => ⟨_, icmpU o s r iw t g issue clear ⟨flows, trivial⟩, wroteQ_frame issue flows⟩,
    fun o s r iw t g issue clear flows => ⟨_, icmpi o s r iw t g issue clear ⟨flows, trivial⟩, wroteQ_frame issue flows⟩,
    fun o s r iw t g issue clear flows => ⟨_, nop o s r iw t g issue clear ⟨flows, trivial⟩, seq_frame_of_issue issue flows⟩,
    fun o s r iw t g issue clear flows => ⟨_, nopU o s r iw t g issue clear ⟨flows, trivial⟩, seq_frame_of_issue issue flows⟩,
    fun nodiv o s r iw t g issue clear ok => ⟨_, taken nodiv o s r iw t g issue clear ok, jump_frame_of_issue issue ok.2.2⟩,
    fun o s r iw t g issue clear ok => ⟨_, bru o s r iw t g issue clear ok, jump_frame_of_issue issue ok.2⟩,
    fun o s r iw t g issue clear ok => ⟨_, jmp o s r iw t g issue clear ok, jump_frame_of_issue issue ok⟩,
    fun o s r iw t g issue clear ok => ⟨_, meets o s r iw t g issue clear ok, meet_frame issue ok⟩⟩

end Sys2Proof.Machine
end


section
/-! Conversions, ring sets and lane crossing complete (R286 to R291, R304 to R310, R346 to R363). -/
namespace Sys2Proof.Machine
open Sys2Proof

/-! ## Instructions that a guard may not select (R273, R327) -/

/-- A U-set instruction that acts where its guard selects it, and skips elsewhere. -/
theorem SRuns.of (f : State → Out) {i : Instr} {p : Plan} {ok : Issue → Prop} {effect skip : Issue → State} {act : Body}
    (he : ∀ s, exec i s = f s) (hf : f = program i p fun x => if !x.selected then .ok (x.seq (skip x)) else act x)
    (hb : ∀ x, x.selected = true → ok x → act x = .ok (x.seq (effect x))) : SRuns i p ok effect skip :=
  ⟨Runs.of f he hf fun x ⟨selected, hx⟩ => by simpa [selected] using hb x selected hx,
   Runs.of f he hf fun x unselected => by simp [unselected]⟩

/-- A matrix instruction of the V-set that acts where some lane is selected, and skips elsewhere. -/
theorem MRuns.of (f : State → Out) {i : Instr} {p : Plan} {ok : Issue → Prop} {effect skip : Issue → State} {act : Body}
    (he : ∀ s, exec i s = f s) (hf : f = program i p fun x => if !x.acts then .ok (x.seq (skip x)) else act x)
    (hb : ∀ x, ok x → act x = .ok (x.seq (effect x))) : MRuns i p ok effect skip :=
  ⟨Runs.of f he hf fun x ⟨acts, hx⟩ => by simpa [acts] using hb x hx,
   Runs.of f he hf fun x idle => by simp [idle]⟩

/-! ## Conversions (R286 to R291) -/

theorem tagged_of_tagOf {x : Issue} {a : Src} {t : Tag} (h : x.tagOf a = some t) : tagged x a = .ok t := by
  rw [tagged, h]

/-- Settles O5: the checks of each body that its hypotheses name pass, and its results are written. -/
theorem conversionsComplete : Obligations.ConversionsComplete :=
  ⟨fun o => Runs.of (execCvt o) (fun _ => rfl) rfl fun _ ⟨width, tags⟩ => (bind_of_ok width _).trans (map_of_ok tags.ok _),
   fun o => Runs.of (execQnt o) (fun _ => rfl) rfl fun _ ⟨sources, tags⟩ => (bind_of_ok sources _).trans (map_of_ok tags.ok _),
   fun o _ => Runs.of (execDqn o) (fun _ => rfl) rfl fun _ ⟨tag, tags⟩ =>
    (bind_of_ok (tagged_of_tagOf tag) _).trans (map_of_ok tags.ok _),
   fun o _ => Runs.of (execAmax o) (fun _ => rfl) rfl fun _ ⟨tag, width, tags⟩ =>
    (bind_of_ok (tagged_of_tagOf tag) _).trans ((bind_of_ok width _).trans (map_of_ok tags.ok _)),
   fun o _ _ => Runs.of (execCblk o) (fun _ => rfl) rfl fun _ ⟨tag, book⟩ =>
    (bind_of_ok (tagged_of_tagOf tag) _).trans (map_of_ok book _)⟩

/-! ## Ring sets (R346 to R363) -/

theorem YRuns.of {i : Instr} {o : Alu} {q : YOp} (he : ∀ s, exec i s = yOp i o q s) : YRuns i o q :=
  fun _ _ => Runs.of (yOp i o q) he rfl fun _ work => map_of_ok work _

/-- Settles O6: the sixteen of one skeleton need their working tag alone. -/
theorem ringInstructionsComplete : Obligations.RingInstructionsComplete := by
  unfold Obligations.RingInstructionsComplete
  refine ⟨?yadd, ?ysub, ?ymul, ?ydiv, ?yfma, ?yneg, ?yrec, ?ysqr, ?ymap, ?yuni, ?yint, ?yhull, ?yunpk, ?ymid, ?ytest, ?ycmp, ?ycvt, ?ypack, ?yring⟩
  case ycvt => exact fun o r => Runs.of (execYcvt o) (fun _ => rfl) rfl fun _ ⟨tags, ring⟩ => (bind_of_ok tags.ok _).trans (map_of_ok ring _)
  case ypack => exact fun o w r => Runs.of (execYpack o) (fun _ => rfl) rfl fun _ ⟨work, mask⟩ => (bind_of_ok work _).trans (if_neg mask)
  case yring => exact fun o => SRuns.of (execYring o) (fun _ => rfl) rfl fun _ _ ⟨check, gate⟩ => (bind_of_ok check _).trans (map_of_ok gate _)
  all_goals exact fun o => YRuns.of fun _ => rfl

/-! ## Lane crossing and PART (R304 to R310) -/

theorem LRuns.of {i : Instr} {o : Mode} {q : LaneOp} (he : ∀ s, exec i s = laneOp i o q s) : LRuns i o q :=
  Runs.of (laneOp i o q) he rfl fun _ tags => map_of_ok (Issue.TagsOk.ok tags) _

/-- Settles O7: tag classes are all that these bodies may refuse, and PART's refuses nothing. -/
theorem laneCrossingInstructionsComplete : Obligations.LaneCrossingInstructionsComplete :=
  ⟨fun o => Runs.of (execLxch o) (fun _ => rfl) rfl fun _ tags => map_of_ok (Issue.TagsOk.ok tags) _,
   fun _ => LRuns.of fun _ => rfl, fun _ => LRuns.of fun _ => rfl, fun _ => LRuns.of fun _ => rfl,
   fun o => Runs.of (execPart o) (fun _ => rfl) rfl fun _ _ => rfl⟩

end Sys2Proof.Machine
end


section
/-! Memory instructions complete their issue (R144 to R157). -/
namespace Sys2Proof.Machine
open Sys2Proof

/-! ## Global accesses (R145, R149) -/

/-- An access that is admitted is sent. -/
theorem Issue.Admits.global {x : Issue} {a : Access} {ias : List (Nat × Nat)} {k : Nat} (h : x.Admits a ias k) :
    x.global a = .ok (x.seq (x.sent a ias k)) := by
  have checked : x.global a = if x.slots.isEmpty then .ok (x.seq (x.awaits a none x.s))
      else (x.throughGate a.entry).bind fun _ => (x.take (x.logged a ias)).map fun s1 => x.seq (x.awaits a (some a.entry.uid) s1) :=
    (bind_of_ok h.places _).trans ((bind_of_ok h.unlocked _).trans ((bind_of_ok h.gate _).trans (bind_of_ok h.order _)))
  rw [checked, Issue.sent]
  split
  · rfl
  · rename_i some
    have selects : x.slots ≠ [] := fun none => some (List.isEmpty_iff.mpr none)
    have takes : x.take (x.logged a ias) = .ok (x.enterLog k (x.logged a ias)) := by rw [Issue.take, h.entry selects]
    exact (bind_of_ok (h.through selects) _).trans (map_of_ok takes _)

/-- What each instruction of `globalAccess` does once its own checks pass. -/
theorem gRuns_of_globalAccess {i : Instr} {p : Plan} {ok : Issue → Prop} {a : Issue → Access} (h : globalAccess i = some (p, ok, a)) :
    ∃ body : Body, (∀ s, exec i s = program i p body s) ∧ ∀ x, ok x → body x = x.global (a x) := by
  unfold globalAccess at h
  split at h <;> cases h
  case h_1 o =>
    exact ⟨fun x => (x.classes (memClasses (ldPlan false o).srcs)).bind fun _ => x.global (ldAccess o x), fun _ => rfl,
      fun _ tags => bind_of_ok (Issue.TagsOk.ok tags) _⟩
  case h_3 o =>
    exact ⟨fun x => (x.classes (memClasses (stPlan false o).srcs)).bind fun _ => x.global (stAccess o x), fun _ => rfl,
      fun _ tags => bind_of_ok (Issue.TagsOk.ok tags) _⟩
  case h_2 | h_4 => exact ⟨_, fun _ => rfl, fun _ _ => rfl⟩
  case h_5 | h_6 | h_7 =>
    exact ⟨_, fun _ => rfl, fun _ ⟨tags, unpaired⟩ => (bind_of_ok tags.ok _).trans (if_neg (ne_true_of_eq_false unpaired))⟩

theorem GRuns.of_globalAccess {i : Instr} {p : Plan} {ok : Issue → Prop} {a : Issue → Access} (h : globalAccess i = some (p, ok, a)) :
    GRuns i p ok a := by
  obtain ⟨body, he, access⟩ := gRuns_of_globalAccess h
  exact fun ias k => Runs.of _ he rfl fun x ⟨hx, admits⟩ => (access x hx).trans admits.global

/-- Settles O10: each instruction is an entry of `globalAccess`. -/
theorem globalAccessesAreSent : Obligations.GlobalAccessesAreSent := by
  unfold Obligations.GlobalAccessesAreSent
  and_intros
  all_goals exact fun o => GRuns.of_globalAccess rfl

/-! ## Scratchpad and vault (R145, R149, R152) -/

/-- Settles O11: the checks of each body pass one after the other, and its effect is made. -/
theorem localAccessesComplete : Obligations.LocalAccessesComplete := by
  refine ⟨fun o ps => Runs.of (execLds o) (fun _ => rfl) rfl ?lds, fun o ps => Runs.of (execSts o) (fun _ => rfl) rfl ?sts,
    fun o ps => Runs.of (execLdv o) (fun _ => rfl) rfl ?ldv, fun o ps => Runs.of (execStv o) (fun _ => rfl) rfl ?stv,
    fun o ps => Runs.of (execAtoms o) (fun _ => rfl) rfl ?atoms, fun o ps => Runs.of (execPres o) (fun _ => rfl) rfl ?pres⟩
  case lds =>
    rintro x ⟨tags, places, gate, clear, present⟩
    exact (bind_of_ok tags.ok _).trans ((bind_of_ok places _).trans ((bind_of_ok gate _).trans ((bind_of_ok clear _).trans (if_pos present))))
  case sts =>
    rintro x ⟨tags, places, unlocked, release, clear⟩
    exact (bind_of_ok tags.ok _).trans ((bind_of_ok places _).trans ((bind_of_ok (lockCheck_ok unlocked) _).trans
      ((bind_of_ok release _).trans (map_of_ok clear _))))
  case ldv =>
    rintro x ⟨tags, places, unlocked, gate, sound⟩
    have noFlaw : ps.find? (fun q => x.vaultFlawed q.2.1 q.2.2 (widthOf o.width)) = none := List.find?_eq_none.mpr fun q hq => by simp [sound q hq]
    refine (bind_of_ok tags.ok _).trans ((bind_of_ok places _).trans ((bind_of_ok (lockCheck_ok unlocked) _).trans ((bind_of_ok gate _).trans ?_)))
    simp only [noFlaw]
  case stv =>
    rintro x ⟨tags, places, unlocked, allowed, release⟩
    exact (bind_of_ok tags.ok _).trans ((bind_of_ok places _).trans ((bind_of_ok (lockCheck_ok unlocked) _).trans
      ((if_neg (ne_true_of_eq_false allowed)).trans (map_of_ok release _))))
  case atoms =>
    rintro x ⟨tags, places, unlocked, release, clear⟩
    exact (bind_of_ok tags.ok _).trans ((bind_of_ok places _).trans ((bind_of_ok (lockCheck_ok unlocked) _).trans
      ((bind_of_ok release _).trans (map_of_ok clear _))))
  case pres =>
    rintro x ⟨tags, places, gate⟩
    exact (bind_of_ok tags.ok _).trans ((bind_of_ok places _).trans (map_of_ok gate _))

/-! ## Cache control and FENCE (R153 to R157) -/

/-- Settles O12: the checks of each body pass one after the other, and its effect is made. -/
theorem cacheControlCompletes : Obligations.CacheControlCompletes :=
  ⟨fun o => Runs.of (execPref o) (fun _ => rfl) rfl fun _ gate => map_of_ok gate _,
   fun o _ => SRuns.of (execCinv o) (fun _ => rfl) rfl fun _ _ ⟨check, gate⟩ => (bind_of_ok check _).trans (map_of_ok gate _),
   fun o _ => SRuns.of (execCwb o) (fun _ => rfl) rfl fun _ _ ⟨check, gate⟩ => (bind_of_ok check _).trans (map_of_ok gate _),
   fun o _ => SRuns.of (execLockl o) (fun _ => rfl) rfl fun _ _ ⟨check, gate, free⟩ =>
    (bind_of_ok check _).trans ((bind_of_ok gate _).trans (if_neg (ne_true_of_eq_false free))),
   fun o _ => SRuns.of (execUnlockl o) (fun _ => rfl) rfl fun _ _ ⟨check, gate⟩ => (bind_of_ok check _).trans (map_of_ok gate _),
   fun o => SRuns.of (execFence o) (fun _ => rfl) rfl fun _ _ waited => map_of_ok waited _,
   fun o => Runs.of (execCtime o) (fun _ => rfl) rfl fun _ _ => rfl⟩

end Sys2Proof.Machine
end


section
/-! The checks of an access: their order, and the lane that is named (R67). -/
namespace Sys2Proof.Machine
open Sys2Proof

/-! ## One access -/

theorem checkAccess_high {ws : List (List W64)} {va : Nat} (high : 2 ^ 57 ≤ va) (size perm : Nat) : checkAccess ws va size perm = .error (1, 1) :=
  if_pos high

theorem checkAccess_misaligned {ws : List (List W64)} {va size : Nat} (low : va < 2 ^ 57) (misaligned : va % size ≠ 0) (perm : Nat) :
    checkAccess ws va size perm = .error (2, 0) :=
  (if_neg (Nat.not_le.mpr low)).trans (if_pos (bne_iff_ne.mpr misaligned))

/-- Past the first two checks the windows decide. -/
theorem checkAccess_aligned {ws : List (List W64)} {va size : Nat} (low : va < 2 ^ 57) (aligned : va % size = 0) (perm : Nat) :
    checkAccess ws va size perm = match hitWindow ws va with
      | none => .error (3, 2)
      | some w => if winWord w 3 &&& perm == perm then .ok (translate w va) else .error (4, 3) :=
  (if_neg (Nat.not_le.mpr low)).trans (if_neg (by simp [aligned]))

theorem checkAccess_noWindow {ws : List (List W64)} {va size : Nat} (low : va < 2 ^ 57) (aligned : va % size = 0) (perm : Nat)
    (none : hitWindow ws va = none) : checkAccess ws va size perm = .error (3, 2) := by
  rw [checkAccess_aligned low aligned, none]

theorem checkAccess_window {ws : List (List W64)} {w : List W64} {va size : Nat} (low : va < 2 ^ 57) (aligned : va % size = 0) (perm : Nat)
    (hit : hitWindow ws va = some w) :
    checkAccess ws va size perm = if (w.getD 3 0).toNat &&& perm = perm then .ok (translate w va) else .error (4, 3) := by
  rw [checkAccess_aligned low aligned, hit]
  simp [winWord]

/-! ## The lane that is named -/

/-- Of a failed check and the one found so far, the one with the lower number; the earlier of equals. -/
def lowerFail (o : Option (Nat × Nat × Trap)) (b : Nat × Nat × Trap) : Option (Nat × Nat × Trap) :=
  match o with
  | none => some b
  | some c => if b.1 < c.1 then some b else some c

/-- The failed check of a lane. -/
def failOf {α : Type} (p : Nat × Except (Nat × Trap) α) : Option (Nat × Nat × Trap) :=
  match p.2 with
  | .error (n, t) => some (n, p.1, t)
  | .ok _ => none

theorem failOf_eq_some_iff {α : Type} {p : Nat × Except (Nat × Trap) α} {n i : Nat} {t : Trap} :
    failOf p = some (n, i, t) ↔ p = (i, .error (n, t)) := by
  obtain ⟨j, r⟩ := p
  cases r with
  | ok a => simp [failOf]
  | error e => obtain ⟨m, z⟩ := e; simp [failOf, and_left_comm]

/-- The lowest-numbered failed check of all lanes, the first of equals, is the one that is named. -/
theorem firstFail_eq {α : Type} (u : Bool) (l : List (Nat × Except (Nat × Trap) α)) :
    firstFail u l = match (l.filterMap failOf).foldl lowerFail none with
      | some (_, i, t) => .error (.trap { t with lane := if u then none else some i })
      | none => .ok (l.filterMap fun (i, r) => match r with | .ok a => some (i, a) | .error _ => none) := rfl

/-- The one that is kept is the first of the lowest: the one that the search began with, or a later one. -/
theorem foldl_lowerFail (l : List (Nat × Nat × Trap)) : ∀ c, ∃ d, l.foldl lowerFail (some c) = some d ∧
    (d = c ∧ (∀ b ∈ l, c.1 ≤ b.1) ∨ ∃ pre post, l = pre ++ d :: post ∧ d.1 < c.1 ∧ (∀ b ∈ pre, d.1 < b.1) ∧ ∀ b ∈ post, d.1 ≤ b.1) := by
  induction l with
  | nil => exact fun c => ⟨c, rfl, .inl ⟨rfl, by simp⟩⟩
  | cons a r ih =>
    intro c
    by_cases lower : a.1 < c.1
    · obtain ⟨d, found, rest⟩ := ih a
      refine ⟨d, by simpa [lowerFail, lower] using found, .inr ?_⟩
      rcases rest with ⟨rfl, least⟩ | ⟨pre, post, rfl, below, before, after⟩
      · exact ⟨[], r, rfl, lower, by simp, least⟩
      · exact ⟨a :: pre, post, rfl, Nat.lt_trans below lower, by simpa using ⟨below, fun x y z => before (x, y, z)⟩, after⟩
    · obtain ⟨d, found, rest⟩ := ih c
      refine ⟨d, by simpa [lowerFail, lower] using found, ?_⟩
      rcases rest with ⟨rfl, least⟩ | ⟨pre, post, rfl, below, before, after⟩
      · exact .inl ⟨rfl, by simpa using ⟨Nat.not_lt.mp lower, fun x y z => least (x, y, z)⟩⟩
      · exact .inr ⟨a :: pre, post, rfl, below, by simpa using ⟨Nat.lt_of_lt_of_le below (Nat.not_lt.mp lower), fun x y z => before (x, y, z)⟩, after⟩

/-- Among the failed checks of several lanes the one that is named comes before none with a lower number, and after none with an equal one. -/
theorem foldl_lowerFail_none {l : List (Nat × Nat × Trap)} {d : Nat × Nat × Trap} (h : l.foldl lowerFail none = some d) :
    ∃ pre post, l = pre ++ d :: post ∧ (∀ b ∈ pre, d.1 < b.1) ∧ ∀ b ∈ post, d.1 ≤ b.1 := by
  cases l with
  | nil => cases h
  | cons a r =>
    obtain ⟨e, found, rest⟩ := foldl_lowerFail r a
    obtain rfl : e = d := Option.some.inj (found.symm.trans h)
    rcases rest with ⟨rfl, least⟩ | ⟨pre, post, rfl, below, before, after⟩
    · exact ⟨[], r, rfl, by simp, least⟩
    · exact ⟨a :: pre, post, rfl, by simpa using ⟨below, fun x y z => before (x, y, z)⟩, after⟩

/-- The failed lane that is named, where it stands among the lanes. -/
theorem firstFail_error {α : Type} {u : Bool} {l : List (Nat × Except (Nat × Trap) α)} {e : Stop} (h : firstFail u l = .error e) :
    ∃ pre i n t post, l = pre ++ (i, .error (n, t)) :: post ∧ e = .trap { t with lane := if u then none else some i } ∧
      (∀ j m z, (j, .error (m, z)) ∈ pre → n < m) ∧ ∀ j m z, (j, .error (m, z)) ∈ post → n ≤ m := by
  rw [firstFail_eq] at h
  cases found : (l.filterMap failOf).foldl lowerFail none with
  | none => simp [found] at h
  | some d =>
    obtain ⟨n, i, t⟩ := d
    simp only [found, Except.error.injEq] at h
    obtain ⟨pre, post, split, before, after⟩ := foldl_lowerFail_none found
    obtain ⟨l1, l2, rfl, rfl, h2⟩ := List.filterMap_eq_append_iff.mp split
    obtain ⟨l3, p, l4, rfl, passed, failed, rfl⟩ := List.filterMap_eq_cons_iff.mp h2
    obtain rfl := failOf_eq_some_iff.mp failed
    refine ⟨l1 ++ l3, i, n, t, l4, (List.append_assoc ..).symm, h.symm, fun j m z mem => ?_, fun j m z mem => ?_⟩
    · rcases List.mem_append.mp mem with mem | mem
      · exact before (m, j, z) (List.mem_filterMap.mpr ⟨_, mem, rfl⟩)
      · cases passed _ mem
    · exact after (m, j, z) (List.mem_filterMap.mpr ⟨_, mem, rfl⟩)

/-- Settles O45: the checks follow one another in `checkAccess`; `firstFail` keeps the first of the lowest; and an access whose places
fail stops there. -/
theorem accessChecksInOrder : Obligations.AccessChecksInOrder := by
  refine ⟨fun ws va size perm => ⟨fun high => checkAccess_high high size perm, fun low misaligned => checkAccess_misaligned low misaligned perm,
      fun low aligned none => checkAccess_noWindow low aligned perm none, fun w low aligned hit => checkAccess_window low aligned perm hit⟩,
    fun u l e => firstFail_error, ?_⟩
  intro i p ok a h s r iw t g e issue x clear hx fails
  obtain ⟨body, he, access⟩ := gRuns_of_globalAccess h
  rw [he]
  refine program_stops issue clear ((access _ hx).trans ?_)
  unfold Issue.global
  rw [fails]
  rfl

end Sys2Proof.Machine
end


section
/-! What a global access leaves unchanged at its issue (R92, R95, R97). -/
namespace Sys2Proof.Machine
open Sys2Proof

/-- What stands outside a group stands whatever cores are put in place of a state's own. -/
theorem State.KeptOutside.withCores {s u : State} {r : GrpRef} (h : s.KeptOutside u r) (c : Sp Core) :
    ({ s with cores := c } : State).KeptOutside { u with cores := c } r :=
  { h with cores := fun _ => rfl }

/-- The entry of an access takes a place in the log of its core, and a number. -/
theorem Issue.enterLog_outside (x : Issue) (k : Nat) (e : LogEntry) (c : Sp Core) (r : GrpRef) :
    ({ x.s with cores := c } : State).KeptOutside { x.enterLog k e with cores := c } r := by
  constructor <;> first | (intros; rfl) | rfl | skip
  exact fun t h => ⟨t.groups, h, fun _ _ => rfl⟩

/-- The mode of a new entry: CHAINED behind an earlier one of its granule, or behind a drained store (R97). -/
def Issue.entryMode (x : Issue) (e : LogEntry) : EntryMode :=
  if (x.unit.log.any fun (_, f) => f.blocks e) || x.s.storeBlocks e then .chained else .inflight

theorem Issue.entryMode_eq_chained_iff (x : Issue) (e : LogEntry) :
    x.entryMode e = .chained ↔ (∃ q ∈ x.unit.log, q.2.blocks e = true) ∨ x.s.storeBlocks e = true := by
  unfold Issue.entryMode
  split
  · rename_i h
    simpa using h
  · rename_i h
    simpa using h

theorem Issue.core_enterLog (x : Issue) (k : Nat) (e : LogEntry) (c : Nat) :
    (x.enterLog k e).core c =
      if x.team.core = c then { x.s.core c with log := (x.s.core c).log.put k { e with mode := x.entryMode e } } else x.s.core c := by
  have entered : (x.enterLog k e).core c =
      if x.team.core = c then { x.s.core x.team.core with log := (x.s.core x.team.core).log.put k { e with mode := x.entryMode e } } else x.s.core c :=
    State.core_setCore ..
  rw [entered]
  split
  · rename_i h
    rw [h]
  · rfl

/-- A destination that waits changes its set's latches and the accesses that its registers wait for. -/
theorem Group.expect_threads (g : Group) (u w : Bool) (d k : Nat) (tag : Tag) (uid : Option Nat) :
    ∃ lx ly pv ps, g.expect u w d k tag uid = { g with x := lx, y := ly, pendV := pv, pendS := ps } := by
  cases u <;> exact ⟨_, _, _, _, rfl⟩

/-- What is pending after that depends on what was pending alone. -/
theorem Group.expect_pend_congr {g h : Group} (hv : h.pendV = g.pendV) (hs : h.pendS = g.pendS) (u w : Bool) (d k : Nat) (tag : Tag) (uid : Option Nat) :
    (h.expect u w d k tag uid).pendV = (g.expect u w d k tag uid).pendV ∧ (h.expect u w d k tag uid).pendS = (g.expect u w d k tag uid).pendS := by
  unfold Group.expect
  cases u <;> simp only [Bool.false_eq_true, if_true, if_false, hv, hs, and_self]

variable {s : State} {r : GrpRef} {w : W32 × W32} {t : Team} {g : Group} {i : Instr} {p : Plan}

/-- The log entry on which a destination waits: none where no lane is selected. -/
def Issue.waitsOn (x : Issue) (a : Access) : Option Nat := if x.slots.isEmpty then none else some a.entry.uid
/-- The state with the entry in the log, where a lane is selected. -/
def Issue.withEntry (x : Issue) (a : Access) (ias : List (Nat × Nat)) (k : Nat) : State :=
  if x.slots.isEmpty then x.s else x.enterLog k (x.logged a ias)
/-- A group with the destination of an access pending. -/
def Issue.expecting (x : Issue) (a : Access) (g : Group) : Group :=
  if a.load then g.expect x.u a.entry.w a.entry.d a.k a.entry.tag (x.waitsOn a) else g

theorem Issue.sent_eq (x : Issue) (a : Access) (ias : List (Nat × Nat)) (k : Nat) :
    x.sent a ias k = if a.load then (x.withEntry a ias k).updGroup x.g (x.expecting a) else x.withEntry a ias k := by
  unfold Issue.sent Issue.withEntry Issue.awaits Issue.expecting Issue.waitsOn
  cases x.slots.isEmpty <;> cases a.load <;> rfl

/-- The pending destination leaves the threads, the levels and the PC of its group, and all that `Keeps` speaks of but what is pending. -/
theorem Issue.expecting_keeps (x : Issue) (a : Access) (g : Group) :
    ∃ lx ly pv ps, x.expecting a g = { g with x := lx, y := ly, pendV := pv, pendS := ps } := by
  unfold Issue.expecting
  split
  · exact Group.expect_threads ..
  · exact ⟨_, _, _, _, rfl⟩

theorem Issue.withEntry_group (x : Issue) (a : Access) (ias : List (Nat × Nat)) (k : Nat) (q : GrpRef) :
    (x.withEntry a ias k).group? q = x.s.group? q := by
  unfold Issue.withEntry
  split <;> rfl

theorem Issue.sent_group {x : Issue} {t : Team} {g : Group} (group : x.s.group? x.g = some (t, g)) (a : Access) (ias : List (Nat × Nat)) (k : Nat) :
    ∃ t', (x.sent a ias k).group? x.g = some (t', x.expecting a g) := by
  rw [← Issue.withEntry_group x a ias k] at group
  rw [Issue.sent_eq]
  split
  · exact ⟨_, State.group?_updGroup_self _ group⟩
  · rename_i store
    exact ⟨t, by rw [group, Issue.expecting, if_neg store]⟩

theorem Issue.sent_outside (x : Issue) (a : Access) (ias : List (Nat × Nat)) (k : Nat) (c : Sp Core) :
    ({ x.s with cores := c } : State).KeptOutside { x.sent a ias k with cores := c } x.g := by
  have entered : ({ x.s with cores := c } : State).KeptOutside { x.withEntry a ias k with cores := c } x.g := by
    unfold Issue.withEntry
    split
    · exact .refl ..
    · exact x.enterLog_outside ..
  rw [Issue.sent_eq]
  split
  · exact entered.trans ((State.updGroup_outside ..).withCores c)
  · exact entered

theorem Issue.sent_core (x : Issue) (a : Access) (ias : List (Nat × Nat)) (k c : Nat) :
    (x.sent a ias k).core c = (x.withEntry a ias k).core c := by
  rw [Issue.sent_eq]
  split <;> rfl

/-- The cores after an access is sent: the entry in the log of its core, and nothing else. -/
theorem Issue.core_withEntry (x : Issue) (a : Access) (ias : List (Nat × Nat)) (k c : Nat) :
    (x.withEntry a ias k).core c = if x.team.core = c ∧ x.slots ≠ [] then
      { x.s.core c with log := (x.s.core c).log.put k { x.logged a ias with mode := x.entryMode (x.logged a ias) } } else x.s.core c := by
  unfold Issue.withEntry
  by_cases none : x.slots = []
  · simp [none]
  · simp [none, Issue.core_enterLog]

/-- The issue charges its core's estimator and nothing else of any core. -/
theorem issueOf_core (i : Instr) (p : Plan) (s : State) (r : GrpRef) (w : W32 × W32) (t : Team) (g : Group) (c : Nat) :
    { (issueOf i p s r w t g).s.core c with est := (s.core c).est } = s.core c := (chargedState_outside i p s r t g).cores c

/-- An equality of cores but for the estimator, field by field where it is needed. -/
theorem Core.eq_of_est {a b : Core} (h : { a with est := b.est } = b) : a = { b with est := a.est } := by rw [← h]

/-- Settles O39: an issue's effect is its entry and its pending destination, and sequential flow keeps the rest. -/
theorem globalAccessesReachMemoryLater : Obligations.GlobalAccessesReachMemoryLater := by
  intro i p ok a h s r iw t g ias k issue x clear flows hx admits
  refine ⟨_, GRuns.of_globalAccess h ias k s r iw t g issue clear ⟨flows, hx, admits⟩, ?_⟩
  obtain ⟨t1, group⟩ := issueOf_group issue i p
  obtain ⟨t2, sent⟩ := Issue.sent_group (x := x) group (a x) ias k
  obtain ⟨lx, ly, pv, ps, expecting⟩ := x.expecting_keeps (a x) (onItsWay p s g)
  have frame : (x.sent (a x) ias k).Frame (x.seq (x.sent (a x) ias k)) r (x.expecting (a x) (onItsWay p s g)) (fun _ => False) (fun _ => False) False False :=
    Issue.seq_frame (x := x) sent (by rw [expecting]; exact onItsWay_alike p s g) (by rw [expecting]; rfl) (by rw [expecting]; rfl) flows
  obtain ⟨outside, t3, h, found, keeps⟩ := frame
  have core : ∀ c, (x.seq (x.sent (a x) ias k)).core c = { (x.withEntry (a x) ias k).core c with est := ((x.seq (x.sent (a x) ias k)).core c).est } := by
    intro c
    rw [← x.sent_core]
    exact Core.eq_of_est (outside.cores c)
  have charged : ∀ c, x.s.core c = { s.core c with est := (x.s.core c).est } := fun c => Core.eq_of_est (issueOf_core i p s r iw t g c)
  have log : (x.s.core t.core).log = (s.core t.core).log := by rw [charged t.core]
  refine ⟨?_, fun c elsewhere => ?_, ?_, fun none => ?_, fun selects => ?_, t3, h, found, ?_, ?_⟩
  · exact (((chargedState_outside i p s r t g).withCores s.cores).trans (x.sent_outside (a x) ias k s.cores)).trans (outside.withCores s.cores)
  · rw [core c, x.core_withEntry, if_neg fun here => elsewhere here.1.symm, charged c]
  · rw [core t.core, x.core_withEntry]
    split <;> rw [charged t.core]
  · rw [core t.core, x.core_withEntry, if_neg fun here => here.2 none, charged t.core]
  · refine ⟨x.entryMode (x.logged (a x) ias), ?_, ?_⟩
    · rw [core t.core, x.core_withEntry, if_pos ⟨rfl, selects⟩, charged t.core]
    · rw [x.entryMode_eq_chained_iff, ← log]
      rfl
  · have kept : g.KeepsAll (onItsWay p s g) := (Group.issued_keeps g p.u p.h p.dsts g.pc s.time).1
    rw [expecting] at keeps
    exact ⟨fun n hn => (keeps.registers n hn).trans (kept.registers n hn), fun n hn => (keeps.tags n hn).trans (kept.tags n hn),
      fun n hn => (keeps.uniforms n hn).trans (kept.uniforms n hn), fun hn => (keeps.predicates hn).trans (kept.predicates hn),
      fun hn => (keeps.groupPredicates hn).trans (kept.groupPredicates hn), keeps.masks, keeps.counters, keeps.returns, keeps.horizon,
      keeps.role, ⟨rfl, rfl⟩, keeps.arrivals⟩
  · have same : (x.expecting (a x) (onItsWay p s g)).pendV = (x.expects (a x)).pendV ∧ (x.expecting (a x) (onItsWay p s g)).pendS = (x.expects (a x)).pendS := by
      unfold Issue.expecting Issue.expects
      split
      · exact Group.expect_pend_congr (g := x.grp) (h := onItsWay p s g) rfl rfl ..
      · exact ⟨rfl, rfl⟩
    exact ⟨keeps.pending.1.trans same.1, keeps.pending.2.trans same.2⟩

end Sys2Proof.Machine
end


section
/-! Where results land, and what local loads leave (R273, R145). -/
namespace Sys2Proof.Machine
open Sys2Proof

/-! ## The words of a result in its destination (R273) -/

/-- A word of a run of writes reads back. -/
theorem Thread.setRegs_reads (ws : List W32) (d k : Nat) (t : Thread) {j : Nat} (hj : j < k) :
    ((List.range k).foldl (fun (t : Thread) j => t.setReg (d + j) (ws.getD j 0)) t).reg (d + j) = ws.getD j 0 := by
  induction k with
  | zero => exact absurd hj (Nat.not_lt_zero j)
  | succ k ih =>
    rw [List.range_succ, List.foldl_append]
    by_cases last : j = k
    · subst last
      exact Sp.get_set_self ..
    · exact (Thread.setReg_ne _ _ (by omega)).trans (ih (by omega))

theorem Group.setTags_reads (tag : Tag) (d k : Nat) (g : Group) {j : Nat} (hj : j < k) :
    ((List.range k).foldl (fun (g : Group) j => g.setTag (d + j) tag) g).tag (d + j) = tag := by
  induction k with
  | zero => exact absurd hj (Nat.not_lt_zero j)
  | succ k ih =>
    rw [List.range_succ, List.foldl_append]
    by_cases last : j = k
    · subst last
      exact Sp.get_set_self ..
    · exact (Group.setTag_ne _ _ (by omega)).trans (ih (by omega))

/-- A thread with the result of its lane, where there is one. -/
def Thread.landed (d k : Nat) (rs : List (Nat × Res)) (t : Thread) : Thread :=
  match rs.find? (fun p => p.1 == t.lane) with
  | some (_, r) => (List.range k).foldl (fun (t : Thread) j => t.setReg (d + j) (r.words.getD j 0)) t
  | none => t

theorem Group.writeV_threads (g : Group) (d k : Nat) (tag : Tag) (rs : List (Nat × Res)) :
    (g.writeV false d k tag rs).threads = g.threads.map (Thread.landed d k rs) := rfl

theorem Group.writeV_tag (g : Group) (d k : Nat) (tag : Tag) (rs : List (Nat × Res)) {j : Nat} (hj : j < k) :
    (g.writeV false d k tag rs).tag (d + j) = tag := Group.setTags_reads tag d k g hj

theorem Thread.landed_reg_of_find {d k : Nat} {rs : List (Nat × Res)} {t : Thread} {l : Nat} {r : Res}
    (found : rs.find? (fun p => p.1 == t.lane) = some (l, r)) {j : Nat} (hj : j < k) : (t.landed d k rs).reg (d + j) = r.words.getD j 0 := by
  unfold Thread.landed
  rw [found]
  exact Thread.setRegs_reads r.words d k t hj

theorem Thread.landed_of_none {d k : Nat} {rs : List (Nat × Res)} {t : Thread} (none : rs.find? (fun p => p.1 == t.lane) = none) :
    t.landed d k rs = t := by
  unfold Thread.landed
  rw [none]

/-! ## A lane's result (R273) -/

/-- The thread at a place of the group is the only one on its lane. -/
def Group.AloneAt (g : Group) (n : Nat) (y : Thread) : Prop :=
  ∀ (m : Nat) (z : Thread), g.threads[m]? = some z → z.lane = y.lane → m = n

theorem Group.AloneAt.eq {g : Group} {n : Nat} {y z : Thread} (alone : g.AloneAt n y) (here : g.threads[n]? = some y) (mem : z ∈ g.threads)
    (lane : z.lane = y.lane) : z = y := by
  obtain ⟨m, there⟩ := List.mem_iff_getElem?.mp mem
  obtain rfl := alone m z there lane
  exact Option.some.inj (there.symm.trans here)

theorem Issue.mem_lanes_iff {x : Issue} {y : Thread} : y ∈ x.lanes ↔ y ∈ x.grp.threads ∧ y.mode = .active ∧ x.selects y = true := by
  simp [Issue.lanes, Group.active, and_comm (a := y.mode = .active)]

/-- The result of a lane is that of its one thread where it is ACTIVE and selected, and there is none elsewhere. -/
theorem Op.find_results {q : Op} {x : Issue} {o : Alu} {n : Nat} {y : Thread} (here : x.grp.threads[n]? = some y) (alone : x.grp.AloneAt n y) :
    (q.results x o).find? (fun p => p.1 == y.lane) =
      if y.mode = .active ∧ x.selects y = true then some (y.lane, q.value x (q.lane x o y)) else none := by
  have mem : y ∈ x.grp.threads := List.mem_of_getElem? here
  split
  · rename_i acts
    have found : x.lanes.find? (fun z => z.lane == y.lane) = some y := by
      cases found : x.lanes.find? (fun z => z.lane == y.lane) with
      | none => exact absurd (List.find?_eq_none.mp found y (Issue.mem_lanes_iff.mpr ⟨mem, acts⟩)) (by simp)
      | some z =>
        have lane : z.lane = y.lane := by simpa using List.find?_some found
        rw [alone.eq here (Issue.mem_lanes_iff.mp (List.mem_of_find?_eq_some found)).1 lane]
    rw [Op.results, List.find?_map, Function.comp_def, found]
    rfl
  · rename_i idle
    refine List.find?_eq_none.mpr fun p hp => ?_
    obtain ⟨z, hz, rfl⟩ := List.mem_map.mp hp
    obtain ⟨member, acts⟩ := Issue.mem_lanes_iff.mp hz
    simp only [beq_iff_eq]
    intro lane
    exact idle (alone.eq here member lane ▸ acts)

/-- A thread after the issue: an ACTIVE one has retired one instruction more. -/
def Thread.counted (t : Thread) : Thread := if t.mode == .active then { t with retired := t.retired + 1 } else t

theorem onItsWay_threads (p : Plan) (s : State) (g : Group) : (onItsWay p s g).threads = g.threads.map Thread.counted := rfl

theorem Thread.counted_keeps (t : Thread) : t.counted.tid = t.tid ∧ t.counted.lane = t.lane ∧ ∀ n, t.counted.reg n = t.reg n := by
  unfold Thread.counted
  split <;> exact ⟨rfl, rfl, fun _ => rfl⟩

/-- The registers that a group keeps, thread by thread. -/
theorem Group.Keeps.thread_reg {g h : Group} {v w : Nat → Prop} {p q : Prop} (keeps : g.Keeps h v w p q) {k : Nat} (outside : ¬ v k) {n : Nat}
    {y z : Thread} (hy : g.threads[n]? = some y) (hz : h.threads[n]? = some z) : z.reg k = y.reg k := by
  have same := congrArg (·[n]?) (keeps.registers k outside)
  simp only [List.getElem?_map, hy, hz, Option.map_some, Option.some.injEq, Prod.mk.injEq] at same
  exact same.2.2

/-- A group that keeps some register keeps its threads and their lanes. -/
theorem Group.Keeps.placed {g h : Group} {v w : Nat → Prop} {p q : Prop} (keeps : g.Keeps h v w p q) {k : Nat} (outside : ¬ v k) :
    h.threads.map (fun z => (z.tid, z.lane)) = g.threads.map fun z => (z.tid, z.lane) := by
  have same := congrArg (List.map fun c : Nat × Nat × W32 => (c.1, c.2.1)) (keeps.registers k outside)
  simpa only [List.map_map, Function.comp_def] using same

/-- The word that a thread alone on its lane finds in a destination register. -/
theorem Thread.landed_counted {q : Op} {x : Issue} {o : Alu} {n : Nat} {y : Thread} (here : x.grp.threads[n]? = some y)
    (alone : x.grp.AloneAt n y) {d j : Nat} (hj : j < q.kd) :
    (y.counted.landed d q.kd (q.results x o)).reg (d + j) =
      if y.mode = .active ∧ x.selects y = true then (q.value x (q.lane x o y)).words.getD j 0 else y.reg (d + j) := by
  obtain ⟨-, lane, reg⟩ := y.counted_keeps
  have find := Op.find_results (q := q) (o := o) here alone
  rw [← lane] at find
  split
  · rename_i acts
    exact Thread.landed_reg_of_find (find.trans (if_pos acts)) hj
  · rename_i idle
    rw [Thread.landed_of_none (find.trans (if_neg idle)), reg]

/-- Settles O40: what sequential flow leaves of a register is what the write left, and the write leaves a lane's result or the old word. -/
theorem resultsLandInTheSelectedLanes : Obligations.ResultsLandInTheSelectedLanes := by
  intro i o q h hw s r iw t g issue x clear flows tags tie
  obtain ⟨t1, group⟩ := issueOf_group issue i (q.plan false o)
  have way : g.KeepsAll (onItsWay (q.plan false o) s g) := (Group.issued_keeps g false o.h (q.plan false o).dsts g.pc s.time).1
  obtain ⟨written, alike, levels, pc⟩ := Group.writeV_keeps (onItsWay (q.plan false o) s g) o.w o.d.toNat q.kd (q.tag x) (q.results x o)
  have wrote : (x.wroteV o.w o.d.toNat q.kd (q.tag x) (q.results x o)).group? r =
      some (_, (onItsWay (q.plan false o) s g).writeV o.w o.d.toNat q.kd (q.tag x) (q.results x o)) :=
    (State.count_group ..).trans (State.group?_updGroup_self _ group)
  obtain ⟨-, t2, z, found, keeps⟩ := Issue.seq_frame (x := x) wrote ((onItsWay_alike _ s g).trans alike) levels pc flows
  have past : ¬ inSpan false o.d.toNat q.kd (o.d.toNat + q.kd) := fun h => Nat.lt_irrefl _ h.2.2
  rw [hw] at keeps written
  refine ⟨_, t2, z, vRuns_of_vectorOp h s r iw t g issue clear ⟨flows, tags, tie⟩, found, ?_, fun j hj => ?_, ?_⟩
  · exact ((keeps.placed (k := 0) (by simp)).trans (written.placed past)).trans (way.placed (k := 0) (by simp))
  · exact (keeps.tags _ (by simp)).trans (Group.writeV_tag _ _ _ _ _ hj)
  · intro n y u here there alone j hj
    have landed : ((onItsWay (q.plan false o) s g).writeV false o.d.toNat q.kd (q.tag x) (q.results x o)).threads[n]? =
        some (y.counted.landed o.d.toNat q.kd (q.results x o)) := by
      rw [Group.writeV_threads, onItsWay_threads, List.getElem?_map, List.getElem?_map, here]
      rfl
    exact (keeps.thread_reg (by simp) landed there).trans (Thread.landed_counted (x := x) here alone hj)

/-! ## Local loads (R145) -/

/-- With no lane selected a destination keeps its registers, and what is pending stands. -/
theorem Group.expect_none_keeps (g : Group) (w : Bool) (d k : Nat) (tag : Tag) :
    g.KeepsAll (g.expect false w d k tag none) ∧ StandAlike g.threads (g.expect false w d k tag none).threads ∧
      (g.expect false w d k tag none).levels = g.levels ∧ (g.expect false w d k tag none).pc = g.pc :=
  ⟨.of_flow (f := id) (List.map_id _).symm (by simp) rfl, .refl _, rfl, rfl⟩

/-- A local load writes its destination, or with no lane selected nothing. -/
theorem localLoaded_frame {s : State} {r : GrpRef} {w : W32 × W32} {t : Team} {g : Group} {i : Instr} {p : Plan} (issue : AtIssue s r w t g)
    (flows : (issueOf i p s r w t g).FlowsOn) (o : Ld) (rs : List (Nat × Res)) :
    s.Frame ((issueOf i p s r w t g).seq (localLoaded o rs (issueOf i p s r w t g))) r g (inSpan false o.d.toNat (regsOf (widthOf o.width)))
      (fun _ => False) False False := by
  refine onGroup_frame issue flows (fun h => ?_) (.refl ..) rfl
  split
  · obtain ⟨keeps, rest⟩ := h.expect_none_keeps false o.d.toNat (regsOf (widthOf o.width)) 0
    exact ⟨(Group.KeepsAll.refl h).then_keeps { keeps with registers := fun n _ => keeps.registers n (by simp), tags := fun n _ => keeps.tags n (by simp) }, rest⟩
  · exact Group.writeV_keeps ..

/-- Settles O37: the value is read from memory as it stands, and its destination is the one write. -/
theorem localLoadsKeepTheRest : Obligations.LocalLoadsKeepTheRest := by
  obtain ⟨lds, -, ldv, -⟩ := localAccessesComplete
  exact ⟨fun o ps s r iw t g issue clear ok => ⟨_, lds o ps s r iw t g issue clear ok, localLoaded_frame issue ok.1 o _⟩,
    fun o ps s r iw t g issue clear ok => ⟨_, ldv o ps s r iw t g issue clear ok, localLoaded_frame issue ok.1 o _⟩⟩

end Sys2Proof.Machine
end


section
/-! Local stores, and what is forgotten when one of them sets out (R146, R177, R204). -/
namespace Sys2Proof.Machine
open Sys2Proof

/-- A team of a gang over two dies, in whose address register stands the scratchpad of the mate with rank 1. -/
def gangGroup : Group :=
  Tests.groupOf fun g => { g with threads := g.threads.map fun t => { t with v := [(2, BitVec.ofNat 32 (2 ^ 31 + 2 ^ 24))] } }
def gangTeam : Team := { fetchTeam 0 with groups := [(0, gangGroup)], gang := some (7, 0) }

/-- The mate runs on core 256 of the other die. A write-back whose completion time 2 has passed is still noted at time 5. -/
def gangState : State :=
  { State.reset.withFetchWord 32 0 with
    turns := [], cur := some (Tests.r0, 0, 0), time := 5, held := [(0, .merged 0 2)], gangs := [(7, { members := [1, 2], oneDie := false })],
    teams := [(1, gangTeam), (2, { ctx := 1, core := 256, mode := .running })],
    cores := (State.reset.withFetchWord 32 0).cores.put 256 ((State.reset.withFetchWord 32 0).core 0) }

/-- STS of register 4 to the address in register 2. -/
def farStore : St := { d := 4, a := .reg 2 }
def farIssue : Issue := issueOf (.sts farStore) (stsPlan farStore) gangState Tests.r0 (0, 0) gangTeam gangGroup
/-- Both lanes store to the first word of the mate's scratchpad. -/
def farPlaces : List (Nat × Pad) := [(0, { core := 256, slice := 0, off := 0 }), (1, { core := 256, slice := 0, off := 0 })]

/-- What an outcome holds under an identifier. -/
def heldAfter (o : Out) (k : Nat) : Option HeldAccess :=
  match o with
  | .next u => u.held.find? k
  | _ => none

/-- The store completes, and what it leaves holds its two lanes under 2 and 3 and nothing under 0: to keep an access on its way is to forget the
merged write-backs whose time has passed. -/
theorem farStore_forgets : heldAfter (exec (.sts farStore) gangState) 0 = none ∧ (heldAfter (exec (.sts farStore) gangState) 2).isSome = true := by
  decide +kernel

theorem farStore_atIssue : AtIssue gangState Tests.r0 (0, 0) gangTeam gangGroup := ⟨rfl, rfl⟩

theorem farStore_clear : (stsPlan farStore).Clear farIssue := Tests.clear_iff (by decide +kernel)

theorem farStore_flows : farIssue.FlowsOn := Tests.flows_iff (by decide +kernel)

/-- The tags, the places, the locks, the waits: every hypothesis of the clause about STS. -/
theorem farStore_checks : farIssue.TagsOk (memClasses (stsPlan farStore).srcs) ∧
    padsOf farIssue farStore.a farStore.b farStore.imm (widthOf farStore.width) = .ok farPlaces ∧
    (∀ q ∈ farPlaces, padLocked farIssue.s (widthOf farStore.width) q.2 = false) ∧
    localRelease farIssue (farStore.order = .rel) (farIssue.scope farStore.scope) = .ok () ∧
    padsClear farIssue (widthOf farStore.width) farPlaces = .ok () := by
  refine ⟨?_, rfl, ?_, rfl, rfl⟩
  · unfold Issue.TagsOk
    decide +kernel
  · decide +kernel

/-- Refutes O38: with a store on its way to another die the state forgets the merged write-backs whose completion time has passed (R177), and so
does not hold everything that it held; `gangState` holds such a one under 0, and none once the store has set out. -/
theorem not_localStoresKeepTheRest : ¬ Obligations.LocalStoresKeepTheRest := by
  rintro ⟨sts, -⟩
  obtain ⟨tags, places, unlocked, release, clear⟩ := farStore_checks
  obtain ⟨u, next, -, stands, -⟩ := sts farStore farPlaces gangState Tests.r0 (0, 0) gangTeam gangGroup farStore_atIssue farStore_clear farStore_flows
    tags places unlocked release clear
  have forgotten : u.held.find? 0 = none := by
    have h := farStore_forgets.1
    rwa [next] at h
  exact absurd ((stands 0 (by decide)).symm.trans forgotten) (by decide)

end Sys2Proof.Machine
end


section
/-! Integer results are those of two's complement words (R253, R275 to R280). -/
namespace Sys2Proof.Machine
open Sys2Proof

/-! ## Wrapping and clamping (R275, R278) -/

theorem intRes_wraps (v : Int) : intRes false v = res1 (BitVec.ofInt 32 v) := rfl
theorem int64Res_wraps (v : Int) : int64Res false v = res64 (BitVec.ofInt 64 v) := rfl

theorem ofInt_natAbs (a : W32) : BitVec.ofInt 32 (a.toInt.natAbs : Int) = if a.msb then -a else a := by
  split
  · rename_i neg
    have below : a.toInt < 0 := by simpa [BitVec.msb_eq_toInt] using neg
    rw [Int.ofNat_natAbs_of_nonpos (Int.le_of_lt below), BitVec.ofInt_neg, BitVec.ofInt_toInt]
  · rename_i nonneg
    have above : 0 ≤ a.toInt := by simpa [BitVec.msb_eq_toInt] using nonneg
    rw [Int.natAbs_of_nonneg above, BitVec.ofInt_toInt]

theorem intRes_below {v : Int} (h : v < -2147483648) : intRes true v = { words := [0x80000000], counts := [counterNo 4 0x28] } := by
  have clamped : clampInt (-2 ^ 31) (2 ^ 31 - 1) v = (-2 ^ 31, true) := if_pos h
  rw [intRes, if_pos rfl, clamped]
  rfl

theorem intRes_above {v : Int} (h : 2147483647 < v) : intRes true v = { words := [0x7FFFFFFF], counts := [counterNo 4 0x28] } := by
  have clamped : clampInt (-2 ^ 31) (2 ^ 31 - 1) v = (2 ^ 31 - 1, true) := by
    rw [clampInt, if_neg (by omega), if_pos (by omega)]
  rw [intRes, if_pos rfl, clamped]
  rfl

theorem intRes_within {v : Int} (low : -2147483648 ≤ v) (high : v ≤ 2147483647) :
    intRes true v = res1 (BitVec.ofInt 32 v) ∧ (BitVec.ofInt 32 v).toInt = v := by
  have kept : clampInt (-2 ^ 31) (2 ^ 31 - 1) v = (v, false) := by
    rw [clampInt, if_neg (by omega), if_neg (by omega)]
  refine ⟨?_, ?_⟩
  · rw [intRes, if_pos rfl, kept]
    rfl
  · rw [BitVec.toInt_ofInt]
    exact Int.bmod_eq_of_le (by omega) (by omega)

/-! ## High products (R275) -/

theorem mulHigh_eq (a b : W32) : mulHigh a b = ((a.signExtend 64 * b.signExtend 64) >>> 32).setWidth 32 := by
  have product : a.signExtend 64 * b.signExtend 64 = BitVec.ofInt 64 (a.toInt * b.toInt) := by
    rw [BitVec.ofInt_mul]; rfl
  apply BitVec.eq_of_toNat_eq
  rw [product, mulHigh]
  simp only [BitVec.toNat_setWidth, BitVec.toNat_ushiftRight, BitVec.toNat_ofInt, Nat.shiftRight_eq_div_pow]
  generalize a.toInt * b.toInt = p
  omega

theorem mulHighU_eq (a b : W32) : mulHighU a b = ((a.setWidth 64 * b.setWidth 64) >>> 32).setWidth 32 := by
  apply BitVec.eq_of_toNat_eq
  have small : a.toNat * b.toNat < 2 ^ 32 * 2 ^ 32 := Nat.mul_lt_mul'' a.isLt b.isLt
  simp only [mulHighU, BitVec.toNat_setWidth, BitVec.toNat_ushiftRight, BitVec.toNat_mul, BitVec.toNat_ofNat, Nat.shiftRight_eq_div_pow,
    Nat.mod_eq_of_lt (Nat.lt_trans a.isLt (by decide : 2 ^ 32 < 2 ^ 64)), Nat.mod_eq_of_lt (Nat.lt_trans b.isLt (by decide : 2 ^ 32 < 2 ^ 64))]
  rw [Nat.mod_eq_of_lt (show a.toNat * b.toNat < 2 ^ 64 from small)]

/-! ## Shifts (R275) -/

theorem shl32_eq (a b : W32) : shl32 a b = a <<< b.toNat := by
  unfold shl32
  split
  · exact (BitVec.shiftLeft_eq_zero ‹_›).symm
  · rfl

theorem shr32_eq (a b : W32) : shr32 a b = a >>> b.toNat := by
  unfold shr32
  split
  · exact (BitVec.ushiftRight_eq_zero ‹_›).symm
  · rfl

theorem sar32_eq (a b : W32) : sar32 a b = a.sshiftRight b.toNat := by
  unfold sar32
  split
  · rename_i long
    refine BitVec.eq_of_getLsbD_eq fun i hi => ?_
    have past : ¬ b.toNat + i < 32 := by omega
    rw [BitVec.getLsbD_sshiftRight, if_neg past]
    cases a.msb
    · simp
    · rw [if_pos rfl, show (0xFFFFFFFF : W32) = BitVec.allOnes 32 from rfl, BitVec.getLsbD_allOnes]
      simp [hi]
  · rfl

/-! ## Reversal and leading zeros (R276) -/

/-- The low `n` bits of a word, reversed, stand at its top. -/
theorem revN_eq (a : Nat) : ∀ n ≤ 32, ∃ c, revN a n = 2 ^ (32 - n) * c ∧ ∀ j, c.testBit j = (decide (j < n) && a.testBit (n - 1 - j))
  | 0, _ => ⟨0, rfl, by simp⟩
  | n + 1, h => by
    obtain ⟨c, eq, bits⟩ := revN_eq a n (by omega)
    refine ⟨2 * c + (a.testBit n).toNat, ?_, fun j => ?_⟩
    · rw [revN, eq, show 32 - n = 31 - n + 1 by omega, show 32 - (n + 1) = 31 - n by omega, Nat.pow_succ,
        Nat.mul_add, Nat.mul_assoc, Nat.add_comm, Nat.mul_comm (a.testBit n).toNat]
    · cases j with
      | zero => cases h : a.testBit n <;> simp [h]
      | succ j =>
        have shifted : (2 * c + (a.testBit n).toNat).testBit (j + 1) = c.testBit j := by
          rw [Nat.testBit_succ]
          congr 1
          cases a.testBit n <;> simp
          omega
        rw [shifted, bits]
        simp [Nat.sub_sub, Nat.add_comm]

theorem getLsbD_brev32 (a : W32) {i : Nat} (h : i < 32) : (brev32 a).getLsbD i = a.getLsbD (31 - i) := by
  obtain ⟨c, eq, bits⟩ := revN_eq a.toNat 32 (Nat.le_refl _)
  rw [brev32, eq, BitVec.getLsbD_ofNat, Nat.sub_self, Nat.pow_zero, Nat.one_mul, bits]
  simp [h, BitVec.getLsbD]

/-- The bits that `clzN` counts are clear, and the one after them is set where there is one. -/
theorem clzN_spec (a : Nat) : ∀ n, clzN a n ≤ n ∧ (∀ k < clzN a n, a.testBit (n - 1 - k) = false) ∧
    (clzN a n < n → a.testBit (n - 1 - clzN a n) = true)
  | 0 => by simp [clzN]
  | n + 1 => by
    obtain ⟨le, clear, set⟩ := clzN_spec a n
    unfold clzN
    split
    · rename_i top
      simp [top]
    · rename_i top
      refine ⟨by omega, fun k hk => ?_, fun hn => ?_⟩
      · cases k with
        | zero => simpa using top
        | succ k => simpa [Nat.sub_sub, Nat.add_comm] using clear k (by omega)
      · simpa [Nat.sub_sub, Nat.add_comm] using set (by omega)

theorem clz32_toNat (a : W32) : (clz32 a).toNat = clzN a.toNat 32 := by
  rw [clz32, BitVec.toNat_ofNat, Nat.mod_eq_of_lt]
  exact Nat.lt_of_le_of_lt (clzN_spec a.toNat 32).1 (by decide)

theorem clz32_eq_iff (a : W32) : a = 0 ↔ clz32 a = 32 := by
  obtain ⟨le, clear, set⟩ := clzN_spec a.toNat 32
  constructor
  · rintro rfl
    rfl
  · intro h
    have all : clzN a.toNat 32 = 32 := by rw [← clz32_toNat, h]; rfl
    apply BitVec.eq_of_getLsbD_eq
    intro i hi
    have bit := clear (31 - i) (by omega)
    rw [show 32 - 1 - (31 - i) = i by omega] at bit
    simpa [BitVec.getLsbD] using bit

theorem clz32_bits {a : W32} {n : Nat} (hn : n < 32) (h : clz32 a = BitVec.ofNat 32 n) :
    a.getLsbD (31 - n) = true ∧ ∀ k < n, a.getLsbD (31 - k) = false := by
  obtain ⟨le, clear, set⟩ := clzN_spec a.toNat 32
  have count : clzN a.toNat 32 = n := by
    rw [← clz32_toNat, h, BitVec.toNat_ofNat, Nat.mod_eq_of_lt (Nat.lt_trans hn (by decide))]
  rw [count] at clear set
  exact ⟨set hn, clear⟩

/-- Settles O41: exact integer values, cut to a word, are what a word's own arithmetic gives. -/
theorem integerResults : Obligations.IntegerResults := by
  refine ⟨fun o x l wraps => ?_, fun o x l f clamps => ?_, fun a b => ⟨mulHigh_eq a b, mulHighU_eq a b⟩,
    fun a b => ⟨shl32_eq a b, shr32_eq a b, sar32_eq a b⟩, fun a b long => ⟨if_pos long, if_pos long, if_pos long⟩,
    fun a i => getLsbD_brev32 a, fun a => ⟨clz32_eq_iff a, fun n => clz32_bits⟩⟩
  · simp only [intOp, imacOp, int1Op, int64Op, wraps, intRes_wraps, int64Res_wraps, BitVec.ofInt_add, BitVec.ofInt_mul, BitVec.ofInt_neg,
      BitVec.ofInt_toInt, ofInt_natAbs, Int.sub_eq_add_neg, BitVec.sub_eq_add_neg, and_self]
  · simp only [intOp, clamps]
    exact ⟨intRes_below, intRes_above, fun low high => ⟨_, intRes_within low high⟩⟩

end Sys2Proof.Machine
end


section
/-! Exception counters, team barriers and latches (R36, R264, R268, R282, R371). -/
namespace Sys2Proof.Machine
open Sys2Proof

/-! ## Counters and thresholds (R264, R268) -/

/-- A key that is not among those of a container has the default. -/
theorem Sp.mem_keys_of_get_ne {α : Type} {d : α} {m : Sp α} {n : Nat} (h : m.get d n ≠ d) : n ∈ m.keys := by
  induction m with
  | nil => exact absurd rfl h
  | cons p r ih =>
    obtain ⟨k, v⟩ := p
    by_cases here : k = n
    · exact here ▸ List.mem_cons_self
    · refine List.mem_cons_of_mem _ (ih ?_)
      simpa [Sp.get, Sp.find?, here] using h

theorem Launch.mem_due_iff {l : Launch} {n : Nat} :
    n ∈ l.due ↔ n ∈ l.thresholds.keys ∧ l.thresholds.get 0 n ≠ 0 ∧ l.thresholds.get 0 n ≤ l.counters.get 0 n ∧ n ∉ l.fired := by
  simp [Launch.due, and_assoc]

/-- A threshold is due once or not at all. -/
theorem Launch.count_due (l : Launch) (n : Nat) : l.due.count n = if n ∈ l.due then 1 else 0 := by
  by_cases due : n ∈ l.due
  · rw [if_pos due]
    obtain ⟨key, test⟩ := List.mem_filter.mp due
    have once : l.thresholds.keys.eraseDups.count n = 1 := (eraseDups_count ..).trans (if_pos (by simpa using key))
    exact (List.count_filter (p := fun n => let t := l.thresholds.get 0 n; t != 0 && t ≤ l.counters.get 0 n && !l.fired.contains n) test).trans once
  · rw [if_neg due, List.count_eq_zero.mpr due]

/-- As often as a number stands in a list, its pair with a slot stands among the pairs of the slot with the list's numbers. -/
theorem count_map_pair (slot n : Nat) (l : List Nat) : (l.map fun m => (slot, m)).count (slot, n) = l.count n := by
  induction l with
  | nil => rfl
  | cons m l ih =>
    rw [List.map_cons, List.count_cons, List.count_cons, ih]
    simp only [beq_iff_eq, Prod.mk.injEq, true_and]

/-- What noting the thresholds that are reached does to a launch and to the interrupts that are due. -/
theorem State.noteDue_of_find {s : State} {slot : Nat} {l : Launch} (found : s.launches.find? slot = some l) :
    (s.noteDue slot).launches.find? slot = some { l with fired := l.due ++ l.fired } ∧
      ∀ n, (s.noteDue slot).io.irqs.count (slot, n) = s.io.irqs.count (slot, n) + l.due.count n := by
  unfold State.noteDue
  rw [found]
  refine ⟨Sp.find?_put_self .., fun n => ?_⟩
  rw [List.count_append, count_map_pair]

/-- A launch with one counter raised, as far as it goes. -/
def Launch.counted (l : Launch) (n k : Nat) : Launch := { l with counters := l.counters.set 0 n (min (2 ^ 48 - 1) (l.counters.get 0 n + k)) }

theorem State.addCount_of_find {s : State} {slot : Nat} {l : Launch} (found : s.launches.find? slot = some l) {n : Nat} (counts : hasCounter n = true) (k : Nat) :
    (s.addCount slot n k).launches.find? slot = some { l.counted n k with fired := (l.counted n k).due ++ l.fired } ∧
      ∀ j, (s.addCount slot n k).io.irqs.count (slot, j) = s.io.irqs.count (slot, j) + (l.counted n k).due.count j := by
  have raised : (s.updLaunch slot fun l => l.counted n k).launches.find? slot = some (l.counted n k) := by
    rw [State.updLaunch, Sp.find?_adjust_self, found]
    rfl
  rw [State.addCount, if_pos counts]
  exact State.noteDue_of_find raised

/-- Settles O53: the counter is the one write to the launch's counters, and a threshold is due where it is reached and has not fired. -/
theorem countersSaturate : Obligations.CountersSaturate := by
  intro s slot l n k found
  refine ⟨fun none => if_neg (ne_true_of_eq_false none), fun counts => ?_⟩
  obtain ⟨launch, irqs⟩ := State.addCount_of_find found counts k
  have own : (l.counted n k).counters.get 0 n = min (2 ^ 48 - 1) (l.counters.get 0 n + k) := Sp.get_set_self ..
  have due : l.thresholds.get 0 n ≠ 0 → l.thresholds.get 0 n ≤ (l.counted n k).counters.get 0 n → n ∉ l.fired → n ∈ (l.counted n k).due :=
    fun set reached unfired => Launch.mem_due_iff.mpr ⟨Sp.mem_keys_of_get_ne set, set, reached, unfired⟩
  refine ⟨_, launch, own, fun j other => (Sp.get_set ..).trans (if_neg (Ne.symm other)), fun set reached => ?_, fun fired => ?_, fun unfired set reached => ?_⟩
  · by_cases fired : n ∈ l.fired
    · exact List.mem_append_right _ fired
    · exact List.mem_append_left _ (due set reached fired)
  · rw [irqs, Launch.count_due, if_neg fun h : n ∈ (l.counted n k).due => (Launch.mem_due_iff.mp h).2.2.2 fired, Nat.add_zero]
  · rw [irqs, Launch.count_due, if_pos (due set reached unfired)]

/-! ## Team barriers (R371) -/

/-- Values that are changed one by one are found under their keys. -/
theorem Sp.find?_map {α β : Type} (f : α → β) (m : Sp α) (k : Nat) :
    Sp.find? (List.map (fun p : Nat × α => (p.1, f p.2)) m) k = (m.find? k).map f := by
  induction m with
  | nil => rfl
  | cons p r ih =>
    obtain ⟨i, v⟩ := p
    by_cases here : i = k
    · simp [Sp.find?, here]
    · simpa [Sp.find?, here] using ih

/-- The end of a wait leaves the flags of arrivals. -/
theorem Group.depart_spec (g : Group) (stopping : Bool) (now : Nat) :
    (g.depart stopping now).outB = g.outB ∧ (g.depart stopping now).wait = .none ∧
      ((g.depart stopping now).mode = .ready ∨ (g.depart stopping now).mode = .saving) := by
  unfold Group.depart Group.wake
  split
  · exact ⟨rfl, rfl, .inr rfl⟩
  · dsimp only
    split
    · exact ⟨rfl, rfl, .inr ‹_›⟩
    · exact ⟨rfl, rfl, .inl rfl⟩

/-- The flag of an arrival at a generation of a team barrier is clear. -/
def Group.lowered? (g : Group) (b gen : Nat) : Group := if g.outB.get none b = some gen then { g with outB := g.outB.set none b none } else g

theorem Group.lowered?_spec (g : Group) (b gen : Nat) :
    (g.lowered? b gen).outB.get none b ≠ some gen ∧ (g.lowered? b gen).wait = g.wait ∧ (g.lowered? b gen).mode = g.mode := by
  unfold Group.lowered?
  split
  · exact ⟨by simp, rfl, rfl⟩
  · exact ⟨‹_›, rfl, rfl⟩

theorem Group.cross_team (g : Group) (b gen : Nat) (stopping : Bool) (now : Nat) : g.cross false b gen stopping now =
    if g.wait = .bar b gen ∨ g.wait = .barNext b gen then (g.lowered? b gen).depart stopping now else g.lowered? b gen := by
  unfold Group.cross
  simp only [Bool.false_eq_true, if_false, Bool.or_eq_true, decide_eq_true_eq]
  rfl

/-- What the completion of a generation does to one group. -/
theorem Group.cross_spec (g : Group) (b gen : Nat) (stopping : Bool) (now : Nat) :
    (g.cross false b gen stopping now).outB.get none b ≠ some gen ∧
      (g.wait = .bar b gen → (g.cross false b gen stopping now).wait = .none ∧
        ((g.cross false b gen stopping now).mode = .ready ∨ (g.cross false b gen stopping now).mode = .saving)) ∧
      (g.wait ≠ .bar b gen → g.wait ≠ .barNext b gen → (g.cross false b gen stopping now).wait = g.wait ∧ (g.cross false b gen stopping now).mode = g.mode) := by
  obtain ⟨flag, wait, mode⟩ := g.lowered?_spec b gen
  obtain ⟨flags, ended, runs⟩ := (g.lowered? b gen).depart_spec stopping now
  rw [Group.cross_team]
  split
  · rename_i waits
    exact ⟨by rwa [flags], fun _ => ⟨ended, runs⟩, fun h k => absurd waits (by simp [h, k])⟩
  · rename_i waits
    exact ⟨flag, fun h => absurd (.inl h) waits, fun _ _ => ⟨wait, mode⟩⟩

/-- A team whose barrier has completed. -/
def Team.passed (t : Team) (b now : Nat) : Team :=
  { t.cross false b (t.bar b).gen now with bars := t.bars.put b (t.bar b).next }

theorem Team.passed_bar (t : Team) (b now c : Nat) : (t.passed b now).bar c = if b = c then (t.bar b).next else t.bar c := Sp.get_put ..

theorem State.passBar_of_find {s : State} {id : Nat} {t : Team} (found : s.teams.find? id = some t) (b : Nat) :
    (s.passBar id b).teams.find? id = some (t.passed b s.time) := by
  rw [State.passBar, State.updTeam, Sp.find?_adjust_self, found]
  rfl

/-- Settles O54: the completion crosses every group of the team, and puts the next generation in the barrier's place. -/
theorem barrierCompletes : Obligations.BarrierCompletes := by
  intro s id t b found
  refine ⟨t.passed b s.time, State.passBar_of_find found b, (t.passed_bar ..).trans (if_pos rfl), fun c other => (t.passed_bar ..).trans (if_neg (Ne.symm other)),
    fun k g member => ⟨g.cross false b (t.bar b).gen t.mode.isStopping s.time, ?_, g.cross_spec ..⟩⟩
  exact (Sp.find?_map (fun g : Group => g.cross false b (t.bar b).gen t.mode.isStopping s.time) t.groups k).trans (by rw [member]; rfl)

/-! ## Latches (R36, R282) -/

/-- A push moves every older entry one place down. -/
theorem latchAt_pushLatch_succ (l : List Latch) (e : Latch) {n : Nat} (h : n < 3) : latchAt (pushLatch l e) (n + 1) = latchAt l n := by
  simp [latchAt, pushLatch, h]

theorem Group.writeV_latches (g : Group) (w : Bool) (d k : Nat) (tag : Tag) (rs : List (Nat × Res)) :
    (g.writeV w d k tag rs).x =
      ((List.range k).map fun j => ({ valid := true, tag := tag, vals := writeWord g w d rs j } : Latch)).foldl pushLatch g.x ∧
    (g.writeV w d k tag rs).y = g.y := by
  obtain ⟨m, tags, -⟩ := Group.setTags_spec tag d (List.range k) g
  unfold Group.writeV
  dsimp only
  cases w
  · rw [if_neg Bool.false_ne_true, tags]
    exact ⟨rfl, rfl⟩
  · exact ⟨rfl, rfl⟩

theorem Group.writeU_latches (g : Group) (w sel : Bool) (d k : Nat) (r : List W32) : (g.writeU w sel d k r).x = g.x := by
  unfold Group.writeU
  dsimp only
  split
  · rfl
  · obtain ⟨m, regs, -⟩ := Group.setSregs_spec (if sel then r else (List.range k).map fun j => if w then 0 else g.sreg (d + j)) d (List.range k) g
    rw [regs]

/-- Settles O42: each word of a result is one push, in order, and a push moves the older entries down. -/
theorem latchesShift : Obligations.LatchesShift :=
  ⟨fun l e => ⟨rfl, by simp [pushLatch]; omega, fun n => latchAt_pushLatch_succ l e⟩,
   fun g w d tag rs => ⟨_, (g.writeV_latches w d 1 tag rs).1, rfl, rfl, rfl⟩,
   fun g w d tag rs => ⟨_, _, (g.writeV_latches w d 2 tag rs).1, rfl, rfl, rfl, rfl⟩,
   fun g w d k tag rs => (g.writeV_latches w d k tag rs).2, Group.writeU_latches, fun _ _ _ => ⟨rfl, rfl⟩⟩

/-! ## The semaphore, MS_LEASE and replies (R79, R446, R452) -/

/-- Sending adds one message, in its order. -/
theorem State.send_spec (s : State) (m : Msg) : ∃ t, (s.send m).out = s.out ++ [{ m with time := t }] ∧ (s.send m).io = s.io := ⟨_, rfl, rfl⟩

/-- A reply to an endpoint that has its link is one message. -/
theorem State.reply_spec (s : State) {r : Req} (linked : r.ep ≠ 0) (type status : BitVec 16) (body : List W64) (after : Nat) :
    ∃ m, (s.reply r type status body after).out = s.out ++ [m] ∧ m.ep = r.ep ∧ m.type = type ||| 0x8000 ∧ m.seq = r.seq ∧ m.tag = r.tag ∧
      m.status = status ∧ m.body = body := by
  rw [State.reply, if_neg linked]
  exact ⟨_, rfl, rfl, rfl, rfl, rfl, rfl, rfl⟩

theorem State.reply_io (s : State) (r : Req) (type status : BitVec 16) (body : List W64) (after : Nat) : (s.reply r type status body after).io = s.io := by
  unfold State.reply
  split <;> rfl

theorem State.reply_home (s : State) (r : Req) (type status : BitVec 16) (body : List W64) (after h : Nat) :
    (s.reply r type status body after).home h = s.home h := by
  unfold State.reply
  split <;> rfl

/-- Settles O55: a claim keeps a holder that there is, a release clears its own; a lease below 512 is refused; a reply is one message. -/
theorem hostRequestsAnswered : Obligations.HostRequestsAnswered := by
  refine ⟨fun u r free => ?_, fun u r h held => ?_, fun u r own => ?_, fun u r h held other => ?_, fun u r h linked held => ?_,
    fun unit v s r low h => ?_, fun s r type status body after linked => State.reply_spec s linked type status body after⟩
  · exact (congrArg Io.sem (State.reply_io ..)).trans (by simp [State.updIo, free])
  · exact (congrArg Io.sem (State.reply_io ..)).trans (by simp [State.updIo, held])
  · exact (congrArg Io.sem (State.reply_io ..)).trans (by simp [State.updIo, own])
  · exact (congrArg Io.sem (State.reply_io ..)).trans (by simp [State.updIo, held, other])
  · obtain ⟨m, sent, ep, type, seq, tag, status, body⟩ := State.reply_spec (u.updIo fun io => { io with sem := some (io.sem.getD r.ep) }) linked 0x10 stOk
      [BitVec.ofNat 64 h] 0
    refine ⟨m, Eq.trans ?_ sent, body, status⟩
    simp [State.onSemClaim, State.semReply, State.updIo, held]
  · have refused : leaseRefused unit v = true := by simp [leaseRefused, low]
    rw [State.configured, if_pos refused]
    exact congrArg Home.lease (State.reply_home ..)

end Sys2Proof.Machine
end


section
/-! Barriers, stage rings and system instructions complete (R365 to R383). -/
namespace Sys2Proof.Machine
open Sys2Proof

/-! ## Barriers and stage rings (R370 to R374) -/

/-- A U-set instruction does nothing where its guard does not select the group. -/
theorem Runs.of_unselected (f : State → Out) {i : Instr} {p : Plan} {act : Body} (he : ∀ s, exec i s = f s)
    (hf : f = program i p fun x => if !x.selected then .ok (x.seq x.s) else act x) : Runs i p (fun x => x.selected = false) fun x => x.s :=
  Runs.of f he hf fun x unselected => by simp [unselected]

/-- A U-set instruction whose own flow is not the sequence acts where its guard selects the group. -/
theorem Acts.of_selected (f : State → Out) {i : Instr} {p : Plan} {ok : Issue → Prop} {effect : Issue → State} {act : Body} (he : ∀ s, exec i s = f s)
    (hf : f = program i p fun x => if !x.selected then .ok (x.seq x.s) else act x) (hb : ∀ x, ok x → act x = .ok (effect x)) :
    Acts i p (fun x => x.selected = true ∧ ok x) effect :=
  Acts.of f he hf fun x ⟨selected, hx⟩ => by simpa [selected] using hb x hx

/-- No thread of those that arrive is among those that have. -/
theorem any_contains_eq_false {l arrived : List Nat} (fresh : ∀ t ∈ l, t ∉ arrived) : ¬ l.any (arrived.contains ·) = true := by
  simpa using fresh

theorem barArrive_arrives {x : Issue} {b : Nat} {sync : Bool} (converged : x.grp.converged = true) (gate : x.releaseGate 0 = .ok ())
    (fresh : ∀ t ∈ x.arrivals, t ∉ (x.team.bar b).arrived) : barArrive x b sync = .ok (barArrived b sync x) := by
  rw [barArrive, if_neg (by simp [converged]), bind_of_ok gate, if_neg (any_contains_eq_false fresh)]

/-- GBAR where the guard selects the group. -/
def gbarAct (o : Mode) : Body := fun x =>
  match x.gangBars.broken with
  | some cause =>
    if o.mode = 2 && (x.grp.outG.get none o.b.code.toNat).isNone then .ok (x.seq x.s) else .error (.trap (brokenTrap x x.gangBars o.b.code.toNat cause))
  | none =>
    if o.mode = 2 then x.settledEntries.map fun _ => gbarAwait x o.b.code.toNat
    else if !x.grp.converged then .error (.trap tUniformViolation) else
    (gbarWaits o x).bind fun _ =>
      if x.gangArrivals.any ((x.gangBars.bars.get {} o.b.code.toNat).arrived.contains ·) then
        .error (.wait .barrier (.gbarNext o.b.code.toNat (x.gangBars.bars.get {} o.b.code.toNat).gen))
      else .ok (gbarArrived o.b.code.toNat (o.mode = 0) x)

theorem execGbar_eq (o : Mode) : execGbar o = program (.gbar o) (gbarPlan o) fun x => if !x.selected then .ok (x.seq x.s) else gbarAct o x := rfl

theorem gbarAct_arrives {o : Mode} {x : Issue} (whole : x.gangBars.broken = none) (arrives : o.mode ≠ 2) (converged : x.grp.converged = true)
    (waits : gbarWaits o x = .ok ()) (fresh : ∀ t ∈ x.gangArrivals, t ∉ (x.gangBars.bars.get {} o.b.code.toNat).arrived) :
    gbarAct o x = .ok (gbarArrived o.b.code.toNat (o.mode = 0) x) := by
  rw [gbarAct, whole]
  dsimp only
  rw [if_neg arrives, if_neg (by simp [converged]), bind_of_ok waits, if_neg (any_contains_eq_false fresh)]

theorem gbarAct_awaits {o : Mode} {x : Issue} (whole : x.gangBars.broken = none) (waits : o.mode = 2) (settled : x.settledEntries = .ok ()) :
    gbarAct o x = .ok (gbarAwait x o.b.code.toNat) := by
  rw [gbarAct, whole]
  dsimp only
  rw [if_pos waits, map_of_ok settled]

theorem barArrival_acts (o : Mode) (sync : Bool) : Acts (barArrival sync o) (barPlan o (!sync))
    (fun x => x.selected = true ∧ x.grp.converged = true ∧ x.releaseGate 0 = .ok () ∧ ∀ t ∈ x.arrivals, t ∉ (x.team.bar o.b.code.toNat).arrived)
    fun x => barArrived o.b.code.toNat sync x := by
  cases sync
  · exact Acts.of_selected (execBarArrive o) (fun _ => rfl) rfl fun _ ⟨converged, gate, fresh⟩ => barArrive_arrives converged gate fresh
  · exact Acts.of_selected (execBarSync o) (fun _ => rfl) rfl fun _ ⟨converged, gate, fresh⟩ => barArrive_arrives converged gate fresh

theorem barArrival_unselected (o : Mode) (sync : Bool) : Runs (barArrival sync o) (barPlan o (!sync)) (fun x => x.selected = false) fun x => x.s := by
  cases sync
  · exact Runs.of_unselected (execBarArrive o) (fun _ => rfl) rfl
  · exact Runs.of_unselected (execBarSync o) (fun _ => rfl) rfl

/-- Settles O13: the checks of an arrival pass, and a slot that stands as STGA asks holds nobody. -/
theorem barriersComplete : Obligations.BarriersComplete :=
  ⟨fun sync o => barArrival_acts o sync, fun sync o => barArrival_unselected o sync,
   fun o => Acts.of_selected (execBarWait o) (fun _ => rfl) rfl fun _ ⟨settled, _⟩ => map_of_ok settled _,
   fun o => Runs.of_unselected (execBarWait o) (fun _ => rfl) rfl,
   fun o => Acts.of_selected (execGbar o) (fun _ => rfl) (execGbar_eq o) fun _ ⟨whole, arrives, converged, waits, fresh⟩ =>
    gbarAct_arrives whole arrives converged waits fresh,
   fun o => Acts.of_selected (execGbar o) (fun _ => rfl) (execGbar_eq o) fun _ ⟨whole, waits, settled, _⟩ => gbarAct_awaits whole waits settled,
   fun o => Runs.of_unselected (execGbar o) (fun _ => rfl) (execGbar_eq o),
   fun o => SRuns.of (execStgw o) (fun _ => rfl) rfl fun _ _ gate => map_of_ok gate _,
   fun o => ⟨Runs.of (execStga o) (fun _ => rfl) rfl fun _ ⟨_, ready⟩ => if_pos (by simp [ready]),
     Runs.of (execStga o) (fun _ => rfl) rfl fun _ unselected => if_pos (by simp [unselected])⟩⟩

/-! ## System instructions (R365 to R369, R375 to R383, R290, R293) -/

/-- A U-set instruction that completes whether or not its guard selects the group. -/
theorem SRuns.of_choice (f : State → Out) {i : Instr} {p : Plan} {ok : Issue → Prop} {effect skip : Issue → State} (he : ∀ s, exec i s = f s)
    (hf : f = program i p fun x => .ok (x.seq (if x.selected then effect x else skip x))) : SRuns i p ok effect skip :=
  ⟨Runs.of f he hf fun x ⟨selected, _⟩ => by simp [selected], Runs.of f he hf fun x unselected => by simp [unselected]⟩

/-- Where FCNT does not wait, it reads. -/
theorem fcnt_body {o : Alu} {x : Issue} (ready : x.selected = false ∨ x.countsDue = none) :
    (match (if x.selected then x.countsDue else none) with
      | some w => .error (.wait .stalled w)
      | none => .ok (x.seq (wroteWords o x 2 (pairOf (BitVec.ofNat 64 (fcntValue x (x.ua o)))))) : Except Stop State) =
      .ok (x.seq (wroteWords o x 2 (pairOf (BitVec.ofNat 64 (fcntValue x (x.ua o)))))) := by
  have none : (if x.selected then x.countsDue else none) = none := by
    rcases ready with unselected | none
    · rw [if_neg (by simp [unselected])]
    · rw [none, ite_self]
  rw [none]

/-- LAUNCH where the guard selects the group. -/
def launchAct (o : Alu) : Body := fun x =>
  if x.team.k.paired then .error (.trap tPairedForbidden) else
  match checkGlobal x.context.windows (x.read64 groupThread o.a).toNat 256 permR with
  | .error (_, t) => .error (.trap t)
  | .ok ia =>
    match launchTry x ia with
    | .refused st s => .ok (x.seq (launchAnswer o x s (launchWord 0 st)))
    | .held => .error (.wait .stalled (.time x.s.time))
    | .accepted _ h s => (x.releaseGate 3).bind fun _ => (x.writeThrough false).map fun _ => x.seq (launchAnswer o x s (launchWord h 0))

theorem execLaunch_eq (o : Alu) :
    execLaunch o = program (.launch o) (launchPlan o) fun x => if !x.selected then .ok (x.seq (wroteWords o x 1 [])) else launchAct o x := rfl

theorem launchAct_reached {o : Alu} {x : Issue} {ia : Nat} (alone : x.team.k.paired = false)
    (reach : checkGlobal x.context.windows (x.read64 groupThread o.a).toNat 256 permR = .ok ia) : launchAct o x =
      match launchTry x ia with
      | .refused st s => .ok (x.seq (launchAnswer o x s (launchWord 0 st)))
      | .held => .error (.wait .stalled (.time x.s.time))
      | .accepted _ h s => (x.releaseGate 3).bind fun _ => (x.writeThrough false).map fun _ => x.seq (launchAnswer o x s (launchWord h 0)) := by
  rw [launchAct, if_neg (ne_true_of_eq_false alone), reach]

theorem launchAct_refused {o : Alu} {x : Issue} {ia st : Nat} {s : State} (alone : x.team.k.paired = false)
    (reach : checkGlobal x.context.windows (x.read64 groupThread o.a).toNat 256 permR = .ok ia) (answer : launchTry x ia = .refused st s) :
    launchAct o x = .ok (x.seq (launchAnswer o x s (launchWord 0 st))) := by
  rw [launchAct_reached alone reach, answer]

theorem launchAct_accepted {o : Alu} {x : Issue} {ia slot h : Nat} {s : State} (alone : x.team.k.paired = false)
    (reach : checkGlobal x.context.windows (x.read64 groupThread o.a).toNat 256 permR = .ok ia) (answer : launchTry x ia = .accepted slot h s)
    (gate : x.releaseGate 3 = .ok ()) (through : x.writeThrough false = .ok ()) :
    launchAct o x = .ok (x.seq (launchAnswer o x s (launchWord h 0))) := by
  rw [launchAct_reached alone reach, answer]
  exact (bind_of_ok gate _).trans (map_of_ok through _)

/-- CSRW where the guard selects the group. -/
def csrwAct (o : Alu) : Body := fun x =>
  if !csrWritable o.a.code.toNat then .error (.trap tPrivilege)
  else match csrSet x.team o.a.code.toNat (x.read64 groupThread o.b) with
    | none => .error (.trap tIllegalOperand)
    | some t => .ok (x.seq (x.s.updTeam x.g.team fun u => { u with leaseLen := t.leaseLen, fpmode := t.fpmode, seed := t.seed, wdog := t.wdog }))

theorem csrwAct_sets {o : Alu} {x : Issue} {t : Team} (writable : csrWritable o.a.code.toNat = true)
    (value : csrSet x.team o.a.code.toNat (x.read64 groupThread o.b) = some t) : csrwAct o x =
      .ok (x.seq (x.s.updTeam x.g.team fun u => { u with leaseLen := t.leaseLen, fpmode := t.fpmode, seed := t.seed, wdog := t.wdog })) := by
  rw [csrwAct, if_neg (by simp [writable]), value]

/-- GWAIT where the guard selects the group. -/
def gwaitAct (o : Alu) : Body := fun x =>
  match gwaitStatus x (x.ua o) with
  | none => .error (.wait .parked (.grid (x.ua o)))
  | some st => .ok (x.seq (wroteWords o x 1 [BitVec.ofNat 32 st]))

theorem gwaitAct_answers {o : Alu} {x : Issue} {st : Nat} (status : gwaitStatus x (x.ua o) = some st) :
    gwaitAct o x = .ok (x.seq (wroteWords o x 1 [BitVec.ofNat 32 st])) := by
  rw [gwaitAct, status]

/-- An extended opcode that nothing is assigned to fails the first check of R55. -/
theorem exec_unassignedExtendedOpcode {u : Bool} {w : RawWords} {s : State} {r : GrpRef} {iw : W32 × W32} {t : Team} {g : Group} (issue : AtIssue s r iw t g) :
    exec (.unassignedExtendedOpcode u w) s = .next (({ s with cur := none } : State).take r tIllegalInstruction) :=
  program_refuses (i := .unassignedExtendedOpcode u w) (p := unassignedExtendedOpcodePlan u) (body := fun x => .ok x.s) (e := .trap tIllegalInstruction) issue rfl

/-- TRAP stops at its own trap. -/
theorem trap_acts (o : Alu) : Acts (.trap o) (trapPlan o) (fun x => x.selected = true) fun x => x.pre.take x.g (tSoftware (x.ua o)) := by
  intro s r w t g issue clear selected
  exact program_stops (body := fun x => if x.selected then .error (.trap (tSoftware (x.ua o))) else .ok (x.seq x.s)) issue clear (if_pos selected)

/-- Settles O14: most of these bodies always complete; the others in the branch that their hypotheses name. -/
theorem systemInstructionsComplete : Obligations.SystemInstructionsComplete := by
  unfold Obligations.SystemInstructionsComplete
  refine ⟨?wdog, ?csrr, ?csrw, ?clk, ?fcnt, ?burn, ?curr, ?shunt, ?opcl, ?gwait, ?launch, ?launchRefused, ?trap, ?trapUnselected, ?tagr, ?tagw, ?cbld, ?unassigned⟩
  case wdog => exact fun o => SRuns.of_choice (execWdog o) (fun _ => rfl) rfl
  case csrr => exact fun o => Runs.of (execCsrr o) (fun _ => rfl) rfl fun _ _ => rfl
  case csrw => exact fun o t => SRuns.of (act := csrwAct o) (execCsrw o) (fun _ => rfl) rfl fun _ _ ⟨writable, value⟩ => csrwAct_sets writable value
  case clk => exact fun o => Runs.of (execClk o) (fun _ => rfl) rfl fun _ _ => rfl
  case fcnt => exact fun o => Runs.of (execFcnt o) (fun _ => rfl) rfl fun _ ready => fcnt_body ready
  case burn => exact fun o => SRuns.of_choice (execBurn o) (fun _ => rfl) rfl
  case curr => exact fun o => Runs.of (execCurr o) (fun _ => rfl) rfl fun _ _ => rfl
  case shunt => exact fun o => SRuns.of_choice (execShunt o) (fun _ => rfl) rfl
  case opcl => exact fun o => SRuns.of_choice (execOpcl o) (fun _ => rfl) rfl
  case gwait => exact fun o st => SRuns.of (act := gwaitAct o) (execGwait o) (fun _ => rfl) rfl fun _ _ status => gwaitAct_answers status
  case launch => exact fun o ia slot h s => SRuns.of (execLaunch o) (fun _ => rfl) (execLaunch_eq o) fun _ _ ⟨alone, reach, answer, gate, through⟩ =>
    launchAct_accepted alone reach answer gate through
  case launchRefused => exact fun o ia st s => Runs.of (execLaunch o) (fun _ => rfl) (execLaunch_eq o) fun x ⟨selected, alone, reach, answer⟩ =>
    (if_neg (by simp [selected])).trans (launchAct_refused alone reach answer)
  case trap => exact trap_acts
  case trapUnselected => exact fun o => Runs.of (execTrap o) (fun _ => rfl) rfl fun _ unselected => if_neg (ne_true_of_eq_false unselected)
  case tagr => exact fun o t => SRuns.of (execTagr o) (fun _ => rfl) rfl fun _ _ old => map_of_ok old _
  case tagw => exact fun o t => SRuns.of (execTagw o) (fun _ => rfl) rfl fun _ _ old => map_of_ok old _
  case cbld => exact fun o b => SRuns.of (execCbld o) (fun _ => rfl) rfl fun _ _ ⟨place, gate⟩ => (bind_of_ok place _).trans (map_of_ok gate _)
  case unassigned => exact fun u w s r iw t g issue => exec_unassignedExtendedOpcode issue

end Sys2Proof.Machine
end


section
/-! Engine and matrix instructions complete (R158 to R171, R327 to R342). -/
namespace Sys2Proof.Machine
open Sys2Proof

/-! ## Engines (R158 to R171) -/

/-- An ENG acts where its guard selects the group, its earlier accesses are done and its team has no twin. -/
theorem SRuns.of_engine (f : State → Out) {i : Instr} {o : Eng} {p : Plan} {ok : Issue → Prop} {effect : Issue → State} {go : Body}
    (he : ∀ s, exec i s = f s) (hf : f = program i p fun x => if !x.selected then .ok (engSkip x o) else engStart x (go x))
    (hb : ∀ x, ok x → go x = .ok (x.seq (effect x))) : SRuns i p (fun x => x.EngReady ∧ ok x) effect fun x => engSkipped x o :=
  SRuns.of f he hf fun x _ ⟨⟨alone, settled⟩, hx⟩ => by rw [engStart, if_neg (ne_true_of_eq_false alone), bind_of_ok settled, hb x hx]

/-- The same for one that needs nothing else. -/
theorem SRuns.of_ready (f : State → Out) {i : Instr} {o : Eng} {p : Plan} {effect : Issue → State} (he : ∀ s, exec i s = f s)
    (hf : f = program i p fun x => if !x.selected then .ok (engSkip x o) else engStart x (.ok (x.seq (effect x)))) :
    SRuns i p (fun x => x.EngReady) effect fun x => engSkipped x o :=
  SRuns.of f he hf fun x _ ⟨alone, settled⟩ => by rw [engStart, if_neg (ne_true_of_eq_false alone), bind_of_ok settled]

theorem exec_copyInstr (f : CopyFn) (o : Eng) (s : State) : exec (copyInstr f o) s = engCopy (copyInstr f o) f o s := by
  cases f <;> rfl

/-- The part of SEND and REDUCE behind the shared checks. -/
def sendAct (o : Eng) (work : Nat → Nat → Nat → Shape → EngWork) : Body := fun x =>
  match shapeAt x (o.imm.toNat % 16) with
  | none => .error (.trap tIllegalOperand)
  | some h =>
    (allHolds x .global [x.engAddr .global o.a] h.len permR false).bind fun d =>
    let c := x.s.cleanRange x.die d
    if c.1.rangeHeld x.die d then
      let v := (x.pre.cleanRange x.die d).1
      .error (x.hold v (.through x.die v.next 0))
    else match (pickEngine x o).bind fun e => x.enter c.1 o (sendOp o x h e work d c.2) with
    | none => .error (.wait .stalled .engine)
    | some (id, s1, w) => .ok (engReply x o (sendPlaced o x id s1) w)

theorem sendBody_eq (o : Eng) (work : Nat → Nat → Nat → Shape → EngWork) :
    sendBody o work = fun x => if !x.selected then .ok (engSkip x o) else engStart x (sendAct o work x) := rfl

theorem sendAct_enters {o : Eng} {work : Nat → Nat → Nat → Shape → EngWork} {x : Issue} {h : Shape} {d : List RangeHold} {e id : Nat} {s : State} {w : W32}
    (shape : shapeAt x (o.imm.toNat % 16) = some h) (holds : allHolds x .global [x.engAddr .global o.a] h.len permR false = .ok d)
    (through : (x.s.cleanRange x.die d).1.rangeHeld x.die d = false) (engine : pickEngine x o = some e)
    (entered : x.enter (x.s.cleanRange x.die d).1 o (sendOp o x h e work d (x.s.cleanRange x.die d).2) = some (id, s, w)) :
    sendAct o work x = .ok (x.seq (engReplied x o (sendPlaced o x id s) w)) := by
  rw [sendAct, shape]
  refine (bind_of_ok holds _).trans ?_
  simp only [through, engine, Option.bind_some, entered, Bool.false_eq_true, if_false]
  rfl

/-- Settles O16: each function's own part completes in the branch that its hypotheses name. -/
theorem engineInstructionsComplete : Obligations.EngineInstructionsComplete := by
  unfold Obligations.EngineInstructionsComplete
  refine ⟨?shape, ?copy, ?waitUnknown, ?waitEnded, ?query, ?cancel, ?cntrd, ?cntadd, ?arm, ?recv, ?send, ?reduce⟩
  case shape => exact fun o => SRuns.of_ready (execEngShape o) (fun _ => rfl) rfl
  case query => exact fun o => SRuns.of_ready (execEngQuery o) (fun _ => rfl) rfl
  case cancel => exact fun o => SRuns.of_ready (execEngCancel o) (fun _ => rfl) rfl
  case cntrd => exact fun o => SRuns.of_ready (execEngCntrd o) (fun _ => rfl) rfl
  case cntadd => exact fun o => SRuns.of_ready (execEngCntadd o) (fun _ => rfl) rfl
  case copy =>
    refine fun f o h e op id s w => SRuns.of_engine _ (exec_copyInstr f o) rfl fun x ⟨shape, engine, work, entered⟩ => ?_
    simp only [shape, engine, Option.getD_some]
    refine (bind_of_ok work _).trans ?_
    simp only [Option.bind_some, entered]
    rfl
  case waitUnknown =>
    refine fun o st => SRuns.of_engine (execEngWait o) (fun _ => rfl) rfl fun x unknown => ?_
    simp only [unknown]
    rfl
  case waitEnded =>
    refine fun o e k st at_ => SRuns.of_engine (execEngWait o) (fun _ => rfl) rfl fun x ⟨named, ended⟩ => ?_
    simp only [named, ended]
  case arm =>
    refine fun o id s w => SRuns.of_engine (execEngArm o) (fun _ => rfl) rfl fun x entered => ?_
    simp only [entered]
    rfl
  case recv =>
    refine fun o h d e id s w => SRuns.of_engine (execEngRecv o) (fun _ => rfl) rfl fun x ⟨shape, holds, engine, entered⟩ => ?_
    simp only [shape]
    refine (bind_of_ok holds _).trans ?_
    simp only [engine, Option.bind_some, entered]
    rfl
  case send =>
    exact fun o h d e id s w => SRuns.of_engine (execEngSend o) (fun _ => rfl) (congrArg (program _ _) (sendBody_eq o sendWork))
      fun _ ⟨shape, holds, through, engine, entered⟩ => sendAct_enters shape holds through engine entered
  case reduce =>
    exact fun o h d e id s w => SRuns.of_engine (execEngReduce o) (fun _ => rfl) (congrArg (program _ _) (sendBody_eq o (reduceWork o)))
      fun _ ⟨shape, holds, through, engine, entered⟩ => sendAct_enters shape holds through engine entered

/-! ## Matrix instructions (R327 to R342) -/

theorem tileTake_of_free {x : Issue} {i : Nat} (free : x.freeEntry = some i) (o : Tmem) (store : Bool) (ias : List Nat) :
    tileTake x o store ias = .ok (tileLogged x o store i ias) := by
  rw [tileTake, free]

/-- A global TLD behind its guard. -/
theorem tldGlobal {o : Tmem} {x : Issue} {ias : List Nat} {i : Nat} (reach : tileReach x o permR false = .ok ias) (gate : x.gate = .ok ())
    (order : x.tileOrder [] [o.d.toNat] = .ok ()) (free : x.freeEntry = some i) :
    ((tileReach x o permR false).bind fun ias => x.gate.bind fun _ => (x.tileOrder [] [o.d.toNat]).bind fun _ =>
      (tileTake x o false ias).map fun s1 => x.seq (tldTagged x o s1)) = .ok (x.seq (tldTagged x o (tileLogged x o false i ias))) :=
  (bind_of_ok reach _).trans ((bind_of_ok gate _).trans ((bind_of_ok order _).trans (map_of_ok (tileTake_of_free free ..) _)))

/-- A global TST behind its guard. -/
theorem tstGlobal {o : Tmem} {x : Issue} {ias : List Nat} {i : Nat} (reach : tileReach x o permW true = .ok ias) (gate : x.gate = .ok ())
    (order : x.tileOrder [o.d.toNat] [] = .ok ()) (free : x.freeEntry = some i) :
    ((tileReach x o permW true).bind fun ias => x.gate.bind fun _ => (x.tileOrder [o.d.toNat] []).bind fun _ =>
      (tileTake x o true ias).map fun s1 => x.seq s1) = .ok (x.seq (tileLogged x o true i ias)) :=
  (bind_of_ok reach _).trans ((bind_of_ok gate _).trans ((bind_of_ok order _).trans (map_of_ok (tileTake_of_free free ..) _)))

theorem refuse_false {bad : Bool} (h : bad = false) (tr : Trap) : refuse bad tr = .ok () := if_neg (ne_true_of_eq_false h)

/-- An MMA whose array has room, and which has no mate, is queued. -/
theorem mmaGo_queues {x : Issue} {o : Mtx} (room : mmaStalls x o = false) (alone : o.pair = false) (pre base : State) :
    mmaGo x o pre base = .ok (x.seq (x.queue base (mmaWork x o))) :=
  (if_neg (ne_true_of_eq_false room)).trans (if_neg (ne_true_of_eq_false alone))

/-- MMA's body, before its mates have agreed. -/
def mmaAct (o : Mtx) : Body := fun x =>
  if !mmaReady x o then (if x.acts then .error (.wait .barrier (.muster o.d.toNat true)) else .ok (x.seq x.s))
  else (mmaFormats x o).bind fun _ =>
    if !x.acts then .ok (x.seq x.s)
    else if mmaTakes x o then mmaGo x o ((mmaReopen x o x.pre).updGroup x.g Group.markOnce) (mmaReopen x o x.s)
    else mmaGo x o x.pre x.s

theorem execMma_eq (o : Mtx) : execMma o = program (.mma o) (mmaPlan o) fun x => if x.grp.agreed = some x.grp.pc then .ok (x.seq x.s) else mmaAct o x := rfl

theorem mmaAct_queues {x : Issue} {o : Mtx} (ready : mmaReady x o = true) (formats : mmaFormats x o = .ok ()) (acts : x.acts = true)
    (room : mmaStalls x o = false) (alone : o.pair = false) :
    mmaAct o x = .ok (x.seq (x.queue (if mmaTakes x o then mmaReopen x o x.s else x.s) (mmaWork x o))) := by
  rw [mmaAct, if_neg (by simp [ready]), bind_of_ok formats, if_neg (by simp [acts]), mmaGo_queues room alone, mmaGo_queues room alone]
  split <;> rfl

/-- Settles O15: each body completes in the branch that its hypotheses name. -/
theorem matrixInstructionsComplete : Obligations.MatrixInstructionsComplete := by
  unfold Obligations.MatrixInstructionsComplete
  refine ⟨?mset, ?msign, ?mstat, ?mwait, ?tldGlobal, ?tldLocal, ?tstGlobal, ?tstLocal, ?tzero, ?tcvt, ?tcvtIdle, ?tamax, ?tamaxIdle, ?mma, ?mmaAgreed⟩
  case mset => exact fun o => SRuns.of_choice (execMset o) (fun _ => rfl) rfl
  case msign => exact fun o => MRuns.of (execMsign o) (fun _ => rfl) rfl fun _ ⟨idle, open_⟩ =>
    (if_neg (ne_true_of_eq_false idle)).trans (if_neg (ne_true_of_eq_false open_))
  case mstat => exact fun o => Runs.of (execMstat o) (fun _ => rfl) rfl fun _ _ => rfl
  case mwait => exact fun o => ⟨Runs.of (execMwait o) (fun _ => rfl) rfl fun _ ⟨_, done⟩ => if_pos (by simp [done]),
    Runs.of (execMwait o) (fun _ => rfl) rfl fun _ idle => if_pos (by simp [idle])⟩
  case tldGlobal => exact fun o ia i => MRuns.of (execTld o) (fun _ => rfl) rfl fun _ ⟨global, reach, gate, order, free⟩ =>
    (if_pos global).trans (tldGlobal reach gate order free)
  case tldLocal => exact fun o b => MRuns.of (execTld o) (fun _ => rfl) rfl fun _ ⟨own, range, gate, order, present⟩ =>
    (if_neg own).trans ((bind_of_ok range _).trans ((bind_of_ok gate _).trans ((bind_of_ok order _).trans (if_neg (by simp [present])))))
  case tstGlobal => exact fun o ia i => MRuns.of (execTst o) (fun _ => rfl) rfl fun _ ⟨global, reach, gate, order, free⟩ =>
    (if_pos global).trans (tstGlobal reach gate order free)
  case tstLocal => exact fun o b => MRuns.of (execTst o) (fun _ => rfl) rfl fun _ ⟨own, range, unlocked, gate, order⟩ =>
    (if_neg own).trans ((bind_of_ok range _).trans ((bind_of_ok (refuse_false unlocked _) _).trans ((bind_of_ok gate _).trans (map_of_ok order _))))
  case tzero => exact fun o => MRuns.of (execTzero o) (fun _ => rfl) rfl fun _ order => map_of_ok order _
  case tcvt => exact fun o => Runs.of (execTcvt o) (fun _ => rfl) rfl fun _ ⟨acts, acc, order, room⟩ =>
    (bind_of_ok acc _).trans ((if_neg (by simp [acts])).trans ((bind_of_ok order _).trans (map_of_ok room _)))
  case tcvtIdle => exact fun o => Runs.of (execTcvt o) (fun _ => rfl) rfl fun _ ⟨idle, acc⟩ => (bind_of_ok acc _).trans (if_pos (by simp [idle]))
  case tamax => exact fun o => Runs.of (execTamax o) (fun _ => rfl) rfl fun _ ⟨acts, acc, order⟩ =>
    (bind_of_ok acc _).trans ((if_neg (by simp [acts])).trans (map_of_ok order _))
  case tamaxIdle => exact fun o => Runs.of (execTamax o) (fun _ => rfl) rfl fun _ ⟨idle, acc⟩ => (bind_of_ok acc _).trans (if_pos (by simp [idle]))
  case mma => exact fun o => Runs.of (execMma o) (fun _ => rfl) (execMma_eq o) fun _ ⟨apart, ready, formats, acts, room, alone⟩ =>
    (if_neg apart).trans (mmaAct_queues ready formats acts room alone)
  case mmaAgreed => exact fun o => Runs.of (execMma o) (fun _ => rfl) (execMma_eq o) fun _ agreed => if_pos agreed

end Sys2Proof.Machine
end


section
/-! Taking a trap in a state that lists its team twice (R93, R384). -/
namespace Sys2Proof.Machine
open Sys2Proof

/-- A second entry under the team's own number, one of whose groups waits for an entry of the same core's log. -/
def shadowTeam : Team := { fetchTeam 0 with groups := [(0, Tests.groupOf fun g => { g with mode := .stalled, wait := .logEntry })] }

/-- The team of `fetchTeam` at its group's trap, listed twice. -/
def shadowState : State := { State.reset.withFetchWord 32 0 with turns := [], teams := [(1, Tests.teamOf id), (1, shadowTeam)] }

/-- The mode of group 0 of team 1. -/
def State.firstMode (s : State) : Option GroupMode := (s.group? Tests.r0).map (·.2.mode)

/-- The trap stops the team's groups; the free log entries of its core then go to the waiter that the second entry shows, under the same
numbers as the group that has just stopped, which is READY again. -/
theorem shadowState_wakes : (shadowState.raiseTrap Tests.r0 tIllegalOperand).firstMode = some .ready := by
  decide +kernel

/-- A value that is found is listed. -/
theorem Sp.mem_of_find? {α : Type} {m : Sp α} {k : Nat} {v : α} (h : m.find? k = some v) : (k, v) ∈ m := by
  induction m with
  | nil => exact absurd h (by simp [Sp.find?])
  | cons p r ih =>
    obtain ⟨i, w⟩ := p
    by_cases here : i = k
    · subst here
      obtain rfl : w = v := by simpa [Sp.find?] using h
      exact List.mem_cons_self
    · exact List.mem_cons_of_mem _ (ih (by simpa [Sp.find?, here] using h))

/-- Refutes O48: the statement admits states in which a team's number is listed twice. In `shadowState` the entry that no look-up finds has a
group that waits for the operand log, and what the trap frees wakes the stopped group of that number (R93). -/
theorem not_takingATrap : ¬ Obligations.TakingATrap := by
  intro h
  obtain ⟨⟨t, found, -, stopped⟩, -⟩ := h shadowState Tests.r0 tIllegalOperand (Tests.teamOf id) (Tests.groupOf id) rfl rfl rfl (by decide) (by decide) rfl rfl
  have ready := shadowState_wakes
  rw [State.firstMode, State.group?, found] at ready
  obtain ⟨⟨_, g⟩, listed, ready⟩ := Option.map_eq_some_iff.mp ready
  obtain ⟨g, here, same⟩ := Option.map_eq_some_iff.mp listed
  cases same
  exact absurd ((stopped 0 g (Sp.mem_of_find? here)).symm.trans ready) (by decide)

end Sys2Proof.Machine
end


section
/-! Encoding and decoding (R33 to R53): the words of the fields give the fields back, each class of operands is read back from its fields, and so
each instruction. -/
namespace Sys2Proof
open Sys2Proof.Machine

/-! ## Parts of concatenated words -/

theorem extract_append_high {v w s n : Nat} (hi : BitVec v) (lo : BitVec w) (h : w ≤ s) : (hi ++ lo).extractLsb' s n = hi.extractLsb' (s - w) n :=
  BitVec.extractLsb'_append_eq_of_le h

theorem extract_append_low {v w s n : Nat} (hi : BitVec v) (lo : BitVec w) (h : s + n ≤ w) : (hi ++ lo).extractLsb' s n = lo.extractLsb' s n :=
  BitVec.extractLsb'_append_eq_of_add_le h

theorem bit_append_high {v w s : Nat} (hi : BitVec v) (lo : BitVec w) (h : w ≤ s) : (hi ++ lo).getLsbD s = hi.getLsbD (s - w) := by
  rw [BitVec.getLsbD_append, if_neg (by omega)]

theorem bit_append_low {v w s : Nat} (hi : BitVec v) (lo : BitVec w) (h : s < w) : (hi ++ lo).getLsbD s = lo.getLsbD s := by
  rw [BitVec.getLsbD_append, if_pos h]

theorem bit_bit1 (b : Bool) : (bit1 b).getLsbD 0 = b := by cases b <;> rfl
theorem extract_bit1 (b : Bool) : (bit1 b).extractLsb' 0 1 = bit1 b := BitVec.extractLsb'_eq_self

/-! ## Sources, masks and the header of an extension word (R22, R35, R39, R48) -/

theorem Src.ofCode_code {a : Src} (h : a.wf = true) : Src.ofCode a.code = a := by
  cases a with
  | reserved c =>
    obtain ⟨low, high⟩ : 0x88 ≤ c.toNat ∧ c.toNat ≤ 0xBF := by simpa [Src.wf] using h
    have other : ∀ k : BitVec 8, k.toNat < 0x88 → c ≠ k := fun k hk e => by rw [e] at low; omega
    rw [Src.code, Src.ofCode, if_neg (by omega), if_neg (by omega), if_neg (other _ (by decide)), if_neg (other _ (by decide)),
      if_neg (other _ (by decide)), if_neg (other _ (by decide)), if_pos (by omega)]
  | reg n => revert n; decide
  | latch n => revert n; decide
  | bcast n => revert n; decide
  | zero | home | index | ones => rfl

theorem Rnd.ofBits_bits (r : Rnd) : Rnd.ofBits r.bits = r := by cases r <;> rfl
theorem Order.ofBits_bits (o : Order) : Order.ofBits o.bits = o := by cases o <;> rfl

theorem Mask.ofWord_word {m : Mask} (h : m.wf = true) : Mask.ofWord m.word = .ok m := by
  unfold Mask.ofWord Mask.word
  simp (disch := decide) only [extract_append_high, extract_append_low, bit_append_high, bit_append_low, Nat.reduceSub, BitVec.extractLsb'_eq_self, bit_bit1]
  exact if_pos h

theorem hdrBits_extract_low (h : Hdr) (lo : BitVec 11) (c : BitVec 8) {s n : Nat} (hs : s + n ≤ 11) : (hdrBits h lo c).extractLsb' s n = lo.extractLsb' s n :=
  extract_append_low _ lo hs

theorem hdrBits_bit (h : Hdr) (lo : BitVec 11) (c : BitVec 8) {s : Nat} (hs : s < 11) : (hdrBits h lo c).getLsbD s = lo.getLsbD s :=
  bit_append_low _ lo hs

theorem hdrBits_extract_top (h : Hdr) (lo : BitVec 11) (c : BitVec 8) {s n : Nat} (hs : 16 ≤ s) :
    (hdrBits h lo c).extractLsb' s n = c.extractLsb' (s - 16) n :=
  (extract_append_high _ lo (by omega)).trans ((extract_append_high c _ (by omega)).trans (by rw [Nat.sub_sub]))

theorem guardOf_hdrBits (h : Hdr) (lo : BitVec 11) (c : BitVec 8) : guardOf (hdrBits h lo c) = .ok h.guard := by
  have bits : ∀ s n, s + n ≤ 5 → (hdrBits h lo c).extractLsb' (s + 11) n = (guardBits h.guard).extractLsb' s n := fun s n hs =>
    (extract_append_high _ lo (by omega)).trans (extract_append_low c _ hs)
  have bit : ∀ s, s < 5 → (hdrBits h lo c).getLsbD (s + 11) = (guardBits h.guard).getLsbD s := fun s hs =>
    (bit_append_high _ lo (by omega)).trans (bit_append_low c _ hs)
  rw [guardOf, bit 4 (by decide), bit 3 (by decide), bits 0 3 (by decide), bits 0 4 (by decide)]
  cases h.guard with
  | none => rfl
  | some g =>
    simp (disch := decide) only [guardBits, extract_append_low, bit_append_high, bit_append_low, Nat.reduceSub, BitVec.extractLsb'_eq_self, bit_bit1, if_true]

/-- The header is read back, where a guard stands in a long form only. -/
theorem hdrOf_ext {r : Raw} {h : Hdr} {lo : BitVec 11} {c : BitVec 8} (wf : h.wf = true) (long : r.long = h.long) (sp : r.sp = h.sp)
    (x : r.x = h.ext (hdrBits h lo c)) : hdrOf r = .ok h := by
  obtain ⟨form, -⟩ := Bool.and_eq_true_iff.mp wf
  obtain ⟨isLong, guard, mask⟩ := h
  rw [hdrOf, x, long, sp, Hdr.ext]
  cases isLong
  · obtain rfl : guard = none := by simpa using form
    exact map_of_ok (show guardOf 0 = .ok none from rfl) _
  · exact map_of_ok (guardOf_hdrBits ..) _

/-! ## Classes of operands (R39 to R49) -/

theorem check_true {p : Bool} (h : p = true) (e : DecodeErr) : check p e = .ok () := if_pos h

theorem checkW_ok {wOk : Bool} {r : Raw} (h : wWf wOk r.w r.d = true) : checkW wOk r = .ok () := if_pos h

/-- The extension word of a long form, and of a short one. -/
theorem Hdr.ext_long {h : Hdr} (long : h.long = true) (x : BitVec 24) : h.ext x = x := if_pos long
theorem Hdr.ext_short {h : Hdr} (short : h.long = false) (x : BitVec 24) : h.ext x = 0 := if_neg (ne_true_of_eq_false short)

theorem aluOf_raw {wOk : Bool} {o : Alu} (wf : o.wf wOk = true) (u : Bool) (code : BitVec 8) : aluOf wOk (o.raw u code) = .ok o := by
  simp only [Alu.wf, Bool.and_eq_true] at wf
  obtain ⟨⟨⟨⟨⟨hdr, wBit⟩, aWf⟩, bWf⟩, cWf⟩, plain⟩ := wf
  refine (bind_of_ok (checkW_ok wBit) _).trans ((map_of_ok (hdrOf_ext hdr rfl rfl rfl) _).trans (congrArg Except.ok ?_))
  obtain ⟨h, w, d, a, b, c, fmt, rnd, sat, var⟩ := o
  dsimp only [Alu.raw] at *
  rw [Src.ofCode_code aWf, Src.ofCode_code bWf]
  cases long : h.long
  · obtain ⟨⟨⟨⟨rfl, rfl⟩, rfl⟩, rfl⟩, rfl⟩ : (((c = .reg 0 ∧ fmt = 0) ∧ rnd = .rne) ∧ sat = false) ∧ var = 0 := by
      simpa [long, Alu.isPlain] using plain
    rw [Hdr.ext_short long]
    rfl
  · rw [Hdr.ext_long long]
    simp (disch := decide) only [hdrBits_extract_low, hdrBits_extract_top, hdrBits_bit, extract_append_high, extract_append_low, bit_append_high, bit_append_low,
      Nat.reduceSub, BitVec.extractLsb'_eq_self, bit_bit1, Rnd.ofBits_bits, Src.ofCode_code cWf]

/-- An immediate form is read as the arithmetic class, and its word beside. -/
theorem immOf_raw {o : Imm} (wf : o.o.wf true = true) (u : Bool) (code : BitVec 8) : immOf (o.raw u code) = .ok o :=
  map_of_ok (aluOf_raw wf u code) _

theorem cmpOf_raw {o : Cmp} (wf : o.wf = true) (u : Bool) (code : BitVec 8) : cmpOf (o.raw u code) = .ok o := by
  simp only [Cmp.wf, Bool.and_eq_true] at wf
  obtain ⟨⟨⟨⟨⟨hdr, condWf⟩, aWf⟩, bWf⟩, cWf⟩, plain⟩ := wf
  have cond : (o.raw u code).d.extractLsb' 4 3 = o.cond := by
    simp (disch := decide) only [Cmp.raw, extract_append_high, Nat.reduceSub, BitVec.extractLsb'_eq_self]
  have zero : (o.raw u code).x.extractLsb' 0 5 = 0 := by
    cases long : o.h.long
    · exact congrArg (BitVec.extractLsb' 0 5) (Hdr.ext_short long _)
    · exact (congrArg (BitVec.extractLsb' 0 5) (Hdr.ext_long long _)).trans ((hdrBits_extract_low _ _ _ (by decide)).trans (extract_append_low _ _ (by decide)))
  refine (bind_of_ok (check_true rfl _) _).trans ((bind_of_ok (check_true (by rw [cond, zero]; simpa using condWf) _) _).trans
    ((map_of_ok (hdrOf_ext hdr rfl rfl rfl) _).trans (congrArg Except.ok ?_)))
  obtain ⟨h, cond', hi, p, a, b, c, fmt⟩ := o
  dsimp only [Cmp.raw] at *
  rw [Src.ofCode_code aWf, Src.ofCode_code bWf]
  cases long : h.long
  · obtain ⟨rfl, rfl⟩ : c = .reg 0 ∧ fmt = 0 := by simpa [long] using plain
    rw [Hdr.ext_short long]
    simp (disch := decide) only [extract_append_high, extract_append_low, bit_append_high, bit_append_low, Nat.reduceSub, BitVec.extractLsb'_eq_self, bit_bit1]
    rfl
  · rw [Hdr.ext_long long]
    simp (disch := decide) only [hdrBits_extract_low, hdrBits_extract_top, extract_append_high, extract_append_low, bit_append_high, bit_append_low,
      Nat.reduceSub, BitVec.extractLsb'_eq_self, bit_bit1, Src.ofCode_code cWf]

theorem ldOf_raw {wOk : Bool} {o : Ld} (wf : o.wf wOk = true) (u : Bool) (code : BitVec 8) : ldOf (o.raw u code) wOk = .ok o := by
  simp only [Ld.wf, Bool.and_eq_true] at wf
  obtain ⟨⟨⟨⟨wBit, hdr⟩, aWf⟩, bWf⟩, plain⟩ := wf
  refine (bind_of_ok (checkW_ok wBit) _).trans ?_
  obtain ⟨h, w, d, a, b, tag, width, sx, imm, order, scope⟩ := o
  dsimp only at *
  cases long : h.long
  · obtain ⟨⟨⟨⟨⟨rfl, rfl⟩, rfl⟩, rfl⟩, rfl⟩, rfl⟩ : ((((tag = 0 ∧ width = 2) ∧ sx = false) ∧ imm = false) ∧ order = .rlx) ∧ scope = 0 := by
      simpa [long] using plain
    refine (if_neg (ne_true_of_eq_false long)).trans (congrArg Except.ok ?_)
    have none : h.guard = none := by simpa [Hdr.wf, long] using (Bool.and_eq_true_iff.mp hdr).1
    dsimp only [Ld.raw, bareOf]
    rw [Src.ofCode_code aWf, Src.ofCode_code bWf, ← none]
  · refine (if_pos long).trans ((bind_of_ok (check_true ?_ _) _).trans ((map_of_ok (hdrOf_ext hdr rfl rfl rfl) _).trans (congrArg Except.ok ?_)))
    · dsimp only [Ld.raw]
      rw [Hdr.ext_long long]
      simp (disch := decide) only [hdrBits_extract_top, hdrBits_bit, extract_append_high, bit_append_high, bit_append_low, Nat.reduceSub, BitVec.extractLsb'_eq_self, bit_bit1]
      rfl
    · dsimp only [Ld.raw]
      rw [Src.ofCode_code aWf, Src.ofCode_code bWf, Hdr.ext_long long]
      simp (disch := decide) only [hdrBits_extract_low, hdrBits_extract_top, hdrBits_bit, extract_append_high, extract_append_low, bit_append_high, bit_append_low,
        Nat.reduceSub, BitVec.extractLsb'_eq_self, bit_bit1, Order.ofBits_bits]

theorem stOf_raw {o : St} (wf : o.wf = true) (u : Bool) (code : BitVec 8) : stOf (o.raw u code) = .ok o := by
  simp only [St.wf, Bool.and_eq_true] at wf
  obtain ⟨⟨⟨⟨⟨hdr, aWf⟩, bWf⟩, valWf⟩, dZero⟩, plain⟩ := wf
  refine (bind_of_ok (check_true rfl _) _).trans ?_
  obtain ⟨h, d, a, b, val, width, sx, imm, order, scope⟩ := o
  dsimp only at *
  cases long : h.long
  · obtain ⟨⟨⟨⟨⟨rfl, rfl⟩, rfl⟩, rfl⟩, rfl⟩, rfl⟩ : ((((val = .reg 0 ∧ width = 2) ∧ sx = false) ∧ imm = false) ∧ order = .rlx) ∧ scope = 0 := by
      simpa [long] using plain
    refine (if_neg (ne_true_of_eq_false long)).trans (congrArg Except.ok ?_)
    have none : h.guard = none := by simpa [Hdr.wf, long] using (Bool.and_eq_true_iff.mp hdr).1
    dsimp only [St.raw, bareOf]
    rw [Src.ofCode_code aWf, Src.ofCode_code bWf, ← none]
  · obtain rfl : d = 0 := by simpa [long] using dZero
    refine (if_pos long).trans ((bind_of_ok (check_true ?_ _) _).trans ((map_of_ok (hdrOf_ext hdr rfl rfl rfl) _).trans (congrArg Except.ok ?_)))
    · dsimp only [St.raw]
      rw [Hdr.ext_long long]
      simp (disch := decide) only [hdrBits_bit, bit_append_high, bit_append_low, Nat.reduceSub, bit_bit1]
      rfl
    · dsimp only [St.raw]
      rw [Src.ofCode_code aWf, Src.ofCode_code bWf, Hdr.ext_long long]
      simp (disch := decide) only [hdrBits_extract_low, hdrBits_extract_top, hdrBits_bit, extract_append_high, extract_append_low, bit_append_high, bit_append_low,
        Nat.reduceSub, BitVec.extractLsb'_eq_self, bit_bit1, Order.ofBits_bits, Src.ofCode_code valWf]

theorem atmOf_raw {wOk : Bool} {o : Atm} (wf : o.wf wOk = true) (u : Bool) (code : BitVec 8) : atmOf wOk (o.raw u code) = .ok o := by
  simp only [Atm.wf, Bool.and_eq_true] at wf
  obtain ⟨⟨⟨⟨⟨hdr, wBit⟩, aWf⟩, bWf⟩, cWf⟩, plain⟩ := wf
  refine (bind_of_ok (checkW_ok wBit) _).trans ?_
  obtain ⟨h, w, d, a, b, c, kind, wide, order, scope⟩ := o
  dsimp only at *
  cases long : h.long
  · obtain ⟨⟨⟨⟨rfl, rfl⟩, rfl⟩, rfl⟩, rfl⟩ : (((c = .reg 0 ∧ kind = 0) ∧ wide = false) ∧ order = .rlx) ∧ scope = 2 := by simpa [long] using plain
    refine (if_neg (ne_true_of_eq_false long)).trans (congrArg Except.ok ?_)
    have none : h.guard = none := by simpa [Hdr.wf, long] using (Bool.and_eq_true_iff.mp hdr).1
    dsimp only [Atm.raw, bareOf]
    rw [Src.ofCode_code aWf, Src.ofCode_code bWf, ← none]
  · refine (if_pos long).trans ((bind_of_ok (check_true ?_ _) _).trans ((map_of_ok (hdrOf_ext hdr rfl rfl rfl) _).trans (congrArg Except.ok ?_)))
    · dsimp only [Atm.raw]
      rw [Hdr.ext_long long]
      simp (disch := decide) only [hdrBits_bit, bit_append_high, bit_append_low, Nat.reduceSub, bit_bit1]
      rfl
    · dsimp only [Atm.raw]
      rw [Src.ofCode_code aWf, Src.ofCode_code bWf, Hdr.ext_long long]
      simp (disch := decide) only [hdrBits_extract_low, hdrBits_extract_top, hdrBits_bit, extract_append_high, extract_append_low, bit_append_high, bit_append_low,
        Nat.reduceSub, BitVec.extractLsb'_eq_self, bit_bit1, Order.ofBits_bits, Src.ofCode_code cWf]

/-- Part of an extension word that a class leaves clear, long or short. -/
theorem ext_extract_zero (h : Hdr) {s n : Nat} {x : BitVec 24} (zero : x.extractLsb' s n = 0) : (h.ext x).extractLsb' s n = 0 := by
  unfold Hdr.ext
  split
  · exact zero
  · simp

theorem modeOf_raw {wOk : Bool} {o : Mode} (wf : o.wf wOk = true) (u : Bool) (code : BitVec 8) : modeOf wOk (o.raw u code) = .ok o := by
  simp only [Mode.wf, Bool.and_eq_true] at wf
  obtain ⟨⟨⟨⟨hdr, wBit⟩, aWf⟩, bWf⟩, plain⟩ := wf
  have zero : (o.raw u code).x.extractLsb' 3 2 = 0 := ext_extract_zero _ (by
    simp (disch := decide) only [hdrBits_extract_low, extract_append_high, extract_append_low, Nat.reduceSub, BitVec.extractLsb'_eq_self])
  refine (bind_of_ok (checkW_ok wBit) _).trans ((bind_of_ok (check_true (by rw [zero]; rfl) _) _).trans
    ((map_of_ok (hdrOf_ext hdr rfl rfl rfl) _).trans (congrArg Except.ok ?_)))
  obtain ⟨h, w, d, a, b, c, mode, scope⟩ := o
  dsimp only [Mode.raw] at *
  rw [Src.ofCode_code aWf, Src.ofCode_code bWf]
  cases long : h.long
  · obtain ⟨⟨rfl, rfl⟩, rfl⟩ : (c = 0 ∧ mode = 0) ∧ scope = 0 := by simpa [long] using plain
    rw [Hdr.ext_short long]
    rfl
  · rw [Hdr.ext_long long]
    simp (disch := decide) only [hdrBits_extract_low, hdrBits_extract_top, extract_append_high, extract_append_low, Nat.reduceSub, BitVec.extractLsb'_eq_self]

theorem mtxOf_raw {o : Mtx} (wf : o.wf = true) (u : Bool) (code : BitVec 8) : mtxOf (o.raw u code) = .ok o := by
  simp only [Mtx.wf, Bool.and_eq_true] at wf
  obtain ⟨⟨⟨⟨hdr, long⟩, tile⟩, aWf⟩, bWf⟩ := wf
  have zero : (o.raw u code).x.extractLsb' 22 2 = 0 := ext_extract_zero _ (by
    simp (disch := decide) only [hdrBits_extract_top, extract_append_high, Nat.reduceSub, BitVec.extractLsb'_eq_self])
  refine (bind_of_ok (check_true rfl _) _).trans ((bind_of_ok (check_true long _) _).trans ((bind_of_ok (check_true (by rw [zero, Bool.and_eq_true]; exact ⟨tile, rfl⟩) _) _).trans
    ((map_of_ok (hdrOf_ext hdr rfl rfl rfl) _).trans (congrArg Except.ok ?_))))
  dsimp only [Mtx.raw] at *
  rw [Src.ofCode_code aWf, Src.ofCode_code bWf, Hdr.ext_long long]
  simp (disch := decide) only [hdrBits_extract_low, hdrBits_extract_top, hdrBits_bit, extract_append_high, extract_append_low, bit_append_high, bit_append_low,
    Nat.reduceSub, BitVec.extractLsb'_eq_self, bit_bit1]

theorem tmemOf_raw {o : Tmem} (wf : o.wf = true) (u : Bool) (code : BitVec 8) : tmemOf (o.raw u code) = .ok o := by
  simp only [Tmem.wf, Bool.and_eq_true] at wf
  obtain ⟨⟨⟨⟨hdr, long⟩, tile⟩, aWf⟩, bWf⟩ := wf
  have top : (o.raw u code).x.extractLsb' 22 2 = 0 := ext_extract_zero _ (by
    simp (disch := decide) only [hdrBits_extract_top, extract_append_high, Nat.reduceSub, BitVec.extractLsb'_eq_self])
  have high : (o.raw u code).x.extractLsb' 8 3 = 0 := ext_extract_zero _ (by
    simp (disch := decide) only [hdrBits_extract_low, extract_append_high, Nat.reduceSub, BitVec.extractLsb'_eq_self])
  have low : (o.raw u code).x.extractLsb' 4 2 = 0 := ext_extract_zero _ (by
    simp (disch := decide) only [hdrBits_extract_low, extract_append_high, extract_append_low, Nat.reduceSub, BitVec.extractLsb'_eq_self])
  refine (bind_of_ok (check_true rfl _) _).trans ((bind_of_ok (check_true long _) _).trans
    ((bind_of_ok (check_true (by simp only [top, high, low, Bool.and_eq_true]; exact ⟨⟨⟨tile, rfl⟩, rfl⟩, rfl⟩) _) _).trans
    ((map_of_ok (hdrOf_ext hdr rfl rfl rfl) _).trans (congrArg Except.ok ?_))))
  dsimp only [Tmem.raw] at *
  rw [Src.ofCode_code aWf, Src.ofCode_code bWf, Hdr.ext_long long]
  simp (disch := decide) only [hdrBits_extract_low, hdrBits_extract_top, extract_append_high, extract_append_low, Nat.reduceSub, BitVec.extractLsb'_eq_self]

/-- A header without a guard is read back. -/
theorem bareOf_eq {r : Raw} {h : Hdr} (bare : h.bare = true) (long : r.long = h.long) (sp : r.sp = h.sp) : bareOf r = h := by
  obtain ⟨none, -⟩ := Bool.and_eq_true_iff.mp bare
  have guard : h.guard = Option.none := by simpa using none
  rw [bareOf, long, sp, ← guard]

/-- Three parts of a field make it up. -/
theorem append_three {v w k : Nat} (x : BitVec (v + w + k)) :
    (x.extractLsb' (w + k) v ++ x.extractLsb' k w ++ x.extractLsb' 0 k : BitVec (v + w + k)) = x := by
  rw [BitVec.extractLsb'_append_extractLsb'_eq_extractLsb' (by omega), BitVec.extractLsb'_append_extractLsb'_eq_extractLsb' (by omega),
    BitVec.extractLsb'_eq_self]

theorem braOf_raw {o : Bra} (bare : o.wf = true) (u nodiv : Bool) (code : BitVec 8) : braOf (o.raw u code nodiv) = .ok o := by
  have zero : (o.raw u code nodiv).x.extractLsb' 1 23 = 0 := ext_extract_zero _ (by cases nodiv <;> rfl)
  refine (bind_of_ok (check_true rfl _) _).trans ((map_of_ok (check_true (by rw [zero]; rfl) _) _).trans (congrArg Except.ok ?_))
  rw [bareOf_eq bare rfl rfl]
  dsimp only [Bra.raw]
  simp (disch := decide) only [extract_append_high, extract_append_low, bit_append_high, Nat.reduceSub, BitVec.extractLsb'_eq_self, bit_bit1]
  rw [append_three (v := 3) (w := 8) (k := 8) o.off]

theorem jmpOf_raw {o : Jmp} (bare : o.wf = true) (u : Bool) (code : BitVec 8) : jmpOf (o.raw u code) = .ok o := by
  refine (bind_of_ok (check_true rfl _) _).trans ((map_of_ok (check_true rfl _) _).trans (congrArg Except.ok ?_))
  rw [bareOf_eq bare rfl rfl]
  dsimp only [Jmp.raw]
  rw [append_three (v := 7) (w := 8) (k := 8) o.off]

theorem jindOf_raw {o : Jind} (wf : o.wf = true) (b : o.b = .reg 0) (u : Bool) (code : BitVec 8) : jindOf (o.raw u code) = .ok o := by
  simp only [Jind.wf, Bool.and_eq_true] at wf
  obtain ⟨⟨bare, aWf⟩, -⟩ := wf
  refine (bind_of_ok (check_true rfl _) _).trans ((map_of_ok (check_true rfl _) _).trans (congrArg Except.ok ?_))
  rw [bareOf_eq bare rfl rfl, ← b]
  dsimp only [Jind.raw]
  rw [Src.ofCode_code aWf]

theorem lopOf_raw {o : Lop} {brk : Bool} (wf : o.wf = true) (len : brk = true → o.len = 0) (u : Bool) (code : BitVec 8) : lopOf brk (o.raw u code) = .ok o := by
  obtain ⟨bare, bWf⟩ := Bool.and_eq_true_iff.mp wf
  have zero : (o.raw u code).d.extractLsb' 1 4 = 0 := by
    simp (disch := decide) only [Lop.raw, extract_append_high, extract_append_low, Nat.reduceSub, BitVec.extractLsb'_eq_self]
  have top : (o.raw u code).d.extractLsb' 0 1 = o.len.extractLsb' 8 1 := by
    simp (disch := decide) only [Lop.raw, extract_append_low, BitVec.extractLsb'_eq_self]
  have short : brk = true → (o.raw u code).a = 0 ∧ o.len.extractLsb' 8 1 = 0 := fun h => by simp [Lop.raw, len h]
  refine (bind_of_ok (check_true rfl _) _).trans ((map_of_ok (check_true ?_ _) _).trans (congrArg Except.ok ?_))
  · rw [zero, top]
    cases brk
    · rfl
    · rw [(short rfl).1, (short rfl).2]
      rfl
  · rw [bareOf_eq bare rfl rfl, top]
    dsimp only [Lop.raw]
    have whole : (o.len.extractLsb' 8 1 ++ o.len.extractLsb' 0 8 : BitVec 9) = o.len := BitVec.extractLsb'_append_extractLsb' (w := 1) (len := 8)
    rw [Src.ofCode_code bWf, whole]
    simp (disch := decide) only [extract_append_high, Nat.reduceSub, BitVec.extractLsb'_eq_self]

theorem engOf_raw {o : Eng} (wf : o.wf = true) (func : BitVec 7) : engOf (o.raw func) = .ok o := by
  simp only [Eng.wf, Bool.and_eq_true] at wf
  obtain ⟨⟨⟨⟨⟨hdr, wBit⟩, aWf⟩, bWf⟩, cWf⟩, plain⟩ := wf
  have zero : (o.raw func).x.extractLsb' 0 11 = 0 := ext_extract_zero _ (by
    simp (disch := decide) only [hdrBits_extract_low, BitVec.extractLsb'_eq_self])
  refine (bind_of_ok (checkW_ok wBit) _).trans ((bind_of_ok (check_true (by rw [zero]; rfl) _) _).trans
    ((map_of_ok (hdrOf_ext hdr rfl rfl rfl) _).trans (congrArg Except.ok ?_)))
  obtain ⟨h, w, d, a, b, c, cls, idx, imm⟩ := o
  dsimp only [Eng.raw] at *
  simp (disch := decide) only [Src.ofCode_code aWf, Src.ofCode_code bWf, extract_append_high, extract_append_low, bit_append_high, bit_append_low, Nat.reduceSub,
    BitVec.extractLsb'_eq_self, bit_bit1]
  cases long : h.long
  · obtain rfl : c = .reg 0 := by simpa [long] using plain
    rw [Hdr.ext_short long]
    rfl
  · rw [Hdr.ext_long long]
    simp (disch := decide) only [hdrBits_extract_top, Nat.reduceSub, BitVec.extractLsb'_eq_self, Src.ofCode_code cWf]

/-! ## Words (R33, R37) -/

/-- The fields that some words have: a short form has no extension word and its opcode is none that needs one, the words that no opcode asks
for are clear, and the mask word is one. -/
structure Raw.Fits (r : Raw) : Prop where
  short : r.long = false → r.x = 0 ∧ r.code.toNat < 0x3F
  assigned : isUnassigned r.u r.long r.code = false
  imm : hasImm r.code = false → r.imm = 0
  eng : isEng r.u r.code = false → r.eng = 0
  mask : r.sp.all Mask.wf = true

/-- A word that is there or not is taken back. -/
theorem takeIf_append (p : Bool) (w : W32) (absent : p = false → w = 0) (rest : List W32) :
    takeIf p ((if p then [w] else []) ++ rest) = .ok (w, rest) := by
  cases p
  · rw [absent rfl]
    rfl
  · rfl

theorem Raw.first_bit31 (r : Raw) : r.first.getLsbD 31 = r.u := by
  unfold Raw.first
  simp (disch := decide) only [bit_append_high, Nat.reduceSub, bit_bit1]

theorem Raw.first_bit30 (r : Raw) : r.first.getLsbD 30 = r.sp.isSome := by
  unfold Raw.first
  simp (disch := decide) only [bit_append_high, bit_append_low, Nat.reduceSub, bit_bit1]

theorem Raw.first_opcode (r : Raw) : r.first.extractLsb' 24 6 = if r.long then (0x3F : BitVec 6) else r.code.setWidth 6 := by
  unfold Raw.first
  simp (disch := decide) only [extract_append_high, extract_append_low, Nat.reduceSub, BitVec.extractLsb'_eq_self]

theorem Raw.first_w (r : Raw) : r.first.getLsbD 23 = r.w := by
  unfold Raw.first
  simp (disch := decide) only [bit_append_high, bit_append_low, Nat.reduceSub, bit_bit1]

theorem Raw.first_d (r : Raw) : r.first.extractLsb' 16 7 = r.d := by
  unfold Raw.first
  simp (disch := decide) only [extract_append_high, extract_append_low, Nat.reduceSub, BitVec.extractLsb'_eq_self]

theorem Raw.first_a (r : Raw) : r.first.extractLsb' 8 8 = r.a := by
  unfold Raw.first
  simp (disch := decide) only [extract_append_high, extract_append_low, Nat.reduceSub, BitVec.extractLsb'_eq_self]

theorem Raw.first_b (r : Raw) : r.first.extractLsb' 0 8 = r.b := by
  unfold Raw.first
  simp (disch := decide) only [extract_append_low, BitVec.extractLsb'_eq_self]

/-- The first word says whether an extension word follows. -/
theorem Raw.Fits.isLong {r : Raw} (h : r.Fits) : (r.first.extractLsb' 24 6 == 0x3F) = r.long := by
  rw [r.first_opcode]
  cases long : r.long
  · have small := (h.short long).2
    have apart : r.code.setWidth 6 ≠ (0x3F : BitVec 6) := fun e => by
      have := congrArg BitVec.toNat e
      rw [BitVec.toNat_setWidth, Nat.mod_eq_of_lt (by omega)] at this
      exact absurd this (Nat.ne_of_lt small)
    simpa using apart
  · rfl

/-- The extension word of a long form; no word of a short one. -/
def Raw.extension (r : Raw) : W32 := if r.long then r.code ++ r.x else 0

theorem Raw.Fits.extension_x {r : Raw} (h : r.Fits) : r.extension.extractLsb' 0 24 = r.x := by
  unfold Raw.extension
  split
  · exact (extract_append_low _ _ (by decide)).trans BitVec.extractLsb'_eq_self
  · rename_i short
    rw [(h.short (eq_false_of_ne_true short)).1]
    rfl

/-- The opcode is read from the word that carries it. -/
theorem Raw.Fits.opcode {r : Raw} (h : r.Fits) :
    (if r.long then r.extension.extractLsb' 24 8 else (r.first.extractLsb' 24 6).setWidth 8) = r.code := by
  rw [r.first_opcode, Raw.extension]
  cases long : r.long
  · have small := (h.short long).2
    apply BitVec.eq_of_toNat_eq
    rw [if_neg Bool.false_ne_true, if_neg Bool.false_ne_true, BitVec.toNat_setWidth, BitVec.toNat_setWidth, Nat.mod_eq_of_lt, Nat.mod_eq_of_lt] <;> omega
  · rw [if_pos rfl, if_pos rfl]
    exact (extract_append_high _ _ (by decide)).trans BitVec.extractLsb'_eq_self

/-- The words of the fields, in their order. -/
theorem encodeRaw_eq (r : Raw) : encodeRaw r = r.first :: ((if r.long then [r.extension] else []) ++ ((if hasImm r.code then [r.imm] else []) ++
    ((if isEng r.u r.code then [r.eng] else []) ++ (if r.sp.isSome then [(r.sp.map Mask.word).getD 0] else [])))) := by
  unfold encodeRaw Raw.extension
  cases r.long <;> cases r.sp <;> simp

/-- The words of the fields give the fields back. -/
theorem decodeRaw_encodeRaw {r : Raw} (h : r.Fits) : decodeRaw (encodeRaw r) = .ok r := by
  have word : r.sp.isSome = false → (r.sp.map Mask.word).getD 0 = 0 := fun none => by rw [Option.isSome_eq_false_iff.mp none |> Option.isNone_iff_eq_none.mp]; rfl
  have mask : (if r.sp.isSome then (Mask.ofWord ((r.sp.map Mask.word).getD 0)).map some else .ok none) = Except.ok r.sp := by
    have wf := h.mask
    cases sp : r.sp with
    | none => rfl
    | some m => exact map_of_ok (Mask.ofWord_word (by simpa [sp] using wf)) some
  have absent : r.long = false → r.extension = 0 := fun short => if_neg (ne_true_of_eq_false short)
  have tail := takeIf_append r.sp.isSome _ word []
  rw [List.append_nil] at tail
  rw [encodeRaw_eq, decodeRaw]
  dsimp only
  rw [r.first_bit31, r.first_bit30, h.isLong]
  refine (bind_of_ok (takeIf_append _ _ absent _) _).trans ?_
  dsimp only
  rw [h.opcode, h.extension_x, r.first_w, r.first_d, r.first_a, r.first_b]
  refine (bind_of_ok (takeIf_append _ _ h.imm _) _).trans ((bind_of_ok (takeIf_append _ _ h.eng _) _).trans ((bind_of_ok tail _).trans
    (bind_of_ok mask _)))

/-- Words that name an assigned opcode are read field by field. -/
theorem decode_encodeRaw {r : Raw} (h : r.Fits) : decode (encodeRaw r) = build r := by
  have fields : (decodeRaw (encodeRaw r)).bind build = build r := bind_of_ok (decodeRaw_encodeRaw h) build
  rw [encodeRaw_eq] at fields ⊢
  generalize rest : ((if r.long then [r.extension] else []) ++ ((if hasImm r.code then [r.imm] else []) ++
    ((if isEng r.u r.code then [r.eng] else []) ++ (if r.sp.isSome then [(r.sp.map Mask.word).getD 0] else [])))) = ws at fields ⊢
  cases ws with
  | nil => exact fields
  | cons w1 ws =>
    have assigned : isUnassigned r.u r.long (w1.extractLsb' 24 8) = false := by
      cases long : r.long
      · rfl
      · have second : w1 = r.extension := by
          rw [long] at rest
          exact (List.cons.inj rest).1.symm
        have code : w1.extractLsb' 24 8 = r.code := by
          have := h.opcode
          rw [long, if_pos rfl] at this
          rw [second, this]
        rw [code, ← long]
        exact h.assigned
    rw [decode, r.first_bit31, h.isLong, assigned]
    exact fields

/-! ## Fields of the classes fit their words -/

/-- An extended opcode that some map assigns. -/
def listed (u : Bool) (code : BitVec 8) : Bool := code != 0x3F && decide (code.toNat < if u then 0x50 else 0x70)

theorem isUnassigned_of_listed {u : Bool} {code : BitVec 8} (h : listed u code = true) (long : Bool) : isUnassigned u long code = false := by
  obtain ⟨other, small⟩ := Bool.and_eq_true_iff.mp h
  have low : code.toNat < if u then 0x50 else 0x70 := of_decide_eq_true small
  unfold isUnassigned
  cases u
  · simp_all
  · simp_all

theorem Raw.Fits.of {r : Raw} {h : Hdr} {y : BitVec 24} (mask : h.sp.all Mask.wf = true) (form : h.long = true ∨ r.code.toNat < 0x3F)
    (assigned : listed r.u r.code = true) (long : r.long = h.long) (sp : r.sp = h.sp) (x : r.x = h.ext y) (imm : hasImm r.code = false → r.imm = 0)
    (eng : isEng r.u r.code = false → r.eng = 0) : r.Fits where
  short isShort := by
    rw [long] at isShort
    exact ⟨x.trans (Hdr.ext_short isShort y), form.resolve_left (ne_true_of_eq_false isShort)⟩
  assigned := isUnassigned_of_listed assigned _
  imm := imm
  eng := eng
  mask := sp ▸ mask

theorem Hdr.mask_wf {h : Hdr} (wf : h.wf = true) : h.sp.all Mask.wf = true := (Bool.and_eq_true_iff.mp wf).2
theorem Hdr.mask_bare {h : Hdr} (bare : h.bare = true) : h.sp.all Mask.wf = true := (Bool.and_eq_true_iff.mp bare).2
theorem Hdr.ext_zero (h : Hdr) : (0 : BitVec 24) = h.ext 0 := (ite_self _).symm

/-! ## Rows of the opcode maps (R50 to R53) -/

/-- The fields of an opcode are read by one part of the maps. -/
def Row (part : Raw → Except DecodeErr Instr) (u : Bool) (code : BitVec 8) : Prop := ∀ r : Raw, r.u = u → r.code = code → build r = part r

section
variable {code : BitVec 8}

theorem row_of_V {part : Raw → Except DecodeErr Instr} (h : ∀ r : Raw, r.code = code → buildV r = part r) : Row part false code :=
  fun r u c => (if_neg (ne_true_of_eq_false u)).trans (h r c)
theorem row_of_U {part : Raw → Except DecodeErr Instr} (h : ∀ r : Raw, r.code = code → buildU r = part r) : Row part true code :=
  fun r u c => (if_pos u).trans (h r c)

theorem rowV0 (n : code.extractLsb' 4 4 = 0) : Row buildV00 false code := row_of_V fun r c => by rw [buildV, c, n]; rfl
theorem rowV1 (n : code.extractLsb' 4 4 = 1) : Row buildV10 false code := row_of_V fun r c => by rw [buildV, c, n]; rfl
theorem rowV2 (n : code.extractLsb' 4 4 = 2) : Row buildV20 false code := row_of_V fun r c => by rw [buildV, c, n]; rfl
theorem rowV3 (n : code.extractLsb' 4 4 = 3) : Row buildV30 false code := row_of_V fun r c => by rw [buildV, c, n]; rfl
theorem rowV4 (n : code.extractLsb' 4 4 = 4) : Row buildV40 false code := row_of_V fun r c => by rw [buildV, c, n]; rfl
theorem rowV5 (n : code.extractLsb' 4 4 = 5) : Row buildV50 false code := row_of_V fun r c => by rw [buildV, c, n]; rfl
theorem rowV6 (n : code.extractLsb' 4 4 = 6) : Row buildV60 false code := row_of_V fun r c => by rw [buildV, c, n]; rfl
theorem rowU0 (n : code.extractLsb' 4 4 = 0) : Row buildU00 true code := row_of_U fun r c => by rw [buildU, c, n]; rfl
theorem rowU1 (n : code.extractLsb' 4 4 = 1) : Row buildU10 true code := row_of_U fun r c => by rw [buildU, c, n]; rfl
theorem rowU2 (n : code.extractLsb' 4 4 = 2) : Row buildU20 true code := row_of_U fun r c => by rw [buildU, c, n]; rfl
theorem rowU3 (n : code.extractLsb' 4 4 = 3) : Row buildU30 true code := row_of_U fun r c => by rw [buildU, c, n]; rfl
theorem rowU4 (n : code.extractLsb' 4 4 = 4) : Row buildU40 true code := row_of_U fun r c => by rw [buildU, c, n]; rfl
end

/-! ## Instructions, class by class -/

section
variable {i : Instr} {r : Raw} {u : Bool} {code : BitVec 8} {part : Raw → Except DecodeErr Instr}

/-- An instruction whose fields fit is read back where its map does. -/
theorem decode_of_part (words : encode i = encodeRaw r) (row : Row part u code) (isU : r.u = u) (isCode : r.code = code) (fits : r.Fits)
    (built : part r = .ok i) : decode (encode i) = .ok i := by
  rw [words, decode_encodeRaw fits, row r isU isCode, built]

/-- The map reads the operands of one class. -/
theorem built_of_class {α : Type} {read : Except DecodeErr α} {o : α} {mk : α → Instr} (built : part r = read.map mk) (operands : read = .ok o) :
    part r = .ok (mk o) := built.trans (map_of_ok operands mk)

theorem Alu.wf_hdr {o : Alu} {wOk : Bool} (wf : o.wf wOk = true) : o.h.wf = true := by
  simp only [Alu.wf, Bool.and_eq_true] at wf
  exact wf.1.1.1.1.1

theorem Alu.fits {o : Alu} (hdr : o.h.wf = true) (form : o.h.long = true ∨ code.toNat < 0x3F) (assigned : listed u code = true) : (o.raw u code).Fits :=
  .of (Hdr.mask_wf hdr) form assigned rfl rfl rfl (fun _ => rfl) fun _ => rfl

theorem decode_alu {o : Alu} {wOk : Bool} {mk : Alu → Instr} (wf : o.wf wOk = true) (words : encode (mk o) = encodeRaw (o.raw u code)) (row : Row part u code)
    (built : part (o.raw u code) = (aluOf wOk (o.raw u code)).map mk) (form : o.h.long = true ∨ code.toNat < 0x3F)
    (assigned : listed u code = true) : decode (encode (mk o)) = .ok (mk o) :=
  decode_of_part words row rfl rfl (Alu.fits (Alu.wf_hdr wf) form assigned) (built_of_class built (aluOf_raw wf u code))

/-- An arithmetic-class instruction that has no short form. -/
theorem decode_aluLong {o : Alu} {wOk : Bool} {mk : Alu → Instr} (wf : o.wfExt wOk = true) (words : encode (mk o) = encodeRaw (o.raw u code))
    (row : Row part u code) (built : part (o.raw u code) = (aluOf wOk (o.raw u code)).map mk) (assigned : listed u code = true) :
    decode (encode (mk o)) = .ok (mk o) :=
  have ⟨long, wf⟩ := Bool.and_eq_true_iff.mp wf
  decode_alu wf words row built (.inl long) assigned

/-- SEL asks for its long form before it reads its operands. -/
theorem decode_sel {o : Alu} {mk : Alu → Instr} (wf : o.wfExt true = true) (words : encode (mk o) = encodeRaw (o.raw u code)) (row : Row part u code)
    (built : part (o.raw u code) = (longOf (o.raw u code)).bind fun _ => (aluOf true (o.raw u code)).map mk) (assigned : listed u code = true) :
    decode (encode (mk o)) = .ok (mk o) :=
  have ⟨long, wf⟩ := Bool.and_eq_true_iff.mp wf
  decode_alu wf words row (built.trans (bind_of_ok (check_true long _) _)) (.inl long) assigned

theorem emptyOf_raw {o : Alu} (wf : (o.wf false && o.d == 0 && o.a == .reg 0 && o.b == .reg 0) = true) : emptyOf (o.raw u code) = .ok o := by
  obtain ⟨⟨⟨wf, d⟩, a⟩, b⟩ : ((o.wf false = true ∧ o.d = 0) ∧ o.a = .reg 0) ∧ o.b = .reg 0 := by simpa using wf
  refine (bind_of_ok (check_true ?_ _) _).trans (aluOf_raw wf u code)
  simp [Alu.raw, d, a, b, Src.code]

theorem unread_raw {o : Alu} (wf : (o.wf false && o.d == 0 && o.a == .reg 0 && o.b == .reg 0) = true) : (o.raw u code).unread = o.raw u code := by
  obtain ⟨⟨-, a⟩, b⟩ : ((o.wf false = true ∧ o.d = 0) ∧ o.a = .reg 0) ∧ o.b = .reg 0 := by simpa using wf
  simp [Raw.unread, Alu.raw, a, b, Src.code]

/-- NOP, EXIT and YIELD, whose fields are clear. -/
theorem decode_empty {o : Alu} {mk : Alu → Instr} (wf : (o.wf false && o.d == 0 && o.a == .reg 0 && o.b == .reg 0) = true)
    (words : encode (mk o) = encodeRaw (o.raw u code)) (row : Row part u code) (built : part (o.raw u code) = (emptyOf (o.raw u code)).map mk)
    (form : code.toNat < 0x3F) (assigned : listed u code = true) : decode (encode (mk o)) = .ok (mk o) := by
  have alu : o.wf false = true := by
    simp only [Bool.and_eq_true] at wf
    exact wf.1.1.1
  exact decode_of_part words row rfl rfl (Alu.fits (Alu.wf_hdr alu) (.inr form) assigned) (built_of_class built (emptyOf_raw wf))

theorem decode_unread {o : Alu} {mk : Alu → Instr} (wf : (o.wf false && o.d == 0 && o.a == .reg 0 && o.b == .reg 0) = true)
    (words : encode (mk o) = encodeRaw (o.raw u code)) (row : Row part u code) (built : part (o.raw u code) = (emptyOf (o.raw u code).unread).map mk)
    (form : code.toNat < 0x3F) (assigned : listed u code = true) : decode (encode (mk o)) = .ok (mk o) :=
  decode_empty wf words row (built.trans (by rw [unread_raw wf])) form assigned

theorem decode_imm {o : Imm} {mk : Imm → Instr} (wf : o.o.wf true = true) (words : encode (mk o) = encodeRaw (o.raw u code)) (row : Row part u code)
    (built : part (o.raw u code) = (immOf (o.raw u code)).map mk) (form : code.toNat < 0x3F) (assigned : listed u code = true)
    (word : hasImm code = true) : decode (encode (mk o)) = .ok (mk o) :=
  decode_of_part words row rfl rfl (.of (h := o.o.h) (Hdr.mask_wf (Alu.wf_hdr wf)) (.inr form) assigned rfl rfl rfl
    (fun none => absurd word (ne_true_of_eq_false none)) fun _ => rfl) (built_of_class built (immOf_raw wf u code))

theorem Cmp.wf_hdr {o : Cmp} (wf : o.wf = true) : o.h.wf = true := by
  simp only [Cmp.wf, Bool.and_eq_true] at wf
  exact wf.1.1.1.1.1

theorem decode_cmp {o : Cmp} {mk : Cmp → Instr} (wf : o.wf = true) (words : encode (mk o) = encodeRaw (o.raw u code)) (row : Row part u code)
    (built : part (o.raw u code) = (cmpOf (o.raw u code)).map mk) (form : code.toNat < 0x3F) (assigned : listed u code = true) :
    decode (encode (mk o)) = .ok (mk o) :=
  decode_of_part words row rfl rfl (.of (h := o.h) (Hdr.mask_wf (Cmp.wf_hdr wf)) (.inr form) assigned rfl rfl rfl (fun _ => rfl) fun _ => rfl)
    (built_of_class built (cmpOf_raw wf u code))

/-- ICMPI reads the compare class, and its word beside. -/
theorem decode_icmpi {o : CmpImm} (wf : o.o.wf = true) : decode (encode (.icmpi o)) = .ok (.icmpi o) :=
  decode_of_part (r := { o.o.raw true 0x3d with imm := o.imm }) rfl (rowU3 (code := 0x3d) rfl) rfl rfl
    (.of (h := o.o.h) (Hdr.mask_wf (Cmp.wf_hdr wf)) (.inr (show (0x3d : BitVec 8).toNat < 0x3F by decide)) rfl rfl rfl rfl (fun none => nomatch none) fun _ => rfl)
    (built_of_class (mk := fun c => .icmpi ⟨c, o.imm⟩) rfl (show cmpOf { o.o.raw true 0x3d with imm := o.imm } = _ from cmpOf_raw wf true 0x3d))

theorem decode_ld {o : Ld} {wOk : Bool} {mk : Ld → Instr} (wf : o.wf wOk = true) (words : encode (mk o) = encodeRaw (o.raw u code)) (row : Row part u code)
    (built : part (o.raw u code) = (ldOf (o.raw u code) wOk).map mk) (form : o.h.long = true ∨ code.toNat < 0x3F) (assigned : listed u code = true) :
    decode (encode (mk o)) = .ok (mk o) := by
  refine decode_of_part words row rfl rfl (.of (h := o.h) (Hdr.mask_wf ?_) form assigned rfl rfl rfl (fun _ => rfl) fun _ => rfl)
    (built_of_class built (ldOf_raw wf u code))
  simp only [Ld.wf, Bool.and_eq_true] at wf
  exact wf.1.1.1.2

theorem decode_st {o : St} {mk : St → Instr} (wf : o.wf = true) (words : encode (mk o) = encodeRaw (o.raw u code)) (row : Row part u code)
    (built : part (o.raw u code) = (stOf (o.raw u code)).map mk) (form : code.toNat < 0x3F) (assigned : listed u code = true) :
    decode (encode (mk o)) = .ok (mk o) := by
  refine decode_of_part words row rfl rfl (.of (h := o.h) (Hdr.mask_wf ?_) (.inr form) assigned rfl rfl rfl (fun _ => rfl) fun _ => rfl)
    (built_of_class built (stOf_raw wf u code))
  simp only [St.wf, Bool.and_eq_true] at wf
  exact wf.1.1.1.1.1

theorem decode_atm {o : Atm} {wOk : Bool} {mk : Atm → Instr} (wf : o.wf wOk = true) (words : encode (mk o) = encodeRaw (o.raw u code)) (row : Row part u code)
    (built : part (o.raw u code) = (atmOf wOk (o.raw u code)).map mk) (form : o.h.long = true ∨ code.toNat < 0x3F) (assigned : listed u code = true) :
    decode (encode (mk o)) = .ok (mk o) := by
  refine decode_of_part words row rfl rfl (.of (h := o.h) (Hdr.mask_wf ?_) form assigned rfl rfl rfl (fun _ => rfl) fun _ => rfl)
    (built_of_class built (atmOf_raw wf u code))
  simp only [Atm.wf, Bool.and_eq_true] at wf
  exact wf.1.1.1.1.1

theorem Mode.wf_hdr {o : Mode} {wOk : Bool} (wf : o.wf wOk = true) : o.h.wf = true := by
  simp only [Mode.wf, Bool.and_eq_true] at wf
  exact wf.1.1.1.1

theorem Mode.fits {o : Mode} (hdr : o.h.wf = true) (form : o.h.long = true ∨ code.toNat < 0x3F) (assigned : listed u code = true) : (o.raw u code).Fits :=
  .of (Hdr.mask_wf hdr) form assigned rfl rfl rfl (fun _ => rfl) fun _ => rfl

theorem decode_mode {o : Mode} {wOk : Bool} {mk : Mode → Instr} (wf : o.wf wOk = true) (words : encode (mk o) = encodeRaw (o.raw u code))
    (row : Row part u code) (built : part (o.raw u code) = (modeOf wOk (o.raw u code)).map mk) (form : o.h.long = true ∨ code.toNat < 0x3F)
    (assigned : listed u code = true) : decode (encode (mk o)) = .ok (mk o) :=
  decode_of_part words row rfl rfl (Mode.fits (Mode.wf_hdr wf) form assigned) (built_of_class built (modeOf_raw wf u code))

/-- BAR's mode names its instruction. -/
theorem decode_bar {o : Mode} (wf : o.wf false = true) (words : encode i = encodeRaw (o.raw true 0x1d))
    (mode : (if o.mode = 0 then .ok (.barSync o) else if o.mode = 1 then .ok (.barArrive o) else if o.mode = 2 then .ok (.barWait o) else .error .unassigned :
      Except DecodeErr Instr) = .ok i) : decode (encode i) = .ok i :=
  decode_of_part words (rowU1 (code := 0x1d) rfl) rfl rfl (Mode.fits (Mode.wf_hdr wf) (.inr (by decide)) rfl)
    (show barOf (o.raw true 0x1d) = _ from (bind_of_ok (modeOf_raw wf true 0x1d) _).trans mode)

theorem decode_mtx {o : Mtx} {mk : Mtx → Instr} (wf : o.wf = true) (words : encode (mk o) = encodeRaw (o.raw u code)) (row : Row part u code)
    (built : part (o.raw u code) = (mtxOf (o.raw u code)).map mk) (assigned : listed u code = true) : decode (encode (mk o)) = .ok (mk o) := by
  obtain ⟨hdr, long⟩ : o.h.wf = true ∧ o.h.long = true := by
    simp only [Mtx.wf, Bool.and_eq_true] at wf
    exact wf.1.1.1
  exact decode_of_part words row rfl rfl (.of (h := o.h) (Hdr.mask_wf hdr) (.inl long) assigned rfl rfl rfl (fun _ => rfl) fun _ => rfl)
    (built_of_class built (mtxOf_raw wf u code))

theorem decode_tmem {o : Tmem} {mk : Tmem → Instr} (wf : o.wf = true) (words : encode (mk o) = encodeRaw (o.raw u code)) (row : Row part u code)
    (built : part (o.raw u code) = (tmemOf (o.raw u code)).map mk) (assigned : listed u code = true) : decode (encode (mk o)) = .ok (mk o) := by
  obtain ⟨hdr, long⟩ : o.h.wf = true ∧ o.h.long = true := by
    simp only [Tmem.wf, Bool.and_eq_true] at wf
    exact wf.1.1.1
  exact decode_of_part words row rfl rfl (.of (h := o.h) (Hdr.mask_wf hdr) (.inl long) assigned rfl rfl rfl (fun _ => rfl) fun _ => rfl)
    (built_of_class built (tmemOf_raw wf u code))

/-- Bit 0 of the extension word tells BRA.NODIV, which stands in long form, from the other branches. -/
theorem Bra.raw_bit0 {o : Bra} {nodiv : Bool} (long : nodiv = true → o.h.long = true) : (o.raw u code nodiv).x.getLsbD 0 = nodiv := by
  cases nodiv
  · change (o.h.ext 0).getLsbD 0 = false
    rw [← Hdr.ext_zero]
    rfl
  · change (o.h.ext 1).getLsbD 0 = true
    rw [Hdr.ext_long (long rfl)]
    rfl

theorem decode_bra {o : Bra} {nodiv : Bool} {mk : Bra → Instr} (wf : o.wf = true) (words : encode (mk o) = encodeRaw (o.raw u code nodiv)) (row : Row part u code)
    (built : part (o.raw u code nodiv) = (braOf (o.raw u code nodiv)).map mk) (form : code.toNat < 0x3F) (assigned : listed u code = true) :
    decode (encode (mk o)) = .ok (mk o) :=
  decode_of_part words row rfl rfl (.of (h := o.h) (Hdr.mask_bare wf) (.inr form) assigned rfl rfl rfl (fun _ => rfl) fun _ => rfl)
    (built_of_class built (braOf_raw wf u nodiv code))

theorem decode_jmp {o : Jmp} {mk : Jmp → Instr} (wf : o.wf = true) (words : encode (mk o) = encodeRaw (o.raw u code)) (row : Row part u code)
    (built : part (o.raw u code) = (jmpOf (o.raw u code)).map mk) (form : code.toNat < 0x3F) (assigned : listed u code = true) :
    decode (encode (mk o)) = .ok (mk o) :=
  decode_of_part words row rfl rfl (.of (h := o.h) (Hdr.mask_bare wf) (.inr form) assigned rfl rfl o.h.ext_zero (fun _ => rfl) fun _ => rfl)
    (built_of_class built (jmpOf_raw wf u code))

theorem decode_jind {o : Jind} {mk : Jind → Instr} (wf : o.wf = true) (b : o.b = .reg 0) (words : encode (mk o) = encodeRaw (o.raw u code)) (row : Row part u code)
    (built : part (o.raw u code) = (jindOf (o.raw u code)).map mk) (form : code.toNat < 0x3F) (assigned : listed u code = true) :
    decode (encode (mk o)) = .ok (mk o) := by
  refine decode_of_part words row rfl rfl (.of (h := o.h) (Hdr.mask_bare ?_) (.inr form) assigned rfl rfl o.h.ext_zero (fun _ => rfl) fun _ => rfl)
    (built_of_class built (jindOf_raw wf b u code))
  simp only [Jind.wf, Bool.and_eq_true] at wf
  exact wf.1.1

theorem decode_lop {o : Lop} {brk : Bool} {mk : Lop → Instr} (wf : o.wf = true) (len : brk = true → o.len = 0) (imm : hasImm code = false → o.imm = 0)
    (words : encode (mk o) = encodeRaw (o.raw u code)) (row : Row part u code) (built : part (o.raw u code) = (lopOf brk (o.raw u code)).map mk)
    (form : code.toNat < 0x3F) (assigned : listed u code = true) : decode (encode (mk o)) = .ok (mk o) :=
  decode_of_part words row rfl rfl
    (.of (h := o.h) (Hdr.mask_bare (Bool.and_eq_true_iff.mp wf).1) (.inr form) assigned rfl rfl o.h.ext_zero imm fun _ => rfl)
    (built_of_class built (lopOf_raw wf len u code))

/-- The ENG functions with the class each is listed for (R49), once the operands are read. -/
def engPick (func : Nat) (cls : Bool) (o : Eng) : Except DecodeErr Instr :=
  match func, cls with
  | 0x0, false => .ok (.engShape o)
  | 0x1, false => .ok (.engCopy o)
  | 0x2, false => .ok (.engPlane o)
  | 0x3, false => .ok (.engGather o)
  | 0x4, false => .ok (.engScatter o)
  | 0x5, false => .ok (.engFill o)
  | 0x6, false => .ok (.engUnplane o)
  | 0x10, true => .ok (.engSend o)
  | 0x11, true => .ok (.engRecv o)
  | 0x12, true => .ok (.engArm o)
  | 0x13, true => .ok (.engCntrd o)
  | 0x14, true => .ok (.engCntadd o)
  | 0x15, true => .ok (.engReduce o)
  | 0x16, _ => .ok (.engCancel o)
  | 0x20, _ => .ok (.engWait o)
  | 0x21, _ => .ok (.engQuery o)
  | _, _ => .error .engWord

theorem engBuild_raw {o : Eng} (wf : o.wf = true) (func : BitVec 7) : engBuild (o.raw func) = engPick func.toNat o.cls o := by
  have top : (o.raw func).eng.extractLsb' 29 3 = 0 := by
    simp (disch := decide) only [Eng.raw, extract_append_high, Nat.reduceSub, BitVec.extractLsb'_eq_self]
  have number : (o.raw func).eng.extractLsb' 15 7 = func := by
    simp (disch := decide) only [Eng.raw, extract_append_high, extract_append_low, Nat.reduceSub, BitVec.extractLsb'_eq_self]
  refine (bind_of_ok (engOf_raw wf func) _).trans ?_
  rw [top, number, if_neg (by simp)]
  rfl

theorem decode_eng {o : Eng} {func : BitVec 7} {cls : Bool} (wf : o.wf = true) (is : o.cls = cls) (words : encode i = encodeRaw (o.raw func))
    (pick : engPick func.toNat cls o = .ok i) :
    decode (encode i) = .ok i := by
  refine decode_of_part words (rowU3 (code := 0x37) rfl) rfl rfl (.of (h := o.h) (Hdr.mask_wf ?_) (.inr (show (0x37 : BitVec 8).toNat < 0x3F by decide)) rfl rfl rfl rfl (fun _ => rfl)
    fun none => nomatch none) ((show buildU30 (o.raw func) = engBuild (o.raw func) from rfl).trans ((engBuild_raw wf func).trans (is ▸ pick)))
  simp only [Eng.wf, Bool.and_eq_true] at wf
  exact wf.1.1.1.1.1

end

/-- The two words that no map assigns are kept as they are. -/
theorem decode_unassigned {u : Bool} {w : RawWords} (wf : (Instr.unassignedExtendedOpcode u w).wf = true) :
    decode (encode (.unassignedExtendedOpcode u w)) = .ok (.unassignedExtendedOpcode u w) := by
  simp only [Instr.wf, Bool.and_eq_true, beq_iff_eq] at wf
  obtain ⟨⟨set, form⟩, code⟩ := wf
  have byte : (w.w1.extractLsb' 24 8).toNat = (w.w1 >>> 24).toNat := by
    rw [BitVec.extractLsb'_toNat, BitVec.toNat_ushiftRight, Nat.mod_eq_of_lt]
    have := w.w1.isLt
    omega
  have long : w.w0.extractLsb' 24 6 = 0x3F := by
    apply BitVec.eq_of_toNat_eq
    have masked := congrArg BitVec.toNat form
    rw [BitVec.toNat_and, BitVec.toNat_ushiftRight] at masked
    rw [BitVec.extractLsb'_toNat]
    exact (Nat.and_two_pow_sub_one_eq_mod (w.w0.toNat >>> 24) 6).symm.trans masked
  have unassigned : isUnassigned u true (w.w1.extractLsb' 24 8) = true := by
    have same : (w.w1.extractLsb' 24 8 == 0x3F) = ((w.w1 >>> 24).toNat == 0x3F) := by
      rw [← byte, Bool.eq_iff_iff]
      simp [← BitVec.toNat_inj]
    rw [isUnassigned, same, byte]
    exact code
  change decode [w.w0, w.w1] = _
  rw [decode, set, long]
  exact if_pos unassigned

/-- Settles O56: class by class the fields are read back from their words, and each row of the maps names its instruction. -/
theorem encodingRoundTrips : Obligations.EncodingRoundTrips := by
  intro i wf nonempty
  cases i with
  | unassignedExtendedOpcode u w => exact decode_unassigned wf
  | mov o | iadd o | isub o | imul o | imulh o | imulhu o | imin o | imax o | iminu o | imaxu o | and o | or o | xor o | shl o
  | shr o => exact decode_alu wf rfl (rowV0 rfl) rfl (.inr (by decide)) rfl
  | movU o | iaddU o | isubU o | imulU o | imulhU o | imulhuU o | iminU o | imaxU o | iminuU o | imaxuU o | andU o | orU o
  | xorU o | shlU o | shrU o => exact decode_alu wf rfl (rowU0 rfl) rfl (.inr (by decide)) rfl
  | sar o | fadd o | fsub o | fmul o | fmin o | fmax o | rcp o | rsq o | exp2 o | log2 o => exact decode_alu wf rfl (rowV1 rfl) rfl (.inr (by decide)) rfl
  | sarU o => exact decode_alu wf rfl (rowU1 rfl) rfl (.inr (by decide)) rfl
  | popc o | clz o | lea o | iabs o | ineg o | fabs o | fneg o => exact decode_alu wf rfl (rowV2 rfl) rfl (.inr (by decide)) rfl
  | popcU o | clzU o | leaU o | iabsU o | notU o | ctime o => exact decode_alu wf rfl (rowU3 rfl) rfl (.inr (by decide)) rfl
  | fint o | not o | brev o | sin o | cos o | tanh o | sqrt o => exact decode_alu wf rfl (rowV3 rfl) rfl (.inr (by decide)) rfl
  | fma o | imac o | iadd64 o | isub64 o | bfx o | bfi o | fclass o | logistic o | cvt o | qnt o | dqn o | amax o | cblk o
  | pfma o | padd o | pmul o => exact decode_aluLong wf rfl (rowV4 rfl) rfl rfl
  | imacU o | iadd64U o | isub64U o | bfxU o | bfiU o | opcl o | tagr o | tagw o => exact decode_aluLong wf rfl (rowU4 rfl) rfl rfl
  | regroup o => exact decode_aluLong wf rfl (rowV5 rfl) rfl rfl
  | bdot o | ycvt o | yadd o | ysub o | ymul o | ydiv o | yneg o | yrec o | ysqr o | yuni o | yint o => exact decode_aluLong wf rfl (rowV5 rfl) rfl rfl
  | ycmp o | yhull o | ypack o | yunpk o | ymid o | ytest o | ymap o | yfma o => exact decode_aluLong wf rfl (rowV6 rfl) rfl rfl
  | part o | csrw o | burn o | trap o | wdog o | cbld o => exact decode_alu wf rfl (rowU2 rfl) rfl (.inr (by decide)) rfl
  | csrr o | clk o | shunt o | curr o | launch o | gwait o | fcnt o | yring o => exact decode_alu wf rfl (rowU2 rfl) rfl (.inr (by decide)) rfl
  | movi o | fmuli o | faddi o => exact decode_imm wf rfl (rowV3 rfl) rfl (by decide) rfl rfl
  | moviU o => exact decode_imm wf rfl (rowU3 rfl) rfl (by decide) rfl rfl
  | icmp o | fcmp o => exact decode_cmp wf rfl (rowV1 rfl) rfl (by decide) rfl
  | icmpU o => exact decode_cmp wf rfl (rowU1 rfl) rfl (by decide) rfl
  | ld o | lds o => exact decode_ld wf rfl (rowV1 rfl) rfl (.inr (by decide)) rfl
  | ldU o => exact decode_ld wf rfl (rowU1 rfl) rfl (.inr (by decide)) rfl
  | ldv o => exact decode_ld wf rfl (rowV2 rfl) rfl (.inr (by decide)) rfl
  | pres o => exact decode_ld wf rfl (rowV3 rfl) rfl (.inr (by decide)) rfl
  | pref o | cinv o | cwb o => exact have ⟨wf, long⟩ := Bool.and_eq_true_iff.mp wf; decode_ld wf rfl (rowU4 rfl) rfl (.inl long) rfl
  | lockl o | unlockl o => exact have ⟨wf, long⟩ := Bool.and_eq_true_iff.mp wf; decode_ld wf rfl (rowU4 rfl) rfl (.inl long) rfl
  | st o => exact decode_st wf rfl (rowV1 rfl) rfl (by decide) rfl
  | stU o => exact decode_st wf rfl (rowU1 rfl) rfl (by decide) rfl
  | sts o | stv o => exact decode_st wf rfl (rowV2 rfl) rfl (by decide) rfl
  | atom o => exact decode_atm wf rfl (rowV2 rfl) rfl (.inr (by decide)) rfl
  | atomU o => exact have ⟨wf, long⟩ := Bool.and_eq_true_iff.mp wf; decode_atm wf rfl (rowU4 rfl) rfl (.inl long) rfl
  | atoms o => exact have ⟨wf, long⟩ := Bool.and_eq_true_iff.mp wf; decode_atm wf rfl (rowV5 rfl) rfl (.inl long) rfl
  | lxch o | poll o => exact decode_mode wf rfl (rowV2 rfl) rfl (.inr (by decide)) rfl
  | lreduce o | peers o => exact have ⟨wf, long⟩ := Bool.and_eq_true_iff.mp wf; decode_mode wf rfl (rowV5 rfl) rfl (.inl long) rfl
  | gbar o | stgw o => exact decode_mode wf rfl (rowU1 rfl) rfl (.inr (by decide)) rfl
  | stga o | fence o => exact decode_mode wf rfl (rowU2 rfl) rfl (.inr (by decide)) rfl
  | msign o | mma o | tzero o | tcvt o | tamax o | mwait o => exact decode_mtx wf rfl (rowV6 rfl) rfl rfl
  | mset o | mstat o => exact decode_mtx wf rfl (rowU4 rfl) rfl rfl
  | tld o | tst o => exact decode_tmem wf rfl (rowV6 rfl) rfl rfl
  | nop o => exact decode_empty wf rfl (rowV0 rfl) rfl (by decide) rfl
  | nopU o => exact decode_empty wf rfl (rowU0 rfl) rfl (by decide) rfl
  | exit o => exact decode_unread wf rfl (rowV2 rfl) rfl (by decide) rfl
  | exitU o => exact decode_unread wf rfl (rowU3 rfl) rfl (by decide) rfl
  | yield o => exact decode_unread wf rfl (rowU1 rfl) rfl (by decide) rfl
  | sel o => exact decode_sel wf rfl (rowV1 rfl) rfl rfl
  | selU o => exact decode_sel wf rfl (rowU1 rfl) rfl rfl
  | iaddi u o | imuli u o | andi u o | ori u o =>
    cases u
    · exact decode_imm wf rfl (rowV3 rfl) rfl (by decide) rfl rfl
    · exact decode_imm wf rfl (rowU3 rfl) rfl (by decide) rfl rfl
  | icmpi o => exact decode_icmpi wf
  | red o =>
    obtain ⟨⟨wf, long⟩, d⟩ : (o.wf false = true ∧ o.h.long = true) ∧ o.d = 0 := by simpa [Instr.wf] using wf
    exact decode_atm wf rfl (rowV5 rfl) (bind_of_ok (check_true (by simp [Atm.raw, d]) _) _) (.inl long) rfl
  | barSync o =>
    obtain ⟨wf, mode⟩ : o.wf false = true ∧ o.mode = 0 := by simpa [Instr.wf] using wf
    exact decode_bar wf rfl (if_pos mode)
  | barArrive o =>
    obtain ⟨wf, mode⟩ : o.wf false = true ∧ o.mode = 1 := by simpa [Instr.wf] using wf
    exact decode_bar wf rfl (by simp [mode])
  | barWait o =>
    obtain ⟨wf, mode⟩ : o.wf false = true ∧ o.mode = 2 := by simpa [Instr.wf] using wf
    exact decode_bar wf rfl (by simp [mode])
  | bra o => exact decode_bra wf rfl (rowV2 rfl) (if_neg (by rw [Bra.raw_bit0 (nodiv := false) nofun]; decide)) (by decide) rfl
  | braNodiv o =>
    obtain ⟨wf, long⟩ := Bool.and_eq_true_iff.mp wf
    exact decode_bra wf rfl (rowV2 rfl) (if_pos (Bra.raw_bit0 fun _ => long)) (by decide) rfl
  | bru o => exact decode_bra wf rfl (rowU1 rfl) (bind_of_ok (check_true (by rw [Bra.raw_bit0 (nodiv := false) nofun]; rfl) _) _) (by decide) rfl
  | meet o => exact decode_jmp wf rfl (rowV2 rfl) rfl (by decide) rfl
  | jmp o | call o => exact decode_jmp wf rfl (rowU1 rfl) rfl (by decide) rfl
  | ret o =>
    obtain ⟨⟨wf, b⟩, a⟩ : (o.wf = true ∧ o.b = .reg 0) ∧ o.a = .reg 0 := by simpa [Instr.wf] using wf
    refine decode_jind wf b rfl (rowU1 rfl) ?_ (by decide) rfl
    exact congrArg (fun r => (jindOf r).map Instr.ret) (show { o.raw true 0x18 with a := 0 } = o.raw true 0x18 by simp [Jind.raw, a, Src.code])
  | jmpi o =>
    obtain ⟨wf, b⟩ : o.wf = true ∧ o.b = .reg 0 := by simpa [Instr.wf] using wf
    exact decode_jind wf b rfl (rowU1 rfl) rfl (by decide) rfl
  | loop o =>
    obtain ⟨wf, imm⟩ : o.wf = true ∧ o.imm = 0 := by simpa [Instr.wf] using wf
    exact decode_lop (brk := false) wf nofun (fun _ => imm) rfl (rowU1 rfl) rfl (by decide) rfl
  | loopi o => exact decode_lop (brk := false) (code := 0x3e) wf nofun nofun rfl (rowU3 rfl) rfl (by decide) rfl
  | brk o =>
    obtain ⟨⟨wf, imm⟩, len⟩ : (o.wf = true ∧ o.imm = 0) ∧ o.len = 0 := by simpa [Instr.wf] using wf
    exact decode_lop wf (fun _ => len) (fun _ => imm) rfl (rowU1 rfl) rfl (by decide) rfl
  | engShape o | engCopy o | engPlane o | engGather o | engScatter o | engFill o | engUnplane o =>
    obtain ⟨wf, cls⟩ : o.wf = true ∧ o.cls = false := by simpa [Instr.wf] using wf
    exact decode_eng wf cls rfl rfl
  | engSend o | engRecv o | engArm o | engCntrd o | engCntadd o | engReduce o =>
    obtain ⟨wf, cls⟩ := Bool.and_eq_true_iff.mp wf
    exact decode_eng wf cls rfl rfl
  | engCancel o | engWait o | engQuery o => exact decode_eng wf rfl rfl (by cases o.cls <;> rfl)
  | _ => exact absurd rfl nonempty

/-- Refutes O57: JMPI reads no b field, whose bits are ignored (R23, R54), so that words which set them decode to an instruction whose own words
leave them clear. -/
theorem not_decodedWordsEncodeBack : ¬ Obligations.DecodedWordsEncodeBack := by
  intro h
  obtain ⟨-, -, rest, same⟩ := h [0x99000005] (.jmpi {}) rfl
  have first : some (0x99000005 : W32) = some 0x99000000 := congrArg List.head? same
  exact absurd first (by decide)

end Sys2Proof
end


section
/-! No step ends in a fault or a refusal (R235, R445). -/
namespace Sys2Proof.Machine
open Sys2Proof

/-! ## What the decoder answers runs through the skeleton of program instructions -/

/-- At its issue by a resident group the instruction answers a next state. -/
def GoesOn (i : Instr) : Prop := ∀ s r w t g, AtIssue s r w t g → ∃ u, exec i s = .next u

/-- An instruction whose meaning is the skeleton of program instructions (R55) goes on. -/
theorem GoesOn.of {i j : Instr} {p : Plan} {body : Body} (f : State → Out) (he : ∀ s, exec i s = f s) (hf : f = program j p body) : GoesOn i :=
  fun s r w t g hat => by
    rw [he, hf]
    exact program_total hat

theorem GoesOn.of_v {i j : Instr} {o : Alu} {q : Op} (he : ∀ s, exec i s = vOp j o q s) : GoesOn i := .of (vOp j o q) he rfl
theorem GoesOn.of_u {i j : Instr} {o : Alu} {q : Op} (he : ∀ s, exec i s = uOp j o q s) : GoesOn i := .of (uOp j o q) he rfl
theorem GoesOn.of_y {i j : Instr} {o : Alu} {q : YOp} (he : ∀ s, exec i s = yOp j o q s) : GoesOn i := .of (yOp j o q) he rfl
theorem GoesOn.of_lane {i j : Instr} {o : Mode} {q : LaneOp} (he : ∀ s, exec i s = laneOp j o q s) : GoesOn i := .of (laneOp j o q) he rfl
theorem GoesOn.of_copy {i j : Instr} {f : CopyFn} {o : Eng} (he : ∀ s, exec i s = engCopy j f o s) : GoesOn i := .of (engCopy j f o) he rfl

theorem goesOn_of_map {α : Type} {e : Except DecodeErr α} {f : α → Instr} {i : Instr} (h : ∀ o, GoesOn (f o)) (decoded : e.map f = .ok i) :
    GoesOn i := by
  cases e with
  | error e => exact absurd decoded (by simp [Except.map])
  | ok o => exact Except.ok.inj decoded ▸ h o

theorem goesOn_of_bind {α : Type} {e : Except DecodeErr α} {f : α → Except DecodeErr Instr} {i : Instr} (h : ∀ o, f o = .ok i → GoesOn i)
    (decoded : e.bind f = .ok i) : GoesOn i := by
  cases e with
  | error e => exact absurd decoded (by simp [Except.bind])
  | ok o => exact h o decoded

theorem goesOn_of_ok {i j : Instr} (h : GoesOn i) (built : (.ok i : Except DecodeErr Instr) = .ok j) : GoesOn j := Except.ok.inj built ▸ h

/-! ### Rows with a choice of instruction -/

/-- An immediate instruction, in the set that its first word names (R44). -/
theorem GoesOn.of_set {i j k : Instr} {p q : Plan} {a b : Body} {u : Bool} (f : State → Out) (he : ∀ s, exec i s = f s)
    (hf : f = if u then program j p a else program k q b) : GoesOn i := by
  cases u
  · exact .of f he hf
  · exact .of f he hf

section
variable {r : Raw} {i : Instr}

theorem goesOn_bar (h : barOf r = .ok i) : GoesOn i := by
  refine goesOn_of_bind (fun o h => ?_) h
  split at h
  · exact goesOn_of_ok (.of (execBarSync o) (fun _ => rfl) rfl) h
  · split at h
    · exact goesOn_of_ok (.of (execBarArrive o) (fun _ => rfl) rfl) h
    · split at h
      · exact goesOn_of_ok (.of (execBarWait o) (fun _ => rfl) rfl) h
      · exact absurd h (by simp)

theorem goesOn_eng (h : engBuild r = .ok i) : GoesOn i := by
  refine goesOn_of_bind (fun o h => ?_) h
  split at h
  · exact absurd h (by simp)
  · split at h
    · exact goesOn_of_ok (.of (execEngShape o) (fun _ => rfl) rfl) h
    · exact goesOn_of_ok (.of_copy (fun _ => rfl)) h
    · exact goesOn_of_ok (.of_copy (fun _ => rfl)) h
    · exact goesOn_of_ok (.of_copy (fun _ => rfl)) h
    · exact goesOn_of_ok (.of_copy (fun _ => rfl)) h
    · exact goesOn_of_ok (.of_copy (fun _ => rfl)) h
    · exact goesOn_of_ok (.of_copy (fun _ => rfl)) h
    · exact goesOn_of_ok (.of (execEngSend o) (fun _ => rfl) rfl) h
    · exact goesOn_of_ok (.of (execEngRecv o) (fun _ => rfl) rfl) h
    · exact goesOn_of_ok (.of (execEngArm o) (fun _ => rfl) rfl) h
    · exact goesOn_of_ok (.of (execEngCntrd o) (fun _ => rfl) rfl) h
    · exact goesOn_of_ok (.of (execEngCntadd o) (fun _ => rfl) rfl) h
    · exact goesOn_of_ok (.of (execEngReduce o) (fun _ => rfl) rfl) h
    · exact goesOn_of_ok (.of (execEngCancel o) (fun _ => rfl) rfl) h
    · exact goesOn_of_ok (.of (execEngWait o) (fun _ => rfl) rfl) h
    · exact goesOn_of_ok (.of (execEngQuery o) (fun _ => rfl) rfl) h
    · exact absurd h (by simp)

/-! ### The tables -/

theorem goesOn_V00 (h : buildV00 r = .ok i) : GoesOn i := by
  unfold buildV00 at h
  split at h
  · exact goesOn_of_map (fun o => .of (execNop o) (fun _ => rfl) rfl) h
  · exact goesOn_of_map (fun _ => .of_v fun _ => rfl) h
  · exact goesOn_of_map (fun _ => .of_v fun _ => rfl) h
  · exact goesOn_of_map (fun _ => .of_v fun _ => rfl) h
  · exact goesOn_of_map (fun _ => .of_v fun _ => rfl) h
  · exact goesOn_of_map (fun _ => .of_v fun _ => rfl) h
  · exact goesOn_of_map (fun _ => .of_v fun _ => rfl) h
  · exact goesOn_of_map (fun _ => .of_v fun _ => rfl) h
  · exact goesOn_of_map (fun _ => .of_v fun _ => rfl) h
  · exact goesOn_of_map (fun _ => .of_v fun _ => rfl) h
  · exact goesOn_of_map (fun _ => .of_v fun _ => rfl) h
  · exact goesOn_of_map (fun _ => .of_v fun _ => rfl) h
  · exact goesOn_of_map (fun _ => .of_v fun _ => rfl) h
  · exact goesOn_of_map (fun _ => .of_v fun _ => rfl) h
  · exact goesOn_of_map (fun _ => .of_v fun _ => rfl) h
  · exact goesOn_of_map (fun _ => .of_v fun _ => rfl) h
  · exact absurd h (by simp)

theorem goesOn_V10 (h : buildV10 r = .ok i) : GoesOn i := by
  unfold buildV10 at h
  split at h
  · exact goesOn_of_map (fun _ => .of_v fun _ => rfl) h
  · exact goesOn_of_map (fun o => .of (execIcmp o) (fun _ => rfl) rfl) h
  · exact goesOn_of_bind (fun _ => goesOn_of_map (fun _ => .of_v fun _ => rfl)) h
  · exact goesOn_of_map (fun _ => .of_v fun _ => rfl) h
  · exact goesOn_of_map (fun _ => .of_v fun _ => rfl) h
  · exact goesOn_of_map (fun _ => .of_v fun _ => rfl) h
  · exact goesOn_of_map (fun _ => .of_v fun _ => rfl) h
  · exact goesOn_of_map (fun _ => .of_v fun _ => rfl) h
  · exact goesOn_of_map (fun o => .of (execFcmp o) (fun _ => rfl) rfl) h
  · exact goesOn_of_map (fun _ => .of_v fun _ => rfl) h
  · exact goesOn_of_map (fun _ => .of_v fun _ => rfl) h
  · exact goesOn_of_map (fun _ => .of_v fun _ => rfl) h
  · exact goesOn_of_map (fun _ => .of_v fun _ => rfl) h
  · exact goesOn_of_map (fun o => .of (execLd o) (fun _ => rfl) rfl) h
  · exact goesOn_of_map (fun o => .of (execSt o) (fun _ => rfl) rfl) h
  · exact goesOn_of_map (fun o => .of (execLds o) (fun _ => rfl) rfl) h
  · exact absurd h (by simp)

theorem goesOn_V20 (h : buildV20 r = .ok i) : GoesOn i := by
  unfold buildV20 at h
  split at h
  · exact goesOn_of_map (fun o => .of (execSts o) (fun _ => rfl) rfl) h
  · exact goesOn_of_map (fun o => .of (execLxch o) (fun _ => rfl) rfl) h
  · exact goesOn_of_map (fun _ => .of_lane fun _ => rfl) h
  · split at h
    · exact goesOn_of_map (fun o => .of (execBraNodiv o) (fun _ => rfl) rfl) h
    · exact goesOn_of_map (fun o => .of (execBra o) (fun _ => rfl) rfl) h
  · exact goesOn_of_map (fun o => .of (execMeet o) (fun _ => rfl) rfl) h
  · exact goesOn_of_map (fun o => .of (execExit o) (fun _ => rfl) rfl) h
  · exact goesOn_of_map (fun _ => .of_v fun _ => rfl) h
  · exact goesOn_of_map (fun _ => .of_v fun _ => rfl) h
  · exact goesOn_of_map (fun _ => .of_v fun _ => rfl) h
  · exact goesOn_of_map (fun _ => .of_v fun _ => rfl) h
  · exact goesOn_of_map (fun _ => .of_v fun _ => rfl) h
  · exact goesOn_of_map (fun _ => .of_v fun _ => rfl) h
  · exact goesOn_of_map (fun _ => .of_v fun _ => rfl) h
  · exact goesOn_of_map (fun o => .of (execLdv o) (fun _ => rfl) rfl) h
  · exact goesOn_of_map (fun o => .of (execStv o) (fun _ => rfl) rfl) h
  · exact goesOn_of_map (fun o => .of (execAtom o) (fun _ => rfl) rfl) h
  · exact absurd h (by simp)

theorem goesOn_V30 (h : buildV30 r = .ok i) : GoesOn i := by
  unfold buildV30 at h
  split at h
  · exact goesOn_of_map (fun o => .of (execPres o) (fun _ => rfl) rfl) h
  · exact goesOn_of_map (fun _ => .of_v fun _ => rfl) h
  · exact goesOn_of_map (fun _ => .of_v fun _ => rfl) h
  · exact goesOn_of_map (fun _ => .of_v fun _ => rfl) h
  · exact goesOn_of_map (fun _ => .of_v fun _ => rfl) h
  · exact goesOn_of_map (fun _ => .of_v fun _ => rfl) h
  · exact goesOn_of_map (fun _ => .of_v fun _ => rfl) h
  · exact goesOn_of_map (fun _ => .of_v fun _ => rfl) h
  · exact goesOn_of_map (fun _ => .of_v fun _ => rfl) h
  · exact goesOn_of_map (fun o => .of_set (execIaddi r.u o) (fun _ => rfl) rfl) h
  · exact goesOn_of_map (fun o => .of_set (execImuli r.u o) (fun _ => rfl) rfl) h
  · exact goesOn_of_map (fun o => .of_set (execAndi r.u o) (fun _ => rfl) rfl) h
  · exact goesOn_of_map (fun o => .of_set (execOri r.u o) (fun _ => rfl) rfl) h
  · exact goesOn_of_map (fun _ => .of_v fun _ => rfl) h
  · exact goesOn_of_map (fun _ => .of_v fun _ => rfl) h
  · exact absurd h (by simp)

theorem goesOn_V40 (h : buildV40 r = .ok i) : GoesOn i := by
  unfold buildV40 at h
  split at h
  · exact goesOn_of_map (fun _ => .of_v fun _ => rfl) h
  · exact goesOn_of_map (fun _ => .of_v fun _ => rfl) h
  · exact goesOn_of_map (fun _ => .of_v fun _ => rfl) h
  · exact goesOn_of_map (fun _ => .of_v fun _ => rfl) h
  · exact goesOn_of_map (fun _ => .of_v fun _ => rfl) h
  · exact goesOn_of_map (fun _ => .of_v fun _ => rfl) h
  · exact goesOn_of_map (fun _ => .of_v fun _ => rfl) h
  · exact goesOn_of_map (fun _ => .of_v fun _ => rfl) h
  · exact goesOn_of_map (fun o => .of (execCvt o) (fun _ => rfl) rfl) h
  · exact goesOn_of_map (fun o => .of (execQnt o) (fun _ => rfl) rfl) h
  · exact goesOn_of_map (fun o => .of (execDqn o) (fun _ => rfl) rfl) h
  · exact goesOn_of_map (fun o => .of (execAmax o) (fun _ => rfl) rfl) h
  · exact goesOn_of_map (fun o => .of (execCblk o) (fun _ => rfl) rfl) h
  · exact goesOn_of_map (fun _ => .of_v fun _ => rfl) h
  · exact goesOn_of_map (fun _ => .of_v fun _ => rfl) h
  · exact goesOn_of_map (fun _ => .of_v fun _ => rfl) h
  · exact absurd h (by simp)

theorem goesOn_V50 (h : buildV50 r = .ok i) : GoesOn i := by
  unfold buildV50 at h
  split at h
  · exact goesOn_of_map (fun o => .of (execAtoms o) (fun _ => rfl) rfl) h
  · exact goesOn_of_bind (fun _ => goesOn_of_map (fun o => .of (execRed o) (fun _ => rfl) rfl)) h
  · exact goesOn_of_map (fun _ => .of_lane fun _ => rfl) h
  · exact goesOn_of_map (fun _ => .of_lane fun _ => rfl) h
  · exact goesOn_of_map (fun o => .of (execRegroup o) (fun _ => rfl) rfl) h
  · exact goesOn_of_map (fun _ => .of_v fun _ => rfl) h
  · exact goesOn_of_map (fun o => .of (execYcvt o) (fun _ => rfl) rfl) h
  · exact goesOn_of_map (fun _ => .of_y fun _ => rfl) h
  · exact goesOn_of_map (fun _ => .of_y fun _ => rfl) h
  · exact goesOn_of_map (fun _ => .of_y fun _ => rfl) h
  · exact goesOn_of_map (fun _ => .of_y fun _ => rfl) h
  · exact goesOn_of_map (fun _ => .of_y fun _ => rfl) h
  · exact goesOn_of_map (fun _ => .of_y fun _ => rfl) h
  · exact goesOn_of_map (fun _ => .of_y fun _ => rfl) h
  · exact goesOn_of_map (fun _ => .of_y fun _ => rfl) h
  · exact goesOn_of_map (fun _ => .of_y fun _ => rfl) h
  · exact absurd h (by simp)

theorem goesOn_V60 (h : buildV60 r = .ok i) : GoesOn i := by
  unfold buildV60 at h
  split at h
  · exact goesOn_of_map (fun _ => .of_y fun _ => rfl) h
  · exact goesOn_of_map (fun _ => .of_y fun _ => rfl) h
  · exact goesOn_of_map (fun o => .of (execYpack o) (fun _ => rfl) rfl) h
  · exact goesOn_of_map (fun _ => .of_y fun _ => rfl) h
  · exact goesOn_of_map (fun _ => .of_y fun _ => rfl) h
  · exact goesOn_of_map (fun _ => .of_y fun _ => rfl) h
  · exact goesOn_of_map (fun _ => .of_y fun _ => rfl) h
  · exact goesOn_of_map (fun _ => .of_y fun _ => rfl) h
  · exact goesOn_of_map (fun o => .of (execMsign o) (fun _ => rfl) rfl) h
  · exact goesOn_of_map (fun o => .of (execMma o) (fun _ => rfl) rfl) h
  · exact goesOn_of_map (fun o => .of (execTld o) (fun _ => rfl) rfl) h
  · exact goesOn_of_map (fun o => .of (execTst o) (fun _ => rfl) rfl) h
  · exact goesOn_of_map (fun o => .of (execTzero o) (fun _ => rfl) rfl) h
  · exact goesOn_of_map (fun o => .of (execTcvt o) (fun _ => rfl) rfl) h
  · exact goesOn_of_map (fun o => .of (execTamax o) (fun _ => rfl) rfl) h
  · exact goesOn_of_map (fun o => .of (execMwait o) (fun _ => rfl) rfl) h
  · exact absurd h (by simp)

theorem goesOn_U00 (h : buildU00 r = .ok i) : GoesOn i := by
  unfold buildU00 at h
  split at h
  · exact goesOn_of_map (fun o => .of (execNopU o) (fun _ => rfl) rfl) h
  · exact goesOn_of_map (fun _ => .of_u fun _ => rfl) h
  · exact goesOn_of_map (fun _ => .of_u fun _ => rfl) h
  · exact goesOn_of_map (fun _ => .of_u fun _ => rfl) h
  · exact goesOn_of_map (fun _ => .of_u fun _ => rfl) h
  · exact goesOn_of_map (fun _ => .of_u fun _ => rfl) h
  · exact goesOn_of_map (fun _ => .of_u fun _ => rfl) h
  · exact goesOn_of_map (fun _ => .of_u fun _ => rfl) h
  · exact goesOn_of_map (fun _ => .of_u fun _ => rfl) h
  · exact goesOn_of_map (fun _ => .of_u fun _ => rfl) h
  · exact goesOn_of_map (fun _ => .of_u fun _ => rfl) h
  · exact goesOn_of_map (fun _ => .of_u fun _ => rfl) h
  · exact goesOn_of_map (fun _ => .of_u fun _ => rfl) h
  · exact goesOn_of_map (fun _ => .of_u fun _ => rfl) h
  · exact goesOn_of_map (fun _ => .of_u fun _ => rfl) h
  · exact goesOn_of_map (fun _ => .of_u fun _ => rfl) h
  · exact absurd h (by simp)

theorem goesOn_U10 (h : buildU10 r = .ok i) : GoesOn i := by
  unfold buildU10 at h
  split at h
  · exact goesOn_of_map (fun _ => .of_u fun _ => rfl) h
  · exact goesOn_of_map (fun o => .of (execIcmpU o) (fun _ => rfl) rfl) h
  · exact goesOn_of_bind (fun _ => goesOn_of_map (fun _ => .of_u fun _ => rfl)) h
  · exact goesOn_of_map (fun o => .of (execLdU o) (fun _ => rfl) rfl) h
  · exact goesOn_of_map (fun o => .of (execStU o) (fun _ => rfl) rfl) h
  · exact goesOn_of_bind (fun _ => goesOn_of_map (fun o => .of (execBru o) (fun _ => rfl) rfl)) h
  · exact goesOn_of_map (fun o => .of (execJmp o) (fun _ => rfl) rfl) h
  · exact goesOn_of_map (fun o => .of (execCall o) (fun _ => rfl) rfl) h
  · exact goesOn_of_map (fun o => .of (execRet o) (fun _ => rfl) rfl) h
  · exact goesOn_of_map (fun o => .of (execJmpi o) (fun _ => rfl) rfl) h
  · exact goesOn_of_map (fun o => .of (execLoop o) (fun _ => rfl) rfl) h
  · exact goesOn_of_map (fun o => .of (execBrk o) (fun _ => rfl) rfl) h
  · exact goesOn_of_map (fun o => .of (execYield o) (fun _ => rfl) rfl) h
  · exact goesOn_bar h
  · exact goesOn_of_map (fun o => .of (execGbar o) (fun _ => rfl) rfl) h
  · exact goesOn_of_map (fun o => .of (execStgw o) (fun _ => rfl) rfl) h
  · exact absurd h (by simp)

theorem goesOn_U20 (h : buildU20 r = .ok i) : GoesOn i := by
  unfold buildU20 at h
  split at h
  · exact goesOn_of_map (fun o => .of (execStga o) (fun _ => rfl) rfl) h
  · exact goesOn_of_map (fun o => .of (execFence o) (fun _ => rfl) rfl) h
  · exact goesOn_of_map (fun o => .of (execPart o) (fun _ => rfl) rfl) h
  · exact goesOn_of_map (fun o => .of (execCsrr o) (fun _ => rfl) rfl) h
  · exact goesOn_of_map (fun o => .of (execCsrw o) (fun _ => rfl) rfl) h
  · exact goesOn_of_map (fun o => .of (execClk o) (fun _ => rfl) rfl) h
  · exact goesOn_of_map (fun o => .of (execBurn o) (fun _ => rfl) rfl) h
  · exact goesOn_of_map (fun o => .of (execShunt o) (fun _ => rfl) rfl) h
  · exact goesOn_of_map (fun o => .of (execCurr o) (fun _ => rfl) rfl) h
  · exact goesOn_of_map (fun o => .of (execTrap o) (fun _ => rfl) rfl) h
  · exact goesOn_of_map (fun o => .of (execLaunch o) (fun _ => rfl) rfl) h
  · exact goesOn_of_map (fun o => .of (execGwait o) (fun _ => rfl) rfl) h
  · exact goesOn_of_map (fun o => .of (execWdog o) (fun _ => rfl) rfl) h
  · exact goesOn_of_map (fun o => .of (execFcnt o) (fun _ => rfl) rfl) h
  · exact goesOn_of_map (fun o => .of (execCbld o) (fun _ => rfl) rfl) h
  · exact goesOn_of_map (fun o => .of (execYring o) (fun _ => rfl) rfl) h
  · exact absurd h (by simp)

theorem goesOn_U30 (h : buildU30 r = .ok i) : GoesOn i := by
  unfold buildU30 at h
  split at h
  · exact goesOn_of_map (fun o => .of (execCtime o) (fun _ => rfl) rfl) h
  · exact goesOn_of_map (fun _ => .of_u fun _ => rfl) h
  · exact goesOn_of_map (fun _ => .of_u fun _ => rfl) h
  · exact goesOn_of_map (fun _ => .of_u fun _ => rfl) h
  · exact goesOn_of_map (fun _ => .of_u fun _ => rfl) h
  · exact goesOn_of_map (fun _ => .of_u fun _ => rfl) h
  · exact goesOn_of_map (fun o => .of (execExitU o) (fun _ => rfl) rfl) h
  · exact goesOn_eng h
  · exact goesOn_of_map (fun _ => .of_u fun _ => rfl) h
  · exact goesOn_of_map (fun o => .of_set (execIaddi r.u o) (fun _ => rfl) rfl) h
  · exact goesOn_of_map (fun o => .of_set (execImuli r.u o) (fun _ => rfl) rfl) h
  · exact goesOn_of_map (fun o => .of_set (execAndi r.u o) (fun _ => rfl) rfl) h
  · exact goesOn_of_map (fun o => .of_set (execOri r.u o) (fun _ => rfl) rfl) h
  · exact goesOn_of_map (fun o => .of (execIcmpi ⟨o, r.imm⟩) (fun _ => rfl) rfl) h
  · exact goesOn_of_map (fun o => .of (execLoopi o) (fun _ => rfl) rfl) h
  · exact absurd h (by simp)

theorem goesOn_U40 (h : buildU40 r = .ok i) : GoesOn i := by
  unfold buildU40 at h
  split at h
  · exact goesOn_of_map (fun _ => .of_u fun _ => rfl) h
  · exact goesOn_of_map (fun _ => .of_u fun _ => rfl) h
  · exact goesOn_of_map (fun _ => .of_u fun _ => rfl) h
  · exact goesOn_of_map (fun _ => .of_u fun _ => rfl) h
  · exact goesOn_of_map (fun _ => .of_u fun _ => rfl) h
  · exact goesOn_of_map (fun o => .of (execAtomU o) (fun _ => rfl) rfl) h
  · exact goesOn_of_map (fun o => .of (execPref o) (fun _ => rfl) rfl) h
  · exact goesOn_of_map (fun o => .of (execLockl o) (fun _ => rfl) rfl) h
  · exact goesOn_of_map (fun o => .of (execUnlockl o) (fun _ => rfl) rfl) h
  · exact goesOn_of_map (fun o => .of (execCinv o) (fun _ => rfl) rfl) h
  · exact goesOn_of_map (fun o => .of (execCwb o) (fun _ => rfl) rfl) h
  · exact goesOn_of_map (fun o => .of (execOpcl o) (fun _ => rfl) rfl) h
  · exact goesOn_of_map (fun o => .of (execMset o) (fun _ => rfl) rfl) h
  · exact goesOn_of_map (fun o => .of (execMstat o) (fun _ => rfl) rfl) h
  · exact goesOn_of_map (fun o => .of (execTagr o) (fun _ => rfl) rfl) h
  · exact goesOn_of_map (fun o => .of (execTagw o) (fun _ => rfl) rfl) h
  · exact absurd h (by simp)

theorem goesOn_V (h : buildV r = .ok i) : GoesOn i := by
  unfold buildV at h
  split at h
  · exact goesOn_V00 h
  · exact goesOn_V10 h
  · exact goesOn_V20 h
  · exact goesOn_V30 h
  · exact goesOn_V40 h
  · exact goesOn_V50 h
  · exact goesOn_V60 h
  · exact absurd h (by simp)

theorem goesOn_U (h : buildU r = .ok i) : GoesOn i := by
  unfold buildU at h
  split at h
  · exact goesOn_U00 h
  · exact goesOn_U10 h
  · exact goesOn_U20 h
  · exact goesOn_U30 h
  · exact goesOn_U40 h
  · exact absurd h (by simp)

theorem goesOn_build (h : build r = .ok i) : GoesOn i := by
  unfold build at h
  split at h
  · exact goesOn_U h
  · exact goesOn_V h

end

theorem goesOn_unassignedExtendedOpcode (u : Bool) (ws : RawWords) : GoesOn (.unassignedExtendedOpcode u ws) :=
  .of (execUnassignedExtendedOpcode u ws) (fun _ => rfl) rfl

/-- Whatever the decoder answers goes on where a resident group issues it. -/
theorem goesOn_decode {ws : List W32} {i : Instr} (h : decode ws = .ok i) : GoesOn i := by
  unfold decode at h
  split at h
  · split at h
    · exact goesOn_of_ok (goesOn_unassignedExtendedOpcode _ _) h
    · exact goesOn_of_bind (fun _ => goesOn_build) h
  · exact goesOn_of_bind (fun _ => goesOn_build) h

/-! ## The group of an issue stays resident until its instruction runs -/

theorem State.group?_isSome_updGroup {s : State} {q : GrpRef} (r : GrpRef) (f : Group → Group) (h : (s.group? q).isSome) :
    ((s.updGroup r f).group? q).isSome := by
  obtain ⟨⟨t, g⟩, hq⟩ := Option.isSome_iff_exists.mp h
  by_cases e : r = q
  · subst e
    rw [State.group?_updGroup_self f hq]
    rfl
  · have same := congrArg Option.isSome (s.group?_updGroup_ne r q f e)
    rwa [Option.isSome_map, Option.isSome_map, h] at same

theorem State.group?_isSome_foldl {α : Type} {q : GrpRef} {f : State → α → State} (keeps : ∀ u x, (u.group? q).isSome → ((f u x).group? q).isSome) :
    ∀ (l : List α) (s : State), (s.group? q).isSome → ((l.foldl f s).group? q).isSome
  | [], _, h => h
  | x :: l, s, h => group?_isSome_foldl keeps l (f s x) (keeps s x h)

theorem State.group?_isSome_dissolve {s : State} {q : GrpRef} (r : GrpRef) (h : (s.group? q).isSome) : ((s.dissolve r).group? q).isSome := by
  unfold State.dissolve
  split
  · exact h
  · exact group?_isSome_foldl (fun u k hu => State.group?_isSome_updGroup _ _ hu) _ _ h

theorem State.group?_of_teams {s u : State} (h : u.teams = s.teams) (r : GrpRef) : u.group? r = s.group? r := by
  unfold State.group?
  rw [h]

theorem State.fetchLine_teams {s u : State} {die line : Nat} (h : s.fetchLine die line = some u) : u.teams = s.teams := by
  unfold State.fetchLine at h
  split at h
  · rw [Option.some.inj h]
  · split at h
    · exact absurd h (by simp)
    · split at h
      · rw [← Option.some.inj h]
        exact (s.grant_touches ..).teams
      · exact absurd h (by simp)

theorem State.fetched_teams (die : Nat) (ws : List (List W64)) : ∀ (n : Nat) (s : State) (va : Nat), (s.fetched die ws va n).teams = s.teams
  | 0, _, _ => rfl
  | n + 1, s, va => by
    rw [State.fetched, fetched_teams die ws n]
    split
    · split
      · rfl
      · cases h : s.fetchLine die (lineOf _) with
        | none => rfl
        | some u => exact State.fetchLine_teams h
    · rfl

/-! ## An issue goes on -/

theorem mapNext_goesOn {f : State → State} {o : Out} (h : ∃ u, o = .next u) : ∃ u, mapNext f o = .next u := by
  obtain ⟨u, rfl⟩ := h
  exact ⟨f u, rfl⟩

theorem State.run_goesOn {s : State} {r : GrpRef} {i : Instr} {ws : List W32} (hi : GoesOn i) (h : (s.group? r).isSome) :
    ∃ u, s.run r i ws = .next u := by
  obtain ⟨⟨t, g⟩, hr⟩ := Option.isSome_iff_exists.mp h
  exact hi { s with cur := some (r, ws.getD 0 0, ws.getD 1 0) } r _ t g ⟨rfl, hr⟩

theorem State.issueAlone_goesOn {s : State} {r : GrpRef} {i : Instr} {ws : List W32} (t : Team) (g : Group) (hi : GoesOn i) (h : (s.group? r).isSome) :
    ∃ u, s.issueAlone r t g i ws = .next u := by
  refine mapNext_goesOn (State.run_goesOn hi ?_)
  rwa [State.group?_of_teams (State.fetched_teams ..)]

theorem State.issueOne_goesOn {s : State} {r : GrpRef} {i : Instr} {ws : List W32} (t : Team) (g : Group) (hi : GoesOn i) (h : (s.group? r).isSome) :
    ∃ u, s.issueOne r t g i ws = .next u := by
  have dissolved := State.issueAlone_goesOn (ws := ws) t g hi (State.group?_isSome_dissolve r h)
  unfold State.issueOne
  split
  · exact State.issueAlone_goesOn t g hi h
  · dsimp only
    split
    · exact dissolved
    · split
      · exact ⟨_, rfl⟩
      · exact dissolved

theorem State.nextInstr_goesOn {s : State} {t : Team} {g : Group} {i : Instr} {ws : List W32} (h : s.nextInstr t g = .instr i ws) : GoesOn i := by
  unfold State.nextInstr at h
  dsimp only at h
  split at h
  case h_1 decoded =>
    obtain ⟨rfl, -⟩ := NextInstr.instr.inj h
    exact goesOn_decode decoded
  case h_2 => split at h <;> exact absurd h (by simp)
  case h_3 => exact absurd h (by simp)

theorem State.issueAt_goesOn {s : State} {r : GrpRef} {second : Bool} {o : Out} (h : s.issueAt r second = some o) : ∃ u, o = .next u := by
  unfold State.issueAt at h
  split at h
  case h_1 => exact absurd h (by simp)
  case h_2 t g hr =>
    replace h := (Option.ite_none_left_eq_some.mp h).2
    split at h
    · obtain ⟨u, -, rfl⟩ := Option.map_eq_some_iff.mp h
      exact ⟨u, rfl⟩
    replace h := (Option.ite_none_left_eq_some.mp h).2
    split at h
    · exact absurd h (by simp)
    · exact ⟨_, (Option.some.inj h).symm⟩
    · exact ⟨_, (Option.some.inj h).symm⟩
    case h_4 i ws hn =>
      split at h
      · exact absurd h (by simp)
      · exact ⟨_, (Option.some.inj h).symm⟩
      · exact ⟨_, (Option.some.inj h).symm⟩
      · rw [← Option.some.inj h]
        exact mapNext_goesOn (State.issueOne_goesOn t g (State.nextInstr_goesOn hn) (by rw [hr]; rfl))

theorem State.issueIn_goesOn {s : State} {c : Nat} {x : GrpRef × Team × Group} {o : Out} (h : s.issueIn c x = some o) : ∃ u, o = .next u := by
  unfold State.issueIn at h
  dsimp only at h
  split at h
  · exact absurd h (by simp)
  · obtain ⟨o', ho, rfl⟩ := Option.map_eq_some_iff.mp h
    exact mapNext_goesOn (State.issueAt_goesOn ho)

theorem State.issueTurn_goesOn {s : State} {r : GrpRef} {o : Out} (h : s.issueTurn r = some o) : ∃ u, o = .next u := by
  unfold State.issueTurn at h
  split at h
  · exact absurd h (by simp)
  · obtain ⟨c, -, hc⟩ := List.exists_of_findSome?_eq_some h
    split at hc
    · exact State.issueIn_goesOn hc
    · exact absurd hc (by simp)

theorem issuesIn_goOn {s : State} {k : Nat} {x : Nat × Nat × Out} (h : x ∈ issuesIn s k) : ∃ u, x.2.2 = .next u := by
  unfold issuesIn at h
  obtain ⟨core, -, hx⟩ := List.mem_flatMap.mp h
  split at hx
  · obtain ⟨y, -, hy⟩ := List.mem_filterMap.mp hx
    obtain ⟨o, ho, rfl⟩ := Option.map_eq_some_iff.mp hy
    exact State.issueIn_goesOn ho
  · exact absurd hx (by simp)

theorem issueNow_goesOn {s : State} {o : Out} (h : issueNow s = some (.inl o)) : ∃ u, o = .next u := by
  unfold issueNow at h
  obtain ⟨k, -, hk⟩ := List.exists_of_findSome?_eq_some h
  dsimp only at hk
  split at hk
  case h_1 x hx =>
    rw [← Sum.inl.inj (Option.some.inj hk)]
    exact issuesIn_goOn (List.mem_of_find?_eq_some hx)
  case h_2 => split at hk <;> simp at hk

/-! ## A step goes on -/

theorem State.ownTurn_goesOn (s : State) : ∃ u, s.ownTurn = .next u := by
  unfold State.ownTurn
  split
  · exact ⟨_, rfl⟩
  · split
    case h_1 o ho => exact issueNow_goesOn ho
    case h_2 =>
      dsimp only
      split <;> exact ⟨_, rfl⟩

theorem State.failedTurn_goesOn (s : State) : ∃ u, s.failedTurn = .next u := by
  unfold State.failedTurn
  split
  · exact ⟨_, rfl⟩
  · dsimp only
    split <;> exact ⟨_, rfl⟩
  · exact ⟨_, rfl⟩

theorem State.takeTurn_goesOn {s : State} {t : Turn} {o : Out} (h : s.takeTurn t = some o) : ∃ u, o = .next u := by
  cases t with
  | issue r => exact State.issueTurn_goesOn h
  | event i =>
    obtain ⟨u, -, rfl⟩ := Option.map_eq_some_iff.mp h
    exact ⟨u, rfl⟩
  | merge r others =>
    obtain ⟨u, -, rfl⟩ := Option.map_eq_some_iff.mp h
    exact ⟨u, rfl⟩
  | meet team => exact ⟨_, (Option.some.inj h).symm⟩
  | messages l =>
    obtain ⟨u, -, rfl⟩ := Option.map_eq_some_iff.mp h
    exact ⟨u, rfl⟩
  | acknowledged ep => exact ⟨_, (Option.some.inj h).symm⟩

/-- Settles O58: the own schedule answers a next state at every turn, and what a group issues has decoded, so that it runs
through the skeleton of program instructions for a group that is resident (R235, R445). -/
theorem everyStepGoesOn : Obligations.EveryStepGoesOn := by
  unfold Obligations.EveryStepGoesOn Safe step
  intro s
  unfold State.advance
  split
  · exact s.failedTurn_goesOn
  · split
    · exact s.ownTurn_goesOn
    · split
      case h_1 ho => exact State.takeTurn_goesOn ho
      case h_2 => exact s.ownTurn_goesOn

end Sys2Proof.Machine
end


section
/-! The steps of a lane at its home and its caches, of a fault in flight, and of upkeep. -/
namespace Sys2Proof.Machine
open Sys2Proof

/-! ## Lanes -/

section
variable {s t : State} {l : LaneRef} {e : LogEntry} {x : LogLane}

/-- What a lane's data return answers is the step's next state. -/
theorem exec_loadDataReturn (go : s.laneGo l = some (e, x)) (h : s.dataReturns l e x = some t) : exec (.loadDataReturn l) s = .next t := by
  change execLoadDataReturn _ _ = _
  simp only [execLoadDataReturn, go, h]

theorem exec_storeComplete (go : s.laneGo l = some (e, x)) (h : s.storeAccepted l e x = some t) : exec (.storeComplete l) s = .next t := by
  change execStoreComplete _ _ = _
  simp only [execStoreComplete, go, h]

theorem exec_faultResponse (at_ : s.laneAt l = some (e, x)) (waiting : x.waiting = true) (h : s.responds l e x = some t) :
    exec (.faultResponse l) s = .next t := by
  change execFaultResponse _ _ = _
  simp [execFaultResponse, at_, waiting, h]

/-- Only stores are held in an interval's buffer (R431). -/
theorem State.heldStore_red (h : e.kind = .red) : s.heldStore e = false := by
  simp [State.heldStore, h]

/-- A held store waits for room in the buffer, whatever it is (R434). -/
theorem State.storeAccepted_held (held : s.heldStore e = true) (sent : x.stage = .sent) : s.storeAccepted l e x = some (s.holdLane l e x) := by
  simp [State.storeAccepted, held, sent]

end

/-- Settles O17: each step's enabling conditions are the clause's hypotheses, and what it answers is the state named. -/
theorem accessStepsComplete : Obligations.AccessStepsComplete := by
  unfold Obligations.AccessStepsComplete
  refine ⟨?_, ?_, ?_, ?_, ?_, ?_, ?_, ?_, ?_, ?_, ?_, ?_, ?_, ?_, ?_, ?_, ?_, ?_, ?_, ?_, ?_, ?_⟩
  · intro s l e x go sent free notRel notAcq notHeld needs
    change execPageWalk _ _ = _
    simp [execPageWalk, go, sent, free, notRel, notAcq, notHeld, needs]
  · intro s l e x go sent foreign late notHeld needs
    change execHomeSlotUnreachable (.lane l) s = _
    simp [execHomeSlotUnreachable, State.laneUnreachable, go, sent, foreign, late, notHeld, needs]
  · intro s r t g va ia here may late page
    change execHomeSlotUnreachable (.fetch r) s = _
    simp [execHomeSlotUnreachable, State.fetchUnreachable, here, may, late, page]
  · intro s op o ia w here may late place needs foreign
    have some_ : (s.opPlaces o).any (fun (ia, w) => s.opNeedsHome o ia w && s.foreign ia w) = true :=
      List.any_eq_true.mpr ⟨(ia, w), place, by simp [needs, foreign]⟩
    change execHomeSlotUnreachable (.engine op) s = _
    simp [execHomeSlotUnreachable, State.opUnreachable, here, may, late, -List.any_eq_true, some_]
  · intro s id r i ws since p here place foreign dead late
    have some_ : (rmaPlaces ws i).any (fun p => s.foreign p.1 i.writes && s.pageDead p.1 && decide (s.time ≥ since + 100000000)) = true :=
      List.any_eq_true.mpr ⟨p, place, by simp [foreign, dead, late]⟩
    change execHomeSlotUnreachable (.held id) s = _
    simp only [execHomeSlotUnreachable, State.heldUnreachable, here, some_, if_true]
  · intro s l e x go sent free rel notHeld
    change execReleaseAtHome _ _ = _
    simp [execReleaseAtHome, go, sent, free, rel, notHeld]
  · intro s l e x go sent free acq
    change execAcquireAtHome _ _ = _
    simp [execAcquireAtHome, go, sent, free, acq]
  · intro s l e x v bad t go kind stage
    exact exec_loadDataReturn go (by simp [State.dataReturns, kind, stage])
  · intro s l e x v bad u go kind stage near cached
    exact exec_loadDataReturn go (by simp [State.dataReturns, kind, stage, near, cached])
  · intro s l e x v bad t go kind stage acquired
    exact exec_loadDataReturn go (by simp [State.dataReturns, kind, stage, acquired])
  · intro s l e x v bad t go kind stage
    exact exec_loadDataReturn go (by simp [State.dataReturns, kind, stage])
  · intro s l e x v bad t go kind stage acquired
    exact exec_loadDataReturn go (by simp [State.dataReturns, kind, stage, acquired])
  · intro s l e x go kind stage near hits
    exact exec_loadDataReturn go (by simp [State.dataReturns, kind, stage, near, hits])
  · intro s l e x v bad t go kind stage
    exact exec_loadDataReturn go (by simp [State.dataReturns, kind, stage])
  · intro s l e x go kind stage near hits
    exact exec_loadDataReturn go (by simp [State.dataReturns, kind, stage, near, hits])
  · intro s l e x go kind stage notHeld near hits
    exact exec_storeComplete go (by simp [State.storeAccepted, kind, stage, notHeld, near, hits])
  · intro s l e x v bad t go kind stage notHeld
    obtain kind | kind := kind <;> exact exec_storeComplete go (by simp [State.storeAccepted, kind, stage, notHeld])
  · intro s l e x go kind stage near hits
    exact exec_storeComplete go (by simp [State.storeAccepted, State.heldStore_red kind, kind, stage, near, hits])
  · intro s l e x v t go kind stage
    exact exec_storeComplete go (by simp [State.storeAccepted, State.heldStore_red kind, kind, stage])
  · intro s l e x v t go kind stage acquired
    exact exec_storeComplete go (by simp [State.storeAccepted, State.heldStore_red kind, kind, stage, acquired])
  · intro s l e x go kind stage notHeld near hits
    exact exec_storeComplete go (by simp [State.storeAccepted, kind, stage, notHeld, near, hits])
  · intro s l e x go held sent
    exact exec_storeComplete go (State.storeAccepted_held held sent)

/-! ## Faults in flight -/

/-- Settles O18: the steps of a fault, each on the record or the lane that it takes. -/
theorem faultStepsComplete : Obligations.FaultStepsComplete := by
  unfold Obligations.FaultStepsComplete
  refine ⟨?_, ?_, ?_, ?_, ?_, ?_, ?_, ?_, fun s word => rfl, ?_⟩
  · intro s l e x c at_ waiting stage
    exact exec_faultResponse at_ waiting (by simp [State.responds, stage])
  · intro s l e x lv wp peer t at_ waiting stage few reported
    have again : ¬ (x.replay ≠ 0 ∧ e.replays ≥ 15) := by omega
    exact exec_faultResponse at_ waiting (by simp only [State.responds, stage, if_neg again, reported])
  · intro s l e x lv wp peer at_ waiting stage again many
    exact exec_faultResponse at_ waiting (by simp only [State.responds, stage, if_pos (And.intro again many)])
  · intro s r t g va ia lv u here may absent walk parked
    change execFetchFault _ _ = _
    simp [execFetchFault, here, may, absent, State.fetchFaults, walk, parked]
  · intro s r t g va ia c here may absent walk
    change execFetchFault _ _ = _
    simp [execFetchFault, here, may, absent, State.fetchFaults, walk]
  · intro s o id r here fresh taken late
    change execMergeWindowClose _ _ _ = _
    simp [execMergeWindowClose, here, fresh, taken, late]
  · intro s o id r here fresh refused late
    change execFaultQueueRetry _ _ _ = _
    simp [execFaultQueueRetry, here, fresh, refused, late]
  · intro s o id r first here free
    change execFirmwareFaultService _ = _
    simp [execFirmwareFaultService, first, here, free]
  · intro s o id r t here posted late
    change execFaultServiceTimeout _ _ _ = _
    simp only [execFaultServiceTimeout, here, posted, if_pos late]

/-! ## Upkeep -/

/-- Settles O19: pulls, age bounds, scrub and interrupts where they are due. -/
theorem upkeepStepsComplete : Obligations.UpkeepStepsComplete := by
  unfold Obligations.UpkeepStepsComplete
  refine ⟨?_, ?_, ?_, fun s p f => rfl, ?_, ?_⟩
  · intro s die e asked
    change execPull _ _ _ = _
    simp [execPull, asked]
  · intro s line die q here asks late
    change execHomeEpochAgePull _ _ _ = _
    simp only [execHomeEpochAgePull, here, asks, decide_eq_true late, Bool.and_self, if_true]
  · intro s die line dirty works
    change execDirtyByteDeadline _ _ _ = _
    simp only [execDirtyByteDeadline, bne_iff_ne.mpr dirty, works, Bool.not_false, Bool.and_self, if_true]
  · intro s launch counter due
    change execCounterIrq _ _ _ = _
    simp only [execCounterIrq, due, if_true]
  · intro s unit inRange due
    change execErrorIrq _ _ = _
    simp only [execErrorIrq, if_pos (And.intro inRange due)]

end Sys2Proof.Machine
end


section
/-! The steps of the matrix unit and the engines, and a group's own steps. -/
namespace Sys2Proof.Machine
open Sys2Proof

/-! ## The matrix unit and the engines -/

/-- A SEND or a REDUCE whose chunk has left ends, with OVERRUN where its answer says so (R167, R168). -/
theorem exec_engineOperationEnd_sent {s : State} {op : Nat} {o : EngOp} (overrun : Bool) (here : s.ops.find? op = some o)
    (sends : o.work.sends = true) (left : o.landed = 1) : exec (.engineOperationEnd op overrun) s =
      .next ((s.updOp op fun q => { q with compl := s.time }).endOp op (if overrun then stOverrun else stDone)) := by
  change execEngineOperationEnd _ _ _ = _
  cases work : o.work <;> simp_all [EngWork.sends, execEngineOperationEnd]

/-- An operation that copies ends where all of it is written and its writes are through (R160). -/
theorem exec_engineOperationEnd_copied {s : State} {op : Nat} {o : EngOp} (here : s.ops.find? op = some o) (copies : o.work.copies = true)
    (whole : o.total ≤ o.progress) (written : o.compl < s.time) (through : s.through o.die o.mark = true) (began : o.total = 0 → o.after < s.time) :
    exec (.engineOperationEnd op false) s = .next (s.endOp op stDone) := by
  change execEngineOperationEnd _ _ _ = _
  cases work : o.work <;> simp_all [EngWork.copies, execEngineOperationEnd]

theorem exec_noRecvTimeout {s : State} {op : Nat} {o : EngOp} (here : s.ops.find? op = some o) (sends : o.work.sends = true) (left : o.landed = 1)
    (late : s.time ≥ o.compl + 2 ^ 27) : exec (.noRecvTimeout op) s = .next (s.endOp op stNoRecv) := by
  change execNoRecvTimeout _ _ = _
  simp only [execNoRecvTimeout, here, if_pos (And.intro left late)]
  cases work : o.work <;> simp_all [EngWork.sends]

theorem exec_peerUnreachable {s : State} {op : Nat} {o : EngOp} (here : s.ops.find? op = some o) (sends : o.work.sends = true) (left : o.landed = 1)
    (late : s.time ≥ o.compl + 100000000) : exec (.peerUnreachable op) s = .next (s.endOp op stUnreachable) := by
  change execPeerUnreachable _ _ = _
  simp only [execPeerUnreachable, here, if_pos (And.intro left late)]
  cases work : o.work <;> simp_all [EngWork.sends]

/-- Settles O20: each clause is one branch of its step. -/
theorem unitStepsComplete : Obligations.UnitStepsComplete := by
  unfold Obligations.UnitStepsComplete
  refine ⟨?_, ?_, ?_, ?_, ?_, ?_, ?_, ?_, ?_, ?_⟩
  · intro s core uid p t here done
    change execTileOperationComplete _ _ _ = _
    simp only [execTileOperationComplete, here, done]
  · intro s core p t here done
    change execMmaComplete _ _ = _
    simp only [execMmaComplete, here, done]
  · intro s core a b mine other launch signed
    change execMateAgreement _ _ = _
    simp [execMateAgreement, mine, other, launch, signed]
  · intro s core t g u mine late alone
    have unsigned : ((s.core (mateOf core)).mate.any fun m => s.launchOf m.2.1 == s.launchOf g) = false := by
      cases other : (s.core (mateOf core)).mate with
      | none => rfl
      | some m => exact beq_false_of_ne (alone m other)
    change ∃ _, execPairTimeout _ _ = _
    simp only [execPairTimeout, mine, unsigned, Bool.or_false, decide_eq_true_eq, if_neg (Nat.not_lt.mpr late)]
    exact ⟨_, rfl⟩
  · intro s op o t here runs next
    change execEngineWriteProgress _ _ = _
    simp [execEngineWriteProgress, here, runs, next]
  · intro s op o here copies whole written through began
    exact exec_engineOperationEnd_copied here copies whole written through began
  · intro s op o overrun here sends left
    exact exec_engineOperationEnd_sent overrun here sends left
  · intro s c id o x slot cnt ctx recv here work goes parks after
    have posted : ((s.contexts.find? c.ctx).bind fun x => (x.recv.get none c.slot).bind fun id => (s.ops.find? id).map fun o => (id, o)) =
        some (id, o) := by simp [ctx, recv, here]
    have mayLand : ¬ (o.mode = .suspended ∨ (o.mode = .halted ∧ (!s.mayPark id o) = true)) := by
      rintro (h | ⟨h, hp⟩)
      · exact goes h
      · simp [parks h] at hp
    have due : (!(decide (o.after < s.time) || decide (o.after = 0))) = false := by
      rcases after with h | h <;> simp [h]
    refine ⟨fun fresh fits => ?_, fun fresh tooLong => ?_, fun t here' more lands => ?_, fun here' whole written => ?_⟩
    · change execChunkLanding _ _ = _
      simp only [execChunkLanding, posted, work, if_neg mayLand, fresh, if_neg (Nat.not_lt.mpr fits)]
    · change execChunkLanding _ _ = _
      simp only [execChunkLanding, posted, work, if_neg mayLand, fresh, if_pos tooLong]
    · change execChunkLanding _ _ = _
      simp only [execChunkLanding, posted, work, if_neg mayLand, here', bne_self_eq_false, due, Bool.false_eq_true, if_false, if_pos more, lands]
    · change execChunkLanding _ _ = _
      simp only [execChunkLanding, posted, work, if_neg mayLand, here', bne_self_eq_false, due, Bool.false_eq_true, if_false,
        if_neg (Nat.not_lt.mpr whole), if_neg (Nat.not_le.mpr written)]
  · intro s op o here sends left late
    exact exec_noRecvTimeout here sends left late
  · intro s op o here sends left late
    exact exec_peerUnreachable here sends left late

/-! ## Groups -/

/-- A switch at the issue limit of a group without a mask due turns its latches and its current set over (R239). -/
theorem State.switchPoint_rotates {s : State} {r : GrpRef} {t : Team} {g : Group} (here : s.group? r = some (t, g)) (ready : g.mode = .ready)
    (undue : g.switchDue = none) (free : s.nextReadsLatch t g = some false) : s.switchPoint r none = s.setGroup r g.rotate := by
  have same : ({ g with switchDue := none } : Group) = g := by rw [← undue]
  have stands : (g.mode != .ready) = false := by simp [ready]
  simp only [State.switchPoint, here, stands, Bool.false_eq_true, if_false, free, same, undue]
  rfl

/-- A group switches where the core may: 32 issues or a switch point that is due, and no latch read next unless one is due (R239). -/
theorem exec_issueLimitSwitch {s : State} {r : GrpRef} {t : Team} {g : Group} {l : Bool} (here : s.group? r = some (t, g))
    (due : 32 ≤ g.run ∨ g.switchDue.isSome) (stands : g.mode = .ready ∨ (g.mode = .formed ∧ g.formed ≠ [])) (runs : t.mode = .running)
    (noLoop : g.loopDue = false) (reads : s.nextReadsLatch t g = some l) (may : l = false ∨ g.switchDue.isSome) :
    exec (.issueLimitSwitch r) s = .next (if g.formed.isEmpty then s.switchPoint r none else s.switchFormed r t g) := by
  have hdue : (decide (g.run < 32) && g.switchDue.isNone) = false := by
    rcases due with h | h
    · simp [Nat.not_lt.mpr h]
    · simp [Option.isNone_eq_false_iff.mpr h]
  have hstands : (g.mode == .ready || (g.mode == .formed && !g.formed.isEmpty)) = true := by
    rcases stands with h | ⟨h, hf⟩ <;> simp_all
  have hmay : (l && g.switchDue.isNone) = false := by
    rcases may with h | h
    · simp [h]
    · simp [Option.isNone_eq_false_iff.mpr h]
  change execIssueLimitSwitch _ _ = _
  simp only [execIssueLimitSwitch, here, hdue, hstands, noLoop, runs, reads, hmay]
  rfl

/-- Settles O21: each clause is one branch of its step; a switch of a group with nothing due is a rotation. -/
theorem groupStepsComplete : Obligations.GroupStepsComplete := by
  unfold Obligations.GroupStepsComplete
  refine ⟨?_, ?_, ?_, ?_, ?_, ?_, ?_, ?_, ?_, ?_⟩
  · intro s r t g v rest u here runs due ready levels again last ends
    have goes : (!g.loopDue || g.mode != .ready || decide (t.mode = .stopped)) = false := by simp [due, ready, runs]
    change execLoopBack _ _ = _
    simp only [execLoopBack, here, goes, levels]
    by_cases more : g.lc.get 0 v.ctr > 1
    · simp [more, again more]
    · cases inner : (g.close v rest).loopDue with
      | true => simp [more, last (by omega) inner]
      | false => simp [more, ends (by omega) inner]
  · intro s r t g here many ready alone undue runs noLoop reads
    rw [exec_issueLimitSwitch here (.inl many) (.inl ready) runs noLoop reads (.inl rfl), ← State.switchPoint_rotates here ready undue reads]
    simp [alone]
  · intro s r t g m here ready alone due runs noLoop reads
    obtain ⟨l, hl⟩ := Option.ne_none_iff_exists'.mp reads
    have isDue : g.switchDue.isSome = true := by rw [due]; rfl
    rw [exec_issueLimitSwitch here (.inr isDue) (.inl ready) runs noLoop hl (.inr isDue)]
    simp [alone]
  · intro s r t g here many formed members undue runs noLoop reads
    rw [exec_issueLimitSwitch here (.inl many) (.inr ⟨formed, members⟩) runs noLoop reads (.inl rfl)]
    simp [members]
  · intro s r t g here ready plain long
    change execGroupBoost _ _ = _
    simp [execGroupBoost, here, ready, plain, Nat.not_lt.mpr long]
  · intro s gang b gg here whole low all
    change execGbarComplete _ _ _ = _
    simp [execGbarComplete, here, whole, Nat.not_le.mpr low, all]
  · intro s r t g h here wait passed stands
    change execCompletionTimePassed (.group r) s = _
    simp [execCompletionTimePassed, here, wait, passed, stands]
  · intro s r t g die mark h here wait passed through stands
    change execCompletionTimePassed (.group r) s = _
    simp [execCompletionTimePassed, here, wait, passed, through, stands]
  · intro s n m h here ends passed
    change execCompletionTimePassed (.memOp n) s = _
    simp only [execCompletionTimePassed, State.msPassed, here, ends, if_pos passed]
  · intro s team t slot ws here runs expired
    change execBarrierTimeout _ _ = _
    simp only [execBarrierTimeout, here, if_neg runs, expired]

end Sys2Proof.Machine
end


section
/-! The steps of teams, grids and graphs, of the power controller, and failures. -/
namespace Sys2Proof.Machine
open Sys2Proof

/-! ## Teams, grids and graphs -/

/-- A fence that has passed has been made (R110). -/
theorem State.saveFenced_isNone {s : State} {t : Team} (h : s.saveFenced t = true) : t.saveFence.isNone = false := by
  unfold State.saveFenced at h
  cases fence : t.saveFence with
  | none => simp [fence] at h
  | some f => rfl

section
variable {s : State} {team : Nat} {t : Team} (here : s.teams.find? team = some t) (ready : s.saveReady team t = true)
include here ready

/-- The first half of a save: those of the team and its companions that have not fenced do (R110, log 12). -/
theorem exec_teamSaveEnd_fences (all : ∀ p ∈ s.saveSet team t, s.saveReady p.1 p.2 = true) (unfenced : ∃ p ∈ s.saveSet team t, p.2.saveFence = none) :
    exec (.teamSaveEnd team) s = .next ((s.saveSet team t).foldl (fun (u : State) p => if p.2.saveFence.isNone then u.fenceSave p.1 p.2 else u) s) := by
  have hall : ((s.saveSet team t).all fun p => s.saveReady p.1 p.2) = true := List.all_eq_true.mpr all
  have hany : ((s.saveSet team t).any fun p => p.2.saveFence.isNone) = true := by
    obtain ⟨p, hp, none_⟩ := unfenced
    exact List.any_eq_true.mpr ⟨p, hp, by simp [none_]⟩
  change execTeamSaveEnd _ _ = _
  simp only [execTeamSaveEnd, here, ready, hall, hany, Bool.not_true, Bool.or_self, Bool.false_eq_true, if_false, if_true]

/-- The second half: every fence has passed, and the team and its companions are saved. -/
theorem exec_teamSaveEnd_saves (all : ∀ p ∈ s.saveSet team t, s.saveReady p.1 p.2 = true ∧ s.saveFenced p.2 = true) :
    exec (.teamSaveEnd team) s = .next ((s.saveSet team t).reverse.foldl (fun (u : State) p => u.saveTeam p.1 p.2) s) := by
  have hall : ((s.saveSet team t).all fun p => s.saveReady p.1 p.2) = true := List.all_eq_true.mpr fun p hp => (all p hp).1
  have hfenced : ((s.saveSet team t).all fun p => s.saveFenced p.2) = true := List.all_eq_true.mpr fun p hp => (all p hp).2
  have hany : ((s.saveSet team t).any fun p => p.2.saveFence.isNone) = false := by
    rw [List.any_eq_false]
    intro p hp
    simp [State.saveFenced_isNone (all p hp).2]
  change execTeamSaveEnd _ _ = _
  simp only [execTeamSaveEnd, here, ready, hall, hany, hfenced, Bool.not_true, Bool.or_self, Bool.false_eq_true, if_false, if_true]

end

/-- Settles O22: each clause is one branch of its step. -/
theorem teamStepsComplete : Obligations.TeamStepsComplete := by
  unfold Obligations.TeamStepsComplete
  refine ⟨?_, ?_, ?_, ?_, ?_, ?_, ?_, ?_, ?_, ?_, ?_, ?_, ?_, ?_⟩
  · intro s die slot u grant low
    change execDispatchRequest _ _ = _
    simp only [execDispatchRequest, grant, if_pos low]
  · intro s die slot u grant last
    change execDispatchRequest _ _ = _
    simp only [execDispatchRequest, grant, if_pos last]
  · intro s team core slot u grant core_
    change execTeamRestore _ _ _ = _
    simp only [execTeamRestore, grant, core_, and_self, if_true]
  · intro s team t here placed still
    change execTeamStart _ _ = _
    simp [execTeamStart, here, placed, still]
  · intro s team t here stands retires
    change execTeamRetire _ _ = _
    simp [execTeamRetire, here, stands, retires]
  · intro s team t here stopped idle
    change execTeamRetire _ _ = _
    simp [execTeamRetire, here, stopped, idle]
  · intro s launch l here ends fresh
    change execGridRetire _ _ = _
    simp [execGridRetire, here, ends, fresh]
  · intro s launch l t mark here ends releasing released
    change execGridRetire _ _ = _
    simp [execGridRetire, here, ends, releasing, released]
  · intro s id g i here runs free next
    have due : (if g.running && !s.nodeIsHeld id then g.next else none) = some i := by simp [runs, free, next]
    have fires : exec (.graphNodeFire id) s = execGraphNodeFire id s := rfl
    refine ⟨fun u bs read => ?_, fun u read => ?_, fun ia why read => ?_, fun c read => ?_⟩ <;>
      simp only [fires, execGraphNodeFire, here, due, read]
  · intro s team t since here stopping late stands
    change execForcedStop _ _ = _
    simp only [execForcedStop, here, stopping, stands, Bool.or_false, decide_eq_true_eq, if_neg (Nat.not_lt.mpr late)]
  · intro s team t here ready all unfenced
    exact exec_teamSaveEnd_fences here ready all unfenced
  · intro s team t here ready all
    exact exec_teamSaveEnd_saves here ready all
  · intro s launch l core ids here may found
    change execPreemptionRequest _ _ = _
    simp [execPreemptionRequest, here, may, found]
  · intro s team mate first ta tb x y k a twin b ia ib aStands bStands boundary
    change execPairedSignature _ _ = _
    simp [execPairedSignature, a, twin, b, ia, ib, aStands, bStands, boundary]

/-! ## The power controller -/

/-- Settles O23: each clause is one branch of its step. -/
theorem powerStepsComplete : Obligations.PowerStepsComplete := by
  unfold Obligations.PowerStepsComplete
  refine ⟨?_, ?_, ?_, ?_, ?_, ?_, ?_⟩
  · intro s cl low dawn still late
    change execEstimatorWindowEnd _ _ = _
    simp [execEstimatorWindowEnd, Nat.not_le.mpr low, dawn, still, Nat.not_lt.mpr late]
  · intro s cl t cls changing late
    change execClassChangeEnd _ _ = _
    simp only [execClassChangeEnd, changing, if_neg (Nat.not_lt.mpr late)]
  · intro s m dawn late
    change execPowerIntervalEnd _ _ = _
    simp [execPowerIntervalEnd, dawn, Nat.not_le.mpr late]
  · intro s cl temps dawn low hot
    change execHotSpotMigration _ _ _ = _
    simp only [execHotSpotMigration, dawn, bne_self_eq_false, Bool.false_or, Bool.or_eq_true, decide_eq_true_eq,
      if_neg (not_or.mpr ⟨Nat.not_le.mpr low, Nat.not_le.mpr hot⟩)]
  · intro s cl n from_ alone
    change execHotSpotStepUp _ _ = _
    simp [execHotSpotStepUp, from_, alone]
  · intro s peer grp number time saved dawn atLeast atMost member
    have least : grp ≠ 0 := by omega
    have most : ¬ grp > 7 := by omega
    change execArrivalReport _ _ _ _ _ _ = _
    simp only [execArrivalReport, dawn, bne_self_eq_false, least, most, member, decide_false, Bool.not_true, Bool.or_self, Bool.false_eq_true, if_false]
  · intro s watts dawn
    change execBudgetMessage _ _ = _
    simp [execBudgetMessage, dawn]

/-! ## Failures -/

/-- Settles O24: a unit that is there, and has not failed, fails. -/
theorem failureStepsComplete : Obligations.FailureStepsComplete := by
  unfold Obligations.FailureStepsComplete
  refine ⟨?_, ?_, fun s => rfl, ?_, ?_⟩
  · intro s die low works
    change execDieFailure _ _ = _
    simp [execDieFailure, Nat.not_le.mpr low, works]
  · intro s home low works
    change execMemorySideDieFailure _ _ = _
    simp [execMemorySideDieFailure, Nat.not_le.mpr low, works]
  · intro s core low works
    change execCoreFailure _ _ = _
    simp [execCoreFailure, Nat.not_le.mpr low, works]
  · intro s port low
    change execPortRetirement _ _ = _
    simp only [execPortRetirement, if_neg (Nat.not_le.mpr low)]

end Sys2Proof.Machine
end


section
/-! The steps of dawn, of package time and of the links. -/
namespace Sys2Proof.Machine
open Sys2Proof

/-- Settles O25: each clause is one branch of its step. -/
theorem linkStepsComplete : Obligations.LinkStepsComplete := by
  unfold Obligations.LinkStepsComplete
  refine ⟨fun s inp => rfl, ?_, ?_, ?_, ?_, ?_, ?_, ?_, ?_⟩
  · intro s t wait dawn late
    change execDawnPtpWaitExpiry _ = _
    simp only [execDawnPtpWaitExpiry, wait, if_pos (And.intro dawn late)]
  · intro s offset begun works
    change execPtpSync _ _ = _
    simp only [execPtpSync, if_neg (not_or.mpr ⟨Nat.not_lt.mpr begun, works⟩)]
  · intro s locked late
    change execPtpHoldover _ = _
    simp only [execPtpHoldover, if_pos (And.intro locked late)]
  · intro s ready late
    change execKeepalive _ = _
    simp only [execKeepalive, if_pos (And.intro ready late)]
  · intro s ep ready ctl alive late
    have due : (!s.io.lost.contains ep) = true := by rw [alive]; rfl
    change execLinkLoss _ _ = _
    simp only [execLinkLoss, if_pos (And.intro ready (And.intro ctl (And.intro due late)))]
  · intro s ep mode works
    change execConnectionRequest _ _ _ = _
    simp [execConnectionRequest, works]
  · intro s ctx r old rest acks gone
    change execWindowAck _ _ = _
    simp only [execWindowAck, acks, gone, Bool.false_eq_true, if_false]
  · intro s a ready works
    change execPeerAccessArrival _ _ = _
    simp [execPeerAccessArrival, ready, works]

/-! ## Dawn -/

section
variable {s : State} {inp : DawnInput}

/-- Step 2 notes the next image's digest, and fails where its signature is not that of the key (R457). -/
theorem State.dawnChecks_image {x : Sys2Proof.Image} (h : (dawnImages inp)[s.io.log.length]? = some x) :
    (s.dawnChecks inp).io.log = s.io.log ++ [imageEntry x s.io.log.length] ∧
      (s.dawnChecks inp).io.dawn = if verifies firmwareKey x.bytes x.signature then s.io.dawn else dawnFailed := by
  simp only [State.dawnChecks, h]
  split <;> exact ⟨rfl, rfl⟩

/-- After the four images step 3 follows. -/
theorem State.dawnChecks_done (h : 4 ≤ s.io.log.length) : s.dawnChecks inp = s.dawnAt 3 := by
  have none_ : (dawnImages inp)[s.io.log.length]? = none := List.getElem?_eq_none h
  simp only [State.dawnChecks, none_]

theorem State.dawnBuilds_dead (h : ∀ c < 512, c ∈ inp.deadColumns) : (s.dawnBuilds inp).io.dawn = dawnFailed := by
  have all : ((List.range 512).all fun c => inp.deadColumns.contains c) = true := by
    rw [List.all_eq_true]
    intro c hc
    exact List.contains_iff_mem.mpr (h c (List.mem_range.mp hc))
  rw [State.dawnBuilds, if_pos all]
  rfl

theorem State.dawnBuilds_alive {c : Nat} (low : c < 512) (works : c ∉ inp.deadColumns) : (s.dawnBuilds inp).io.dawn = 5 := by
  have some_ : ¬ ((List.range 512).all fun c => inp.deadColumns.contains c) = true := by
    rw [List.all_eq_true]
    exact fun all => works (List.contains_iff_mem.mp (all c (List.mem_range.mpr low)))
  rw [State.dawnBuilds, if_neg some_]

/-- An update of some homes reaches those of the list, each once, and no other. -/
theorem State.home_foldl_updHome (f : Nat → Home → Home) (h : Nat) : ∀ (l : List Nat) (s : State), l.Nodup →
    (l.foldl (fun (u : State) k => u.updHome k (f k)) s).home h = if h ∈ l then f h (s.home h) else s.home h
  | [], s, _ => rfl
  | k :: l, s, nodup => by
    obtain ⟨notIn, rest⟩ := List.nodup_cons.mp nodup
    rw [List.foldl_cons, home_foldl_updHome f h l _ rest]
    by_cases e : h = k
    · subst e
      simp [notIn, State.updHome, State.home_setHome]
    · simp [e, State.updHome, State.home_setHome, Ne.symm e]

/-- Step 5 gives each home the whole pages of its stack (R79). -/
theorem State.dawnTrains_cap {h : Nat} (low : h < 8) : ((s.dawnTrains inp).home h).cap = stackCap (inp.cap.getD h 0) := by
  have member : h ∈ allHomes := by
    unfold allHomes
    simp only [List.mem_cons, List.not_mem_nil]
    omega
  have trained := State.home_foldl_updHome (fun h x => { x with cap := stackCap (inp.cap.getD h 0) }) h allHomes s (by decide)
  rw [if_pos member] at trained
  exact congrArg Home.cap trained

end

/-- Settles O26: each step of dawn by its own facts. -/
theorem dawnGoesStepByStep : Obligations.DawnGoesStepByStep := by
  unfold Obligations.DawnGoesStepByStep
  intro s inp under
  refine ⟨?_, ?_, ?_, ?_, ?_, ?_, ?_, ?_, ?_, ?_⟩
  · intro dawn silent
    refine ⟨s.dawnStarts inp, by simp only [State.dawnStep, under, dawn], ?_⟩
    simp [State.dawnStarts, silent, State.updIo]
  · intro dawn speaks
    simp [State.dawnStep, under, dawn, State.dawnStarts, speaks]
  · intro x dawn next
    obtain ⟨log, goes⟩ := State.dawnChecks_image next
    exact ⟨s.dawnChecks inp, by simp only [State.dawnStep, under, dawn], log, by rw [goes, dawn]; rfl⟩
  · intro dawn done
    simp only [State.dawnStep, under, dawn, State.dawnChecks_done done]
  · intro dawn
    simp only [State.dawnStep, under, dawn]
  · intro dawn
    exact ⟨s.dawnBuilds inp, by simp only [State.dawnStep, under, dawn], State.dawnBuilds_dead, fun c low works => State.dawnBuilds_alive low works⟩
  · intro dawn
    exact ⟨s.dawnTrains inp, by simp only [State.dawnStep, under, dawn], rfl, fun h low => State.dawnTrains_cap low⟩
  · intro dawn idle
    refine ⟨s.dawnPorts inp, by simp [State.dawnStep, under, dawn, idle], ?_⟩
    cases locked : inp.ptpLocked <;> simp [State.dawnPorts, State.updIo, locked, dawn]
  · intro dawn none_
    refine ⟨s.dawnBinds inp, by simp only [State.dawnStep, under, dawn], ?_⟩
    simp only [State.dawnBinds, none_]
    rfl
  · intro a b c dawn config
    refine ⟨s.dawnBinds inp, by simp only [State.dawnStep, under, dawn], ?_⟩
    simp only [State.dawnBinds, config]
    exact ⟨rfl, rfl, rfl⟩

end Sys2Proof.Machine
end


section
/-! Host messages: those that are taken have their effect, the others are answered with the first status that applies (R446 to R449). -/
namespace Sys2Proof.Machine
open Sys2Proof

section
variable {s : State} {r : Req} {type : BitVec 16} {who : Who} {needCtx bad : Bool} {go : State → State}

/-- A message that is taken does what its type does, on the state in which its endpoint has been heard. -/
theorem State.hostMsg_takes (h : Takes s r type who needCtx bad) : s.hostMsg r type who needCtx bad go = .next (go (s.heard r)) := by
  simp [State.hostMsg, h.answers, h.awake, h.controls, h.semaphore, h.sound, h.header, h.body]

section
variable (answers : s.io.failed = false)
include answers

theorem State.hostMsg_notReady (asleep : s.awake type = false) :
    s.hostMsg r type who needCtx bad go = .next ((s.heard r).reply r type stNotReady []) := by
  simp [State.hostMsg, answers, asleep]

variable (awake : s.awake type = true)
include awake

theorem State.hostMsg_notControlling (stranger : s.controls who r.ep = false) :
    s.hostMsg r type who needCtx bad go = .next ((s.heard r).reply r type stNotControlling []) := by
  simp [State.hostMsg, answers, awake, stranger]

variable (controls : s.controls who r.ep = true)
include controls

theorem State.hostMsg_noSemaphore (without : s.holdsSem who r.ep = false) :
    s.hostMsg r type who needCtx bad go = .next ((s.heard r).reply r type stNoSemaphore []) := by
  simp [State.hostMsg, answers, awake, controls, without]

theorem State.hostMsg_bad (sem : s.holdsSem who r.ep = true)
    (broken : bad = true ∨ headerOk r (bodyNeed type) = false ∨ s.sound r needCtx = false) :
    s.hostMsg r type who needCtx bad go = .next ((s.heard r).reply r type stBadMessage []) := by
  have isBad : (bad || !headerOk r (bodyNeed type) || !s.sound r needCtx) = true := by
    rcases broken with h | h | h <;> simp [h]
  simp [State.hostMsg, answers, awake, controls, sem, isBad]

end
end

section
variable {i : Instr} {r : Req} {type : BitVec 16} {who : Who} {needCtx bad : Bool} {go : State → State} {ok : State → Prop}

/-- A type whose meaning is the checks of every message and an effect is handled. -/
theorem Handles.of (h : ∀ s, ok s → exec i s = s.hostMsg r type who needCtx bad go) : Handles i r type who needCtx bad go ok :=
  fun s hs taken => (h s hs).trans (State.hostMsg_takes taken)

/-- The same type refuses what it does not take. -/
theorem Refuses.of (h : ∀ s, ok s → exec i s = s.hostMsg r type who needCtx bad go) : Refuses i r type who needCtx bad ok := by
  intro s hs answers
  rw [h s hs]
  exact ⟨State.hostMsg_notReady answers, State.hostMsg_notControlling answers, State.hostMsg_noSemaphore answers, State.hostMsg_bad answers⟩

end

/-! ## An RMA whose endpoint has none under way -/

section
variable {s : State} {r : Req} {va : W64} (free : s.rmaWaits r.ep = false)
include free

theorem exec_rmaRead (len : Nat) : exec (.rmaRead r va len) s = s.hostMsg r 0x40 .ctl true (rmaReadBad va len) fun u => u.onRmaRead r va len := by
  change execRmaRead _ _ _ _ = _
  simp [execRmaRead, free]

theorem exec_rmaWrite (data : List Byte) :
    exec (.rmaWrite r va data) s = s.hostMsg r 0x41 .ctl true (rmaWriteBad r data) fun u => u.onRmaWrite r va data := by
  change execRmaWrite _ _ _ _ = _
  simp [execRmaWrite, free]

theorem exec_rmaAtomic (kind : BitVec 4) (wide : Bool) (operand compare : W64) : exec (.rmaAtomic r va kind wide operand compare) s =
    s.hostMsg r 0x42 .ctl true (rmaAtomicBad kind) fun u => u.onRmaAtomic r va kind wide operand compare := by
  change execRmaAtomic _ _ _ _ _ _ _ = _
  simp [execRmaAtomic, free]

end

/-- Settles O27: each type is the checks of every message and its own effect. -/
theorem contextMessagesHandled : Obligations.ContextMessagesHandled := by
  unfold Obligations.ContextMessagesHandled
  exact ⟨fun _ => .of fun _ _ => rfl, fun _ _ => .of fun _ _ => rfl, fun _ => .of fun _ _ => rfl, fun _ => .of fun _ _ => rfl,
    fun _ _ _ _ => .of fun _ _ => rfl, fun _ => .of fun _ _ => rfl, fun _ _ _ _ _ _ => .of fun _ _ => rfl, fun _ _ => .of fun _ _ => rfl,
    fun _ _ _ => .of fun _ _ => rfl, fun _ _ => .of fun _ _ => rfl⟩

/-- Settles O28: the same, an RMA where its endpoint has no earlier one under way, a push by the state that it meets. -/
theorem workMessagesHandled : Obligations.WorkMessagesHandled := by
  unfold Obligations.WorkMessagesHandled
  refine ⟨fun _ _ => .of fun _ _ => rfl, fun _ _ _ _ => .of fun _ _ => rfl, fun _ _ _ _ => .of fun _ _ => rfl, ?_,
    fun _ _ len => .of fun _ free => exec_rmaRead free len, fun _ _ data => .of fun _ free => exec_rmaWrite free data,
    fun _ _ kind wide operand compare => .of fun _ free => exec_rmaAtomic free kind wide operand compare,
    fun _ _ _ _ _ _ => .of fun _ _ => rfl, fun _ _ _ _ _ => .of fun _ _ => rfl, fun _ _ _ _ => .of fun _ _ => rfl⟩
  intro r graph edge tokens
  refine .of fun s fits => ?_
  change execGraphPush _ _ _ _ _ = _
  simp only [execGraphPush, fits]

/-- Settles O29: the same for the settings, those of MS_CONFIG by their unit, slot and value. -/
theorem settingMessagesHandled : Obligations.SettingMessagesHandled := by
  unfold Obligations.SettingMessagesHandled
  refine ⟨fun _ _ => .of fun _ _ => rfl, fun _ _ _ => .of fun _ _ => rfl, fun _ _ _ => .of fun _ _ => rfl, fun _ _ => .of fun _ _ => rfl,
    fun _ _ _ => .of fun _ _ => rfl, fun _ _ _ => .of fun _ _ => rfl, ?_, fun _ _ _ => .of fun _ _ => rfl,
    fun _ _ _ => .of fun _ _ => rfl, fun _ _ => .of fun _ _ => rfl, fun _ _ _ => .of fun _ _ => rfl⟩
  intro r unit slot v b
  refine .of fun s refused => ?_
  rw [← refused]
  rfl

/-- A type that R447 does not list is bad, whoever sends it (R448). -/
theorem exec_unknownMessage {s : State} {r : Req} {type : BitVec 16} (unlisted : requestTypes.contains type.toNat = false)
    (answers : s.io.failed = false) (ready : s.io.dawn = dawnReady) :
    exec (.unknownMessage r type) s = .next ((s.heard r).reply r type stBadMessage []) := by
  have awake : s.awake type = true := by simp [State.awake, ready]
  change execUnknownMessage _ _ _ = _
  simp only [execUnknownMessage, unlisted, Bool.false_eq_true, if_false]
  exact State.hostMsg_bad answers awake rfl rfl (.inl rfl)

/-- Settles O30: the refusals of R448 in their order, for each type named. -/
theorem messagesRefused : Obligations.MessagesRefused := by
  unfold Obligations.MessagesRefused
  refine ⟨fun r => .of (go := fun u => u.onStatus r) fun _ _ => rfl, fun r => .of (go := fun u => u.onSemClaim r) fun _ _ => rfl,
    fun r ctx area quotas => .of (go := fun u => u.onContextCreate r ctx area quotas) fun _ _ => rfl,
    fun r first count => .of (go := fun u => u.onRecordFree r first count) fun _ _ => rfl,
    fun r packet => .of (go := fun u => u.onPlierrovLaunch r packet) fun _ _ => rfl,
    fun r va data => .of fun _ free => exec_rmaWrite free data,
    fun r home level page => .of (go := fun u => u.onReclaim r home level page) fun _ _ => rfl,
    fun r b => .of (go := fun u => u.onLimits r b) fun _ _ => rfl,
    fun r clusters target => .of (go := fun u => u.onPartition r clusters target) fun _ _ => rfl,
    fun r unit v => .of (go := fun u => u.configured r (leaseRefused unit v) fun u => u.onMsConfigLease unit v) fun _ _ => rfl,
    fun r type unlisted s answers ready => exec_unknownMessage unlisted answers ready⟩

end Sys2Proof.Machine
end


section
/-! A step runs the decoded instruction; worked encodings; the state right after reset. -/
namespace Sys2Proof.Machine
open Sys2Proof

/-! ## The issue of a decoded instruction -/

theorem mapNext_mapNext (f h : State → State) (o : Out) : mapNext f (mapNext h o) = mapNext (fun u => f (h u)) o := by
  cases o <;> rfl

section
variable {s : State} {r : GrpRef} {t : Team} {g : Group} {i : Instr} {ws : List W32} {c : Nat}

theorem State.nextInstr_decoded (decoded : decode (s.fetchWords (dieOf t.core) (s.ctx t.ctx).windows 5 g.pc).1 = .ok i) :
    s.nextInstr t g = .instr i ((s.fetchWords (dieOf t.core) (s.ctx t.ctx).windows 5 g.pc).1.take i.words) := by
  unfold State.nextInstr
  simp only [decoded]

/-- A group that issues nothing else in a cycle has its pipe to itself there. -/
theorem State.mayShare_alone (alone : ∀ p ∈ (s.core t.core).issuersAt c, p.1 ≠ r) : s.mayShare c r t g = true := by
  have none_ : ((s.core t.core).issuersAt c).filter (·.1 == r) = [] := by
    rw [List.filter_eq_nil_iff]
    intro p hp
    simp [alone p hp]
  simp only [State.mayShare, none_]

/-- A group alone runs its next instruction on the state in which the words are fetched and it holds the issue slot. -/
theorem State.issueOne_alone (alone : g.formed = []) : s.issueOne r t g i ws =
    let v := s.fetched (dieOf t.core) (s.ctx t.ctx).windows g.pc ws.length
    mapNext (fun z => (v.pairedRoom z r.team).noteOwn r g.retiredSum) (exec i { v with cur := some (r, ws.getD 0 0, ws.getD 1 0) }) := by
  simp only [State.issueOne, alone, List.isEmpty_nil, if_true, State.issueAlone, State.run]

/-- A group whose switch is not due, and which its interval lets go, issues what comes next. -/
theorem State.issueAt_decoded (here : s.group? r = some (t, g)) (may : State.mayIssue t g = true)
    (still : (s.cluster (clusterOf t.core)).changing = none) (undue : g.switchDue = none) (few : g.run < 32 ∨ readsLatch i = true)
    (next : s.nextInstr t g = .instr i ws) (gate : s.gateOf r t g i = .go) :
    s.issueAt r false = some (mapNext (fun u => u.leftLog r t g) (s.issueOne r t g i ws)) := by
  have noSwitch : (g.switchDue.isSome || (decide (32 ≤ g.run) && !false && !readsLatch i)) = false := by
    rcases few with h | h
    · simp [undue, Nat.not_le.mpr h]
    · simp [undue, h]
  simp only [State.issueAt, here, may, still, next, noSwitch, gate, Bool.not_true, Option.isSome_none, Bool.or_self, Bool.false_eq_true, if_false]

end

/-! ## The turn that names a group, and the model's own issue -/

/-- Of the elements that pass a test the first answers. -/
theorem findSome?_of_find? {α β : Type} {p : α → Bool} {f : α → Option β} {x : α} {y : β} (answer : f x = some y) :
    ∀ l : List α, l.find? p = some x → l.findSome? (fun a => if p a then f a else none) = some y
  | [], h => absurd h (by simp)
  | a :: l, h => by
    rw [List.findSome?_cons]
    cases pa : p a with
    | true =>
      rw [List.find?_cons_of_pos pa] at h
      obtain rfl := Option.some.inj h
      simp [answer]
    | false =>
      rw [List.find?_cons_of_neg (by simp [pa])] at h
      simpa using findSome?_of_find? answer l h

/-- What the cores issue is the issue of a candidate in a cycle of its core. -/
theorem issueNow_candidate {s : State} {o : Out} (h : issueNow s = some (.inl o)) :
    ∃ core c x, c ∈ s.cyclesNow core ∧ x ∈ s.candidates core ∧ s.issueIn c x = some o := by
  unfold issueNow at h
  obtain ⟨k, -, hk⟩ := List.exists_of_findSome?_eq_some h
  dsimp only at hk
  split at hk
  case h_2 => split at hk <;> simp at hk
  case h_1 y hy =>
    have found := List.mem_of_find?_eq_some hy
    unfold issuesIn at found
    obtain ⟨core, -, hx⟩ := List.mem_flatMap.mp found
    split at hx
    case h_2 => exact absurd hx (by simp)
    case h_1 c hc =>
      obtain ⟨x, candidate, hy⟩ := List.mem_filterMap.mp hx
      obtain ⟨o', ho, rfl⟩ := Option.map_eq_some_iff.mp hy
      rw [← Sum.inl.inj (Option.some.inj hk)]
      exact ⟨core, c, x, List.mem_of_find?_eq_some hc, candidate, ho⟩

/-- Settles O31: an issue is its parts one after another; a turn's issue is in the first cycle that chooses its group. -/
theorem stepRunsTheDecodedInstruction : Obligations.StepRunsTheDecodedInstruction := by
  unfold Obligations.StepRunsTheDecodedInstruction
  refine ⟨?_, ?_, ?_⟩
  · intro s r t g i ws c here may still alone undue few decoded words gate others free v
    have next : s.nextInstr t g = .instr i ws := words ▸ State.nextInstr_decoded decoded
    have pipe : s.nextPipe t g = pipeOf i t.k.width := by simp only [State.nextPipe, next]
    have first : (((s.core t.core).issuersAt c).any (·.1 == r)) = false := by
      rw [List.any_eq_false]
      intro p hp
      simp [others p hp]
    simp only [State.issueIn, pipe, free, State.mayShare_alone others, first, State.issueAt_decoded here may still undue few next gate,
      State.issueOne_alone alone, mapNext_mapNext, Bool.not_true, Bool.or_self, Bool.false_eq_true, if_false, Option.map_some]
    rfl
  · intro s u r rest t g c o works turns made here chosen issue
    have taken : u.takeTurn (.issue r) = some o := by
      simp only [State.takeTurn, State.issueTurn, here]
      exact findSome?_of_find? (f := fun c => u.issueIn c (r, t, g)) issue _ chosen
    subst made
    simp only [step, State.advance, works, turns, taken, Bool.false_eq_true, if_false]
  · intro s o works turns idle issue
    refine ⟨?_, issueNow_candidate issue⟩
    simp only [step, State.advance, works, turns, State.ownTurn, idle, issue, Bool.false_eq_true, if_false]

/-! ## Encodings and reset -/

/-- Settles O32: each pair of words is decoded. -/
theorem wordsDecode : Obligations.WordsDecode := by
  exact ⟨rfl, rfl, rfl, rfl, rfl, rfl, rfl, rfl⟩

/-- Settles O33: reset is the empty state, whose maps answer what their readers take where nothing stands. -/
theorem resetState : Obligations.ResetState := by
  unfold Obligations.ResetState
  refine ⟨rfl, rfl, rfl, rfl, fun h => ⟨rfl, rfl, rfl, rfl, fun n => rfl⟩, fun c => ⟨rfl, rfl⟩, fun c n k => ?_, ⟨rfl, rfl⟩⟩
  have closed : (State.reset.ctx c).window n = [0, 0, 0, 0] := rfl
  rw [closed]
  match k with
  | 0 | 1 | 2 | 3 => rfl
  | k + 4 => rfl

end Sys2Proof.Machine
end


section
/-! Memory stays in its canonical form: what that says of each kind of answer, and the rules for putting answers together. -/
namespace Sys2Proof.Machine
open Sys2Proof

/-! ## States -/

theorem State.MemoryCanonical.mem {s : State} (h : s.MemoryCanonical) : Memory.wf s.mem = true := h.1
theorem State.MemoryCanonical.ext {s : State} (h : s.MemoryCanonical) : Memory.wf s.ext = true := h.2

namespace Canonical
variable {s u : State}

section
variable {time turns cur fresh next peerAbsent badFrames deadSlots draws extPoison cores columns clusters dies homes io stages held memOps
    contexts launches graphs gangs teams saved intervals ops out net : _}

/-- A state whose memory is built anew. -/
theorem made {mem ext : List Host.Cell} (m : Memory.wf mem = true) (e : Memory.wf ext = true) :
    (State.mk time turns cur fresh next mem peerAbsent badFrames deadSlots draws ext extPoison cores columns clusters dies homes io stages held
        memOps contexts launches graphs gangs teams saved intervals ops out net).MemoryCanonical := ⟨m, e⟩

/-- A state with the memory of another. -/
theorem set (h : u.MemoryCanonical) :
    (State.mk time turns cur fresh next u.mem peerAbsent badFrames deadSlots draws u.ext extPoison cores columns clusters dies homes io stages
        held memOps contexts launches graphs gangs teams saved intervals ops out net).MemoryCanonical := h

end

theorem touched (t : s.Touches u) (h : s.MemoryCanonical) : u.MemoryCanonical := t.canonical h

theorem either {c : Prop} [Decidable c] (h : s.MemoryCanonical) (h' : u.MemoryCanonical) : (if c then s else u).MemoryCanonical := by
  split
  · exact h
  · exact h'

/-- What every element keeps, a fold keeps. -/
theorem keptByFold {α β : Type} {P : β → Prop} {f : β → α → β} {b : β} (keeps : ∀ b x, P b → P (f b x)) {l : List α} (h : P b) :
    P (l.foldl f b) := List.foldlRecOn l f h fun b hb x _ => keeps b x hb

theorem folded {α : Type} {f : State → α → State} (keeps : ∀ u x, u.MemoryCanonical → (f u x).MemoryCanonical) {l : List α}
    (h : s.MemoryCanonical) : (l.foldl f s).MemoryCanonical := keptByFold keeps h

theorem carried {α : Type} {P : α → Prop} {a b : α} (e : a = b) (h : P a) : P b := e ▸ h

end Canonical

/-! ## Answers that hold states -/

/-- What an optional value holds, where it holds one, is as `P` says. -/
def Gives {α : Type} (P : α → Prop) (o : Option α) : Prop := ∀ x, o = some x → P x

namespace Gives
variable {α β : Type} {P : α → Prop} {Q : β → Prop}

theorem none : Gives P none := nofun
theorem some {a : α} (h : P a) : Gives P (some a) := fun _ e => Option.some.inj e ▸ h
theorem elim {o : Option α} {a : α} (e : o = .some a) (h : Gives P o) : P a := h a e
theorem any {o : Option α} : Gives (fun _ => True) o := fun _ _ => trivial

theorem either {c : Prop} [Decidable c] {o o' : Option α} (h : Gives P o) (h' : Gives P o') : Gives P (if c then o else o') := by
  split
  · exact h
  · exact h'

theorem map {o : Option α} {f : α → β} (h : Gives P o) (hf : ∀ x, P x → Q (f x)) : Gives Q (o.map f) := by
  cases o with
  | none => exact none
  | some x => exact some (hf x (h x rfl))

theorem bind {o : Option α} {f : α → Option β} (h : Gives P o) (hf : ∀ x, P x → Gives Q (f x)) : Gives Q (o.bind f) := by
  cases o with
  | none => exact none
  | some x => exact hf x (h x rfl)

theorem filter {o : Option α} {p : α → Bool} (h : Gives P o) : Gives P (o.filter p) := fun x e => h x (Option.filter_eq_some_iff.mp e).1

theorem orElse {o : Option α} {f : Unit → Option α} (h : Gives P o) (hf : Gives P (f ())) : Gives P (o.orElse f) := by
  cases o with
  | none => exact hf
  | some x => exact h

theorem findSome {l : List β} {f : β → Option α} (h : ∀ x, Gives P (f x)) : Gives P (l.findSome? f) := by
  intro x e
  obtain ⟨y, -, hy⟩ := List.exists_of_findSome?_eq_some e
  exact h y x hy

end Gives

theorem Canonical.getD {s : State} {o : Option State} (ho : Gives State.MemoryCanonical o) (h : s.MemoryCanonical) : (o.getD s).MemoryCanonical := by
  cases o with
  | none => exact h
  | some u => exact ho u rfl

/-! ## Outcomes and stops -/

/-- Where the outcome is a next state, its memory is canonical. -/
def OutCanonical (o : Out) : Prop := ∀ u, o = .next u → u.MemoryCanonical

namespace OutCanonical

theorem next {u : State} (h : u.MemoryCanonical) : OutCanonical (.next u) := fun _ e => Host.Outcome.next.inj e ▸ h
theorem elim {o : Out} {u : State} (e : o = .next u) (h : OutCanonical o) : u.MemoryCanonical := h u e
theorem fault {f : Fault} : OutCanonical (.fault f) := fun _ e => absurd e (by simp)
theorem refused {r : Refusal} : OutCanonical (.refused r) := fun _ e => absurd e (by simp)

theorem either {c : Prop} [Decidable c] {o o' : Out} (h : OutCanonical o) (h' : OutCanonical o') : OutCanonical (if c then o else o') := by
  split
  · exact h
  · exact h'

end OutCanonical

/-- A stop that holds a state holds one whose memory is canonical. -/
def StopCanonical (e : Stop) : Prop := ∀ u, e = .hold u → u.MemoryCanonical

namespace StopCanonical

theorem trap {t : Trap} : StopCanonical (.trap t) := fun _ e => absurd e (by simp)
theorem wait {m : GroupMode} {w : Wait} : StopCanonical (.wait m w) := fun _ e => absurd e (by simp)
theorem hold {u : State} (h : u.MemoryCanonical) : StopCanonical (.hold u) := fun _ e => Stop.hold.inj e ▸ h

theorem either {c : Prop} [Decidable c] {o o' : Stop} (h : StopCanonical o) (h' : StopCanonical o') : StopCanonical (if c then o else o') := by
  split
  · exact h
  · exact h'

end StopCanonical

/-- An issue's part yields what `P` says, or a stop that is canonical. -/
def Yields {α : Type} (P : α → Prop) (e : Except Stop α) : Prop := (∀ x, e = .ok x → P x) ∧ ∀ st, e = .error st → StopCanonical st

namespace Yields
variable {α β : Type} {P : α → Prop} {Q : β → Prop}

theorem elim {o : Except Stop α} {a : α} (e : o = .ok a) (h : Yields P o) : P a := h.1 a e
theorem stop {o : Except Stop α} {st : Stop} (e : o = .error st) (h : Yields P o) : StopCanonical st := h.2 st e

theorem ok {a : α} (h : P a) : Yields P (.ok a) := ⟨fun _ e => Except.ok.inj e ▸ h, fun _ e => absurd e (by simp)⟩
theorem error {st : Stop} (h : StopCanonical st) : Yields P (.error st) := ⟨fun _ e => absurd e (by simp), fun _ e => Except.error.inj e ▸ h⟩

theorem either {c : Prop} [Decidable c] {o o' : Except Stop α} (h : Yields P o) (h' : Yields P o') : Yields P (if c then o else o') := by
  split
  · exact h
  · exact h'

theorem map {o : Except Stop α} {f : α → β} (h : Yields P o) (hf : ∀ x, P x → Q (f x)) : Yields Q (o.map f) := by
  cases o with
  | error e => exact error (h.2 e rfl)
  | ok x => exact ok (hf x (h.1 x rfl))

theorem bind {o : Except Stop α} {f : α → Except Stop β} (h : Yields P o) (hf : ∀ x, P x → Yields Q (f x)) : Yields Q (o.bind f) := by
  cases o with
  | error e => exact error (h.2 e rfl)
  | ok x => exact hf x (h.1 x rfl)

theorem foldlM {f : β → α → Except Stop β} (h : ∀ b a, Yields (fun _ => True) (f b a)) : ∀ l b, Yields (fun _ => True) (List.foldlM f b l)
  | [], _ => ok trivial
  | _ :: l, _ => bind (h _ _) fun c _ => foldlM h l c

end Yields

/-- What an engine's part answers, where it answers, is as `P` says; its stops hold no state. -/
def Answers {α : Type} (P : α → Prop) (e : Except EngStop α) : Prop := ∀ x, e = .ok x → P x

namespace Answers
variable {α β : Type} {P : α → Prop} {Q : β → Prop}

theorem elim {o : Except EngStop α} {a : α} (e : o = .ok a) (h : Answers P o) : P a := h a e

theorem ok {a : α} (h : P a) : Answers P (.ok a) := fun _ e => Except.ok.inj e ▸ h
theorem error {st : EngStop} : Answers P (.error st) := fun _ e => absurd e (by simp)
theorem any {e : Except EngStop α} : Answers (fun _ => True) e := fun _ _ => trivial

theorem either {c : Prop} [Decidable c] {o o' : Except EngStop α} (h : Answers P o) (h' : Answers P o') : Answers P (if c then o else o') := by
  split
  · exact h
  · exact h'

theorem map {o : Except EngStop α} {f : α → β} (h : Answers P o) (hf : ∀ x, P x → Q (f x)) : Answers Q (o.map f) := by
  cases o with
  | error e => exact error
  | ok x => exact ok (hf x (h x rfl))

theorem bind {o : Except EngStop α} {f : α → Except EngStop β} (h : Answers P o) (hf : ∀ x, P x → Answers Q (f x)) : Answers Q (o.bind f) := by
  cases o with
  | error e => exact error
  | ok x => exact hf x (h x rfl)

end Answers

/-- The states of an issue: the one that it works on and the one before it. -/
structure Issue.Canonical (x : Issue) : Prop where
  s : x.s.MemoryCanonical
  pre : x.pre.MemoryCanonical

/-- A grant of the front end holds a state whose memory is canonical. -/
def DispatchGrantCanonical : DispatchGrant → Prop
  | .attempt _ s | .start _ s | .restore _ _ s => s.MemoryCanonical

/-- What the front end's read leaves has canonical memory. -/
def FrontReadCanonical : FrontRead → Prop
  | .bytes s _ | .settling s => s.MemoryCanonical
  | .error _ | .wait | .held _ _ => True

/-- What a try of LAUNCH leaves has canonical memory. -/
def LaunchedCanonical : Launched → Prop
  | .refused _ s | .accepted _ _ s => s.MemoryCanonical
  | .held => True

/-- What the cores issue next leaves canonical memory. -/
def IssuesCanonical : Out ⊕ List (Nat × Nat × State) → Prop
  | .inl o => OutCanonical o
  | .inr l => ∀ x ∈ l, x.2.2.MemoryCanonical

end Sys2Proof.Machine
end


section
/-! Memory stays in its canonical form under the named operations, at homes and caches, under traps and the flow of a group.
Each theorem is named after the function of the model that it speaks of. -/
namespace Sys2Proof.Machine
open Sys2Proof

namespace Canonical
variable {s : State} {x : Issue}

/-! ## Reset -/

theorem reset : State.reset.MemoryCanonical := ⟨rfl, rfl⟩

/-! ## Named operations -/

theorem setCore {c x} (h : s.MemoryCanonical) : (s.setCore c x).MemoryCanonical := set h
theorem setColumn {c x} (h : s.MemoryCanonical) : (s.setColumn c x).MemoryCanonical := set h
theorem setCluster {c x} (h : s.MemoryCanonical) : (s.setCluster c x).MemoryCanonical := set h
theorem setCtx {c x} (h : s.MemoryCanonical) : (s.setCtx c x).MemoryCanonical := set h
theorem setTeam {t x} (h : s.MemoryCanonical) : (s.setTeam t x).MemoryCanonical := set h
theorem setGroup {g x} (h : s.MemoryCanonical) : (s.setGroup g x).MemoryCanonical := set h
theorem updTeam {t f} (h : s.MemoryCanonical) : (s.updTeam t f).MemoryCanonical := set h
theorem updGroup {g f} (h : s.MemoryCanonical) : (s.updGroup g f).MemoryCanonical := updTeam h
theorem updCore {c f} (h : s.MemoryCanonical) : (s.updCore c f).MemoryCanonical := setCore h
theorem updCtx {c f} (h : s.MemoryCanonical) : (s.updCtx c f).MemoryCanonical := set h
theorem updLaunch {l f} (h : s.MemoryCanonical) : (s.updLaunch l f).MemoryCanonical := set h
theorem updOp {o f} (h : s.MemoryCanonical) : (s.updOp o f).MemoryCanonical := set h
theorem updIo {f} (h : s.MemoryCanonical) : (s.updIo f).MemoryCanonical := set h
theorem updCluster {c f} (h : s.MemoryCanonical) : (s.updCluster c f).MemoryCanonical := setCluster h
theorem updColumn {c f} (h : s.MemoryCanonical) : (s.updColumn c f).MemoryCanonical := setColumn h
theorem charge {core w} (h : s.MemoryCanonical) : (s.charge core w).MemoryCanonical := updCore h

theorem chargePasses {core} (h : s.MemoryCanonical) : (s.chargePasses core).MemoryCanonical := by
  unfold State.chargePasses
  split
  · exact h
  · exact charge (updCore h)

theorem dropTiles {core team} (h : s.MemoryCanonical) : (s.dropTiles core team).MemoryCanonical := updCore (chargePasses h)

theorem changeClass {cl cls} (h : s.MemoryCanonical) : (s.changeClass cl cls).MemoryCanonical := by
  unfold State.changeClass
  extract_lets c noted quiet s1 src src'
  have hs1 : s1.MemoryCanonical := folded (fun _ _ hx => updCore hx) h
  clear_value s1
  exact updCluster (set hs1)

theorem makeMoves {before l} (h : s.MemoryCanonical) : (s.makeMoves before l).MemoryCanonical := by
  fun_induction s.makeMoves before l
  · exact set h
  next ih => exact ih h
  next ih => exact ih (folded (fun _ _ hx => updCluster hx) h)

theorem clusterBoundary {cl} (h : s.MemoryCanonical) : (s.clusterBoundary cl).MemoryCanonical := by
  unfold State.clusterBoundary
  refine either h ?_
  extract_lets s1 same touched s2
  have hs1 : s1.MemoryCanonical := makeMoves h
  have hs2 : s2.MemoryCanonical := either (folded (fun _ _ hx => updCluster hx) hs1) hs1
  clear_value s1 s2
  split
  · exact either (changeClass hs2) hs2
  · exact hs2

theorem noteDue {slot} (h : s.MemoryCanonical) : (s.noteDue slot).MemoryCanonical := by
  unfold State.noteDue
  split
  · exact h
  · exact set h

theorem addCount {slot n by_} (h : s.MemoryCanonical) : (s.addCount slot n by_).MemoryCanonical := either (noteDue (updLaunch h)) h

theorem addCounts {slot l} (h : s.MemoryCanonical) : (s.addCounts slot l).MemoryCanonical := by
  fun_induction s.addCounts slot l
  · exact h
  next ih => exact ih (addCount h)

theorem count {team ns} (h : s.MemoryCanonical) : (s.count team ns).MemoryCanonical := by
  unfold State.count
  refine either h ?_
  split
  · exact h
  · extract_lets add
    split
    · exact set h
    · exact addCounts h

theorem arrived {g n} (h : s.MemoryCanonical) : (s.arrived g n).MemoryCanonical := by
  unfold State.arrived
  refine either h ?_
  split
  · exact h
  · exact either h (set h)

theorem send {m} (h : s.MemoryCanonical) : (s.send m).MemoryCanonical := set h
theorem sendOwn {m} (h : s.MemoryCanonical) : (s.sendOwn m).MemoryCanonical := send (set h)
theorem notify {type ctx body status after} (h : s.MemoryCanonical) : (s.notify type ctx body status after).MemoryCanonical :=
  sendOwn (sendOwn h)
theorem wakeTeam {id p} (h : s.MemoryCanonical) : (s.wakeTeam id p).MemoryCanonical := updTeam h
theorem wakeAll {p} (h : s.MemoryCanonical) : (s.wakeAll p).MemoryCanonical := folded (fun _ _ hx => wakeTeam hx) h

/-! ## Homes and caches -/

theorem writeFrame {ia l bs} (h : s.MemoryCanonical) : (s.writeFrame ia l bs).MemoryCanonical :=
  touched (State.setFramePoison_touches ..) (touched (State.setFrame_touches ..) h)

theorem fillWith {room line l} (h : s.MemoryCanonical) (hroom : ∀ u v, u.MemoryCanonical → (room u v).MemoryCanonical) :
    (State.fillWith room s line l).MemoryCanonical := by
  unfold State.fillWith
  refine either h ?_
  extract_lets s1 src
  have hs1 : s1.MemoryCanonical := hroom _ _ h
  clear_value s1
  exact either hs1 (touched (State.setSlice_touches ..) hs1)

theorem mergeWith {room line l mask data p} (h : s.MemoryCanonical) (hroom : ∀ u v, u.MemoryCanonical → (room u v).MemoryCanonical) :
    (State.mergeWith room s line l mask data p).1.MemoryCanonical := by
  unfold State.mergeWith
  extract_lets s1 x
  have hs1 : s1.MemoryCanonical := fillWith (touched (State.touch_touches ..) h) (fun _ _ hv => hroom _ _ hv)
  clear_value s1
  exact touched (State.setSlice_touches ..) hs1

theorem reachWith {room id die line mask data p ctx since owner} (h : s.MemoryCanonical)
    (hroom : ∀ u v, u.MemoryCanonical → (room u v).MemoryCanonical) :
    (State.reachWith room s id die line mask data p ctx since owner).1.MemoryCanonical := by
  unfold State.reachWith
  extract_lets held hold
  have hhold : ∀ u v w, (hold u v w).1.MemoryCanonical := by
    unfold hold
    intro _ _ _
    dsimp only
    exact touched (State.holdAtHome_touches ..) h
  clear_value hold
  split
  · split
    · exact hhold _ _ _
    · split
      · dsimp only
        exact touched (State.keep_touches ..) h
      · split
        next e' =>
          dsimp only
          refine touched (State.keep_touches ..) ?_
          refine carried (P := fun p => p.1.MemoryCanonical) e' ?_
          refine mergeWith h (fun _ _ hv'' => ?_)
          exact hroom _ _ hv''
  · exact hhold _ _ _
  · exact hhold _ _ _
  · dsimp only
    exact touched (State.updHome_touches ..) h

theorem l1Fill {core ia leaseLen} (h : s.MemoryCanonical) : (s.l1Fill core ia leaseLen).MemoryCanonical := by
  unfold State.l1Fill
  extract_lets d x till data poison c way stays new s1
  have hs1 : s1.MemoryCanonical := setCore h
  clear_value s1
  exact touched (State.setL2_touches ..) hs1

theorem l1Write {core line mask data} (h : s.MemoryCanonical) : (s.l1Write core line mask data).MemoryCanonical := updCore h

theorem l1Store {core ia bs} (h : s.MemoryCanonical) : (s.l1Store core ia bs).MemoryCanonical := by
  unfold State.l1Store
  split
  exact l1Write h

theorem l1Drop {core line} (h : s.MemoryCanonical) : (s.l1Drop core line).MemoryCanonical := updCore h
theorem clearVaultPoison {cl o n} (h : s.MemoryCanonical) : (s.clearVaultPoison cl o n).MemoryCanonical :=
  either h (touched (State.updDie_touches ..) h)

/-! ## Traps -/

theorem dropWaiters {p} (h : s.MemoryCanonical) : (s.dropWaiters p).MemoryCanonical := set h

theorem lowerLines {l} (h : s.MemoryCanonical) : (s.lowerLines l).MemoryCanonical := by
  fun_induction s.lowerLines l
  · exact h
  next ih => exact ih (updCore h)

theorem turnEngine {o} (h : s.MemoryCanonical) : (s.turnEngine o).MemoryCanonical := set h

theorem dropOp {id} (h : s.MemoryCanonical) : (s.dropOp id).MemoryCanonical := by
  unfold State.dropOp
  split
  · exact h
  · extract_lets s1 src s2
    have hs1 : s1.MemoryCanonical := updCtx (lowerLines h)
    have hsrc : src.MemoryCanonical := dropWaiters hs1
    have hs2 : s2.MemoryCanonical := wakeAll (turnEngine (set hsrc))
    clear_value s1 src s2
    refine folded (fun _ _ hx => ?_) hs2
    split
    exact arrived hx

theorem endOp {id status} (h : s.MemoryCanonical) : (s.endOp id status).MemoryCanonical := by
  unfold State.endOp
  split
  · exact h
  · extract_lets s1
    have hs1 : s1.MemoryCanonical := dropOp h
    clear_value s1
    split
    · exact hs1
    · extract_lets mark src
      have hsrc : src.MemoryCanonical := updTeam hs1
      clear_value src
      exact wakeTeam (set hsrc)

theorem dropOps {p} (h : s.MemoryCanonical) : (s.dropOps p).MemoryCanonical := by
  unfold State.dropOps
  refine folded (fun _ _ hx => ?_) h
  split
  exact dropOp hx

theorem wakeLog {core} (h : s.MemoryCanonical) : (s.wakeLog core).MemoryCanonical := by
  unfold State.wakeLog
  extract_lets ws
  split
  · exact h
  · exact updGroup h

theorem wakeLogs {core} (h : s.MemoryCanonical) : (s.wakeLogs core).MemoryCanonical := folded (fun _ _ hx => wakeLog hx) h
theorem passLog {core was} (h : s.MemoryCanonical) : (s.passLog core was).MemoryCanonical := either (wakeLogs h) h

theorem dropAccesses {id core} (h : s.MemoryCanonical) : (s.dropAccesses id core).MemoryCanonical := by
  unfold State.dropAccesses
  extract_lets s1
  have hs1 : s1.MemoryCanonical := updCore (dropTiles h)
  clear_value s1
  exact dropWaiters hs1

theorem dropStores {id} (h : s.MemoryCanonical) : (s.dropStores id).MemoryCanonical := either h (dropWaiters (set h))

theorem stopTeam {id} (h : s.MemoryCanonical) : (s.stopTeam id).MemoryCanonical := by
  unfold State.stopTeam
  split
  · exact h
  · extract_lets t' s1
    have hs1 : s1.MemoryCanonical := setTeam h
    clear_value s1
    exact wakeLogs (dropOps (dropStores (dropAccesses hs1)))

theorem reportItem {t status code} (h : s.MemoryCanonical) : (s.reportItem t status code).MemoryCanonical := either h (updLaunch h)

theorem writeRecord {ctx ws} (h : s.MemoryCanonical) : (s.writeRecord ctx ws).MemoryCanonical := by
  unfold State.writeRecord
  extract_lets c s1 no
  have hs1 : s1.MemoryCanonical := set h
  clear_value s1
  split
  · extract_lets s1'
    have hs1' : s1'.MemoryCanonical := touched (State.hostWrite_touches ..) h
    clear_value s1'
    exact notify (updCtx hs1')
  · exact notify (updCtx hs1)

theorem trapTeam {id slot g tr scope origin} (h : s.MemoryCanonical) : (s.trapTeam id slot g tr scope origin).MemoryCanonical := by
  unfold State.trapTeam
  split
  · exact h
  · exact either h (either (reportItem (stopTeam h)) (reportItem (writeRecord (stopTeam h))))

theorem trapOthers {tr scope origin l} (h : s.MemoryCanonical) : (s.trapOthers tr scope origin l).MemoryCanonical := by
  fun_induction s.trapOthers tr scope origin l
  · exact h
  next ih => exact ih h
  next ih => exact ih (trapTeam h)

theorem trapKept {id v slot g tr scope origin} (h : s.MemoryCanonical) : (s.trapKept id v slot g tr scope origin).MemoryCanonical := by
  unfold State.trapKept
  extract_lets head s1
  have hs1 : s1.MemoryCanonical := dropOps (set h)
  clear_value s1
  exact reportItem (writeRecord (updLaunch hs1))

theorem trapSaved {tr scope l} (h : s.MemoryCanonical) : (s.trapSaved tr scope l).MemoryCanonical := by
  fun_induction s.trapSaved tr scope l
  · exact h
  next ih => exact ih (trapKept h)

theorem endLaunch {slot status code} (h : s.MemoryCanonical) : (s.endLaunch slot status code).MemoryCanonical := updLaunch h

theorem endLaunches {status code l} (h : s.MemoryCanonical) : (s.endLaunches status code l).MemoryCanonical := by
  fun_induction s.endLaunches status code l
  · exact h
  next ih => exact ih (endLaunch h)

theorem breakWaits {gid cause l} (h : s.MemoryCanonical) : (s.breakWaits gid cause l).MemoryCanonical := by
  fun_induction s.breakWaits gid cause l
  · exact h
  next s1 ih =>
    refine ih ?_
    unfold s1
    split
    · split
      · exact trapTeam h
      · exact h
    · split
      · exact trapKept h
      · exact h
    · exact h

theorem breakGang {gid cause} (h : s.MemoryCanonical) : (s.breakGang gid cause).MemoryCanonical := by
  unfold State.breakGang
  split
  · exact h
  · exact either h (breakWaits (set h))

theorem breakGangs {l} (h : s.MemoryCanonical) : (s.breakGangs l).MemoryCanonical := by
  fun_induction s.breakGangs l
  · exact h
  next ih => exact ih (breakGang h)
  next ih => exact ih h

theorem breakSaved {l} (h : s.MemoryCanonical) : (s.breakSaved l).MemoryCanonical := by
  fun_induction s.breakSaved l
  · exact h
  next ih =>
    refine ih ?_
    split
    · exact breakGang h
    · exact h

theorem raiseTrap {g tr} (h : s.MemoryCanonical) : (s.raiseTrap g tr).MemoryCanonical := by
  unfold State.raiseTrap
  split
  · exact h
  · refine either h ?_
    extract_lets scope lane slot s1 mine others twin s2 kept s3 ls
    have hs1 : s1.MemoryCanonical := trapTeam h
    have hs2 : s2.MemoryCanonical := trapOthers (trapOthers (trapOthers hs1))
    have hs3 : s3.MemoryCanonical := trapSaved hs2
    clear_value s1 s2 s3
    exact breakSaved (breakGangs (endLaunches hs3))

/-! ## Operands -/

theorem issue_claims {dsts} (h : x.Canonical) : (x.claims dsts).Canonical := Issue.Canonical.mk (updGroup h.s) h.pre

theorem issue_pending {l} : Gives StopCanonical (x.pending l) := by
  unfold Issue.pending
  split
  · exact Gives.some StopCanonical.wait
  · exact Gives.map Gives.any (fun _ _ => StopCanonical.wait)

theorem Plan_check {p : Plan} : Gives StopCanonical (p.check x) := by
  unfold Plan.check
  refine Gives.either (Gives.some StopCanonical.trap) ?_
  split
  next w e =>
    have hw : StopCanonical w := Gives.elim (P := StopCanonical) e issue_pending
    exact Gives.some hw
  · exact Gives.either (Gives.some StopCanonical.trap)
      (Gives.either (Gives.some StopCanonical.trap)
      (Gives.either (Gives.some StopCanonical.trap) (Gives.either (Gives.some StopCanonical.trap) issue_pending)))

theorem issue_classes {l} : Yields (fun _ => True) (x.classes l) := by
  unfold Issue.classes
  split
  · exact Yields.error StopCanonical.trap
  · exact Yields.ok trivial

theorem issue_tied {l} : Yields (fun _ => True) (x.tied l) := by
  unfold Issue.tied
  split
  · exact Yields.ok trivial
  · split
    · exact Yields.error StopCanonical.trap
    · exact Yields.ok trivial

/-! ## The flow of a group -/

theorem switchPoint {r sp} (h : s.MemoryCanonical) : (s.switchPoint r sp).MemoryCanonical := by
  unfold State.switchPoint
  split
  · exact h
  · refine either h ?_
    extract_lets mask
    split <;> exact setGroup h

theorem safePoint {r sp} (h : s.MemoryCanonical) : (s.safePoint r sp).MemoryCanonical := by
  unfold State.safePoint
  split
  · exact h
  · exact either (setGroup h) h

theorem settled {r sp} (h : s.MemoryCanonical) : (s.settled r sp).MemoryCanonical := by
  unfold State.settled
  split
  · exact h
  · split
    · exact raiseTrap h
    · extract_lets s1
      have hs1 : s1.MemoryCanonical := setGroup h
      clear_value s1
      exact either (safePoint hs1) (either (switchPoint hs1) hs1)

/-! ## Intervals and copies of a team -/

theorem putVaultFlaws {cl o n l} (h : s.MemoryCanonical) : (s.putVaultFlaws cl o n l).MemoryCanonical := by
  unfold State.putVaultFlaws
  exact touched (State.updDie_touches ..) h

theorem putBack {t v} (h : s.MemoryCanonical) : (s.putBack t v).MemoryCanonical := by
  unfold State.putBack
  extract_lets c m1 m2 m3 s1 s2
  have hm1 : Memory.wf m1 = true := Memory.wf_setCells _ _ _ _ (State.MemoryCanonical.mem h)
  have hm2 : Memory.wf m2 = true := Memory.wf_setCells _ _ _ _ hm1
  have hm3 : Memory.wf m3 = true := by
    unfold m3
    split
    · exact Memory.wf_setCells _ _ _ _ hm2
    · exact hm2
  have hs1 : s1.MemoryCanonical := made hm3 (State.MemoryCanonical.ext h)
  have hs2 : s2.MemoryCanonical := by
    unfold s2
    split
    · exact putVaultFlaws hs1
    · exact hs1
  clear_value m1 m2 m3 s1 s2
  exact updCore hs2

theorem storeFaults {id core team line level wp peer a} (h : s.MemoryCanonical) :
    (s.storeFaults id core team line level wp peer a).MemoryCanonical := by
  unfold State.storeFaults
  extract_lets r s1
  have hs1 : s1.MemoryCanonical := touched (State.keep_touches ..) h
  clear_value s1
  split
  next s2 _ e =>
    have hs2 : s2.MemoryCanonical := carried (P := fun p => p.1.MemoryCanonical) e (touched (State.report_touches ..) hs1)
    exact either hs2 (touched (State.report_touches ..) hs1)

theorem storeFails {team grps line cause} (h : s.MemoryCanonical) : (s.storeFails team grps line cause).MemoryCanonical := by
  unfold State.storeFails
  extract_lets src tr
  split
  · exact trapKept h
  · exact raiseTrap h

theorem storeLine {id core team grps line mask data buffer since} (h : s.MemoryCanonical) :
    (s.storeLine id core team grps line mask data buffer since).1.MemoryCanonical := by
  unfold State.storeLine
  extract_lets die ia x a done
  have hdone : ∀ u, u.MemoryCanonical → (done u).1.MemoryCanonical := by
    unfold done
    intro _ hu
    split
    next s1 _ e =>
      have hs1 : s1.MemoryCanonical := carried (P := fun p => p.1.MemoryCanonical) e (touched (State.l2Write_touches ..) hu)
      exact l1Write hs1
  clear_value done
  split
  · exact hdone _ h
  · split
    · exact touched (State.keep_touches ..) h
    · split
      · split
        · exact storeFaults h
        · split
          · exact hdone _ (touched (State.grant_touches ..) (touched (State.touch_touches ..) h))
          · extract_lets old u
            have hu : u.MemoryCanonical := touched (State.setFrame_touches ..) (touched (State.touch_touches ..) h)
            clear_value u
            exact touched (State.setFramePoison_touches ..) hu
      · exact storeFaults h
      · exact storeFaults h
      · exact storeFails h

theorem drainHeld {core team buffer grps l} (h : s.MemoryCanonical) : (s.drainHeld core team buffer grps l).1.MemoryCanonical := by
  fun_induction s.drainHeld core team buffer grps l
  · exact h
  · exact h
  next c' _ _ c'' ih =>
    exact carried (P := fun p => p.1.MemoryCanonical) c'' (ih (carried (P := fun p => p.1.MemoryCanonical) c' (storeLine (set h))))

theorem drainVault {die l} (h : s.MemoryCanonical) : (s.drainVault die l).MemoryCanonical := by
  fun_induction s.drainVault die l
  · exact h
  next m _ ih =>
    refine ih ?_
    refine folded (fun _ _ hx => either (clearVaultPoison hx) hx) ?_
    refine made ?_ (State.MemoryCanonical.ext h)
    unfold m
    refine keptByFold (P := fun m => Memory.wf m = true) (fun _ _ hx => ?_) (State.MemoryCanonical.mem h)
    split
    · exact Memory.wf_writeByte _ _ _ hx
    · exact hx

theorem drainReleases {die l} (h : s.MemoryCanonical) : (s.drainReleases die l).MemoryCanonical := by
  fun_induction s.drainReleases die l
  · exact h
  next ih =>
    exact ih (either (touched (State.drain_touches ..) h)
        (either (touched (State.recordRelease_touches ..) (touched (State.cleanL2_touches ..) h)) h))

theorem raiseAll {team grps t} (h : s.MemoryCanonical) : (s.raiseAll team grps t).MemoryCanonical := by
  unfold State.raiseAll
  extract_lets up src
  have hsrc : src.MemoryCanonical := updTeam h
  clear_value src
  exact set hsrc

theorem drainTeam {id} (h : s.MemoryCanonical) : (s.drainTeam id).MemoryCanonical := by
  unfold State.drainTeam
  split
  · extract_lets die
    split
    next s1 _ e'' =>
      have hs1 : s1.MemoryCanonical := carried (P := fun p => p.1.MemoryCanonical) e'' (drainHeld h)
      extract_lets s2 s3
      have hs2 : s2.MemoryCanonical := drainReleases (drainVault hs1)
      have hs3 : s3.MemoryCanonical := raiseAll hs2
      clear_value s2 s3
      exact set hs3
  · exact h

theorem shadowWritten {t upper} (h : s.MemoryCanonical) : (s.shadowWritten t upper).MemoryCanonical := by
  unfold State.shadowWritten
  split
  · exact clearVaultPoison h
  · exact h

theorem openInterval {id} (h : s.MemoryCanonical) : (s.openInterval id).MemoryCanonical := by
  unfold State.openInterval
  split
  · exact h
  · extract_lets s1
    have hs1 : s1.MemoryCanonical := updTeam h
    clear_value s1
    split
    · exact h
    · extract_lets s2 iv' src
      have hs2 : s2.MemoryCanonical := either hs1 (addCounts hs1)
      have hsrc : src.MemoryCanonical := shadowWritten hs2
      clear_value s2 src
      exact set hsrc

theorem boundary {id} (h : s.MemoryCanonical) : (s.boundary id).MemoryCanonical := openInterval (drainTeam h)

theorem holdStore {id grp vault a bs} (h : s.MemoryCanonical) : Gives State.MemoryCanonical (s.holdStore id grp vault a bs) := by
  unfold State.holdStore
  split
  · refine Gives.either (Gives.some (set h)) ?_
    refine Gives.either Gives.none ?_
    extract_lets s1
    have hs1 : s1.MemoryCanonical := drainTeam h
    clear_value s1
    exact Gives.map Gives.any (fun _ _ => set hs1)
  · exact Gives.some h

theorem corrected {unit} (h : s.MemoryCanonical) : (s.corrected unit).MemoryCanonical := updIo h

theorem rollback {id} (h : s.MemoryCanonical) : (s.rollback id).MemoryCanonical := by
  unfold State.rollback
  split
  · split
    · exact h
    · extract_lets stay t' s1 s2 iv'
      have hs1 : s1.MemoryCanonical := setTeam (dropAccesses h)
      have hs2 : s2.MemoryCanonical := corrected (putBack (wakeLogs hs1))
      clear_value s1 s2
      exact set hs2
  · exact h

theorem consume {r tr} (h : s.MemoryCanonical) : (s.consume r tr).MemoryCanonical := by
  unfold State.consume
  split
  · refine either ?_ (raiseTrap h)
    extract_lets s1
    have hs1 : s1.MemoryCanonical := rollback h
    clear_value s1
    split
    · exact rollback hs1
    · exact hs1
  · exact raiseTrap h

theorem take {r tr} (h : s.MemoryCanonical) : (s.take r tr).MemoryCanonical := either (consume h) (raiseTrap h)

theorem dissolve {r} (h : s.MemoryCanonical) : (s.dissolve r).MemoryCanonical := by
  unfold State.dissolve
  split
  · exact h
  · exact folded (fun _ _ hx => updGroup hx) h

/-! ## REGROUP -/

theorem enter {r from_ sp} (h : s.MemoryCanonical) : (s.enter r from_ sp).MemoryCanonical := by
  unfold State.enter
  split
  · exact h
  · exact either (setGroup h) (settled h)

theorem relocate {horizon id} (h : s.MemoryCanonical) : (s.relocate horizon id).MemoryCanonical := by
  unfold State.relocate
  split
  · exact h
  · extract_lets mine held sp W keys outB outG left
    clear_value mine
    split
    · exact h
    · extract_lets mk
      split
      extract_lets src s1
      have hsrc : src.MemoryCanonical := setTeam h
      have hs1 : s1.MemoryCanonical := set hsrc
      clear_value src s1
      exact folded (fun _ _ hx => enter hx) hs1

theorem meet {id} (h : s.MemoryCanonical) : (s.meet id).MemoryCanonical := by
  unfold State.meet
  extract_lets d gs meeting fail src horizon src'
  have hfail : ∀ u v, (fail u v).MemoryCanonical := fun _ _ => raiseTrap h
  clear_value fail
  clear_value meeting
  clear_value d
  split
  · exact h
  · exact h
  · refine either h ?_
    refine either ?_ ?_
    · refine either h ?_
      split
      · exact hfail _ _
      · split
        · exact consume h
        · refine folded (fun _ _ hx => ?_) h
          split
          exact relocate hx
    · refine either ?_ h
      split
      · exact hfail _ _
      · exact h

/-! ## The skeleton of program instructions -/

theorem issue_seq {x : Issue} (h : s.MemoryCanonical) (hx : x.Canonical) : (x.seq s).MemoryCanonical := by
  unfold Issue.seq
  split
  · exact h
  · exact either (either (setGroup h) (take hx.pre)) (settled (setGroup h))

theorem issue_jump {x : Issue} {target} (h : s.MemoryCanonical) : (x.jump s target).MemoryCanonical := by
  unfold Issue.jump
  split
  · exact h
  · exact settled (setGroup h)

theorem wait {r i m w} (h : s.MemoryCanonical) : (s.wait r i m w).MemoryCanonical := updGroup h

theorem chargedState {i p r t g} (h : s.MemoryCanonical) : (chargedState i p s r t g).MemoryCanonical := by
  unfold Machine.chargedState
  exact setGroup (charge (set h))

theorem issueOf {i p r w t g} (h : s.MemoryCanonical) : (issueOf i p s r w t g).Canonical := by
  unfold Machine.issueOf
  exact Issue.Canonical.mk (chargedState h) (set h)

theorem issue_stop {a} (h : x.Canonical) (ha : StopCanonical a) : (x.stop a).MemoryCanonical := by
  unfold Issue.stop
  split
  · exact take h.pre
  · exact wait h.pre
  · exact ha _ rfl

theorem program {i p body} (h : s.MemoryCanonical) (hbody : ∀ u, u.Canonical → Yields State.MemoryCanonical (body u)) :
    OutCanonical (program i p body s) := by
  unfold Machine.program
  split
  · exact OutCanonical.fault
  · split
    · exact OutCanonical.fault
    · extract_lets x
      have hx : x.Canonical := issueOf h
      clear_value x
      split
      next w' e'' =>
        have hw' : StopCanonical w' := Gives.elim (P := StopCanonical) e'' Plan_check
        exact OutCanonical.next (issue_stop hx hw')
      · split
        next s2 e''' =>
          have hs2 : s2.MemoryCanonical := Yields.elim e''' (hbody _ hx)
          exact OutCanonical.next hs2
        next e''' e'''' =>
          have he''' : StopCanonical e''' := Yields.stop e'''' (hbody _ hx)
          exact OutCanonical.next (issue_stop hx he''')

theorem issue_hold {x : Issue} {w m} (h : s.MemoryCanonical) : StopCanonical (x.hold s w m) := StopCanonical.hold (wait h)
theorem issue_goTo {next} (h : x.Canonical) : (x.goTo next).Canonical := Issue.Canonical.mk h.s h.pre
theorem issue_plain (h : x.Canonical) : x.plain.Canonical := Issue.Canonical.mk h.s h.pre
theorem issue_onGroup {f} (h : x.Canonical) : (x.onGroup f).MemoryCanonical := issue_seq (updGroup h.s) h

end Canonical

end Sys2Proof.Machine
end


section
/-! Memory stays in its canonical form under register instructions and over the life of a logged access.
Each theorem is named after the function of the model that it speaks of. -/
namespace Sys2Proof.Machine
open Sys2Proof

namespace Canonical
variable {s : State} {x : Issue}

/-! ## Register instructions -/

theorem issue_wroteV {w d k tag rs} (h : x.Canonical) : (x.wroteV w d k tag rs).MemoryCanonical := count (updGroup h.s)

theorem issue_wroteU {w d k r} (h : x.Canonical) : (x.wroteU w d k r).MemoryCanonical := by
  unfold Issue.wroteU
  extract_lets s1
  have hs1 : s1.MemoryCanonical := updGroup h.s
  clear_value s1
  exact either (count hs1) hs1

theorem wroteWords {o k ws} (h : x.Canonical) : (wroteWords o x k ws).MemoryCanonical := by
  unfold Machine.wroteWords
  exact updGroup h.s

theorem wroteP {o rs} (h : x.Canonical) : (wroteP o x rs).MemoryCanonical := by
  unfold Machine.wroteP
  exact updGroup h.s

theorem wroteQ {o b} (h : x.Canonical) : (wroteQ o x b).MemoryCanonical := by
  unfold Machine.wroteQ
  exact updGroup h.s

theorem vOp {i o q} (tie : ∀ x, Yields (fun _ => True) (q.tie x)) (h : s.MemoryCanonical) : OutCanonical (Machine.vOp i o q s) := by
  unfold Machine.vOp
  exact program h fun x hx => Yields.bind issue_classes fun _ _ => Yields.map (tie x) fun _ _ => issue_seq (issue_wroteV hx) hx

theorem uOp {i o q} (h : s.MemoryCanonical) : OutCanonical (uOp i o q s) := by
  unfold Machine.uOp
  exact program h (fun _ hu => Yields.ok (issue_seq (issue_wroteU hu) hu))

/-! ## Conversions and packed arithmetic -/

theorem execFcmp {o} (h : s.MemoryCanonical) : OutCanonical (execFcmp o s) := by
  unfold Machine.execFcmp
  exact program h (fun _ hu => Yields.map issue_classes (fun _ _ => issue_seq (wroteP hu) hu))

theorem widthCheck {a k} : Yields (fun _ => True) (widthCheck x a k) := by
  unfold Machine.widthCheck
  split
  · exact Yields.error StopCanonical.wait
  · exact Yields.ok trivial

theorem execCvt {o} (h : s.MemoryCanonical) : OutCanonical (execCvt o s) := by
  unfold Machine.execCvt
  exact program h (fun _ hu => Yields.bind widthCheck (fun _ _ => Yields.map issue_classes (fun _ _ => issue_seq (issue_wroteV hu) hu)))

theorem qntTags {o} : Yields (fun _ => True) (qntTags x o) := by
  unfold Machine.qntTags
  extract_lets ok
  split
  · exact Yields.error StopCanonical.trap
  · exact Yields.ok trivial

theorem execQnt {o} (h : s.MemoryCanonical) : OutCanonical (execQnt o s) := by
  unfold Machine.execQnt
  exact program h (fun _ hu => Yields.bind qntTags (fun _ _ => Yields.map issue_classes (fun _ _ => issue_seq (issue_wroteV hu) hu)))

theorem tagged {a} : Yields (fun _ => True) (tagged x a) := by
  unfold Machine.tagged
  split
  · exact Yields.error StopCanonical.trap
  · exact Yields.ok trivial

theorem execDqn {o} (h : s.MemoryCanonical) : OutCanonical (execDqn o s) := by
  unfold Machine.execDqn
  exact program h (fun _ hu => Yields.bind tagged (fun _ _ => Yields.map issue_classes (fun _ _ => issue_seq (issue_wroteV (issue_claims hu)) hu)))

theorem execAmax {o} (h : s.MemoryCanonical) : OutCanonical (execAmax o s) := by
  unfold Machine.execAmax
  exact program h (fun _ hu => Yields.bind tagged
      (fun _ _ => Yields.bind widthCheck (fun _ _ => Yields.map issue_classes (fun _ _ => issue_seq (issue_wroteV hu) hu))))

theorem codebookOf {ta} : Yields (fun _ => True) (codebookOf x ta) := by
  unfold Machine.codebookOf
  split
  · exact Yields.error StopCanonical.trap
  · exact Yields.ok trivial

theorem execCblk {o} (h : s.MemoryCanonical) : OutCanonical (execCblk o s) := by
  unfold Machine.execCblk
  exact program h (fun _ hu => Yields.bind tagged (fun _ _ => Yields.map codebookOf (fun _ _ => issue_seq (issue_wroteV hu) hu)))

theorem packedOp_tie {o three f} : Yields (fun _ => True) ((packedOp o three f).tie x) := issue_tied

/-! ## What memory instructions share -/

theorem issue_gate : Yields (fun _ => True) x.gate := by
  unfold Issue.gate
  split
  · exact Yields.error StopCanonical.wait
  · exact Yields.ok trivial

theorem issue_settledEntries : Yields (fun _ => True) x.settledEntries := Yields.either (Yields.ok trivial) (Yields.error StopCanonical.wait)

theorem issue_releaseGate {scope} : Yields (fun _ => True) (x.releaseGate scope) :=
  Yields.bind issue_settledEntries
      (fun _ _ => Yields.either (Yields.ok trivial)
      (Yields.either (Yields.error StopCanonical.wait) (Yields.either (Yields.error StopCanonical.wait) (Yields.ok trivial))))

theorem issue_writeThrough {system} (h : x.Canonical) : Yields (fun _ => True) (x.writeThrough system) := by
  unfold Issue.writeThrough
  refine Yields.either (Yields.ok trivial) ?_
  split
  next s1 _ e =>
    have hs1 : s1.MemoryCanonical := carried (P := fun p => p.1.MemoryCanonical) e (touched (State.drain_touches ..) h.pre)
    exact Yields.error (issue_hold (updGroup hs1))

theorem firstFail {α : Type} {u : Bool} {l : List (Nat × Except (Nat × Trap) α)} : Yields (fun _ => True) (firstFail u l) := by
  unfold Machine.firstFail
  extract_lets bad
  split
  · exact Yields.error StopCanonical.trap
  · exact Yields.ok trivial

theorem lockCheck {α : Type} {u : Bool} {l : List (Nat × α)} {hit : α → Bool} {addr : Nat → Nat} :
    Yields (fun _ => True) (lockCheck u l hit addr) := by
  unfold Machine.lockCheck
  split
  · exact Yields.error StopCanonical.trap
  · exact Yields.ok trivial

theorem issue_enterLog {i e} (h : x.Canonical) : (x.enterLog i e).MemoryCanonical := by
  unfold Issue.enterLog
  extract_lets e' src
  have hsrc : src.MemoryCanonical := h.s
  clear_value src
  exact updCore (set hsrc)

theorem issue_take {e} (h : x.Canonical) : Yields State.MemoryCanonical (x.take e) := by
  unfold Issue.take
  split
  · exact Yields.error StopCanonical.wait
  · exact Yields.ok (issue_enterLog h)

theorem issue_places {a} : Yields (fun _ => True) (x.places a) := firstFail
theorem issue_unlocked {a ias} : Yields (fun _ => True) (x.unlocked a ias) := lockCheck
theorem issue_orderGate {e} : Yields (fun _ => True) (x.orderGate e) := Yields.either issue_releaseGate (Yields.ok trivial)
theorem issue_throughGate {e} (h : x.Canonical) : Yields (fun _ => True) (x.throughGate e) :=
  Yields.either (issue_writeThrough h) (Yields.ok trivial)
theorem issue_awaits {x : Issue} {a uid} (h : s.MemoryCanonical) : (x.awaits a uid s).MemoryCanonical := either (updGroup h) h

theorem issue_global {a} (h : x.Canonical) : Yields State.MemoryCanonical (x.global a) :=
  Yields.bind issue_places
      (fun _ _ => Yields.bind issue_unlocked
      (fun _ _ => Yields.bind issue_gate
      (fun _ _ => Yields.bind issue_orderGate
      (fun _ _ => Yields.either (Yields.ok (issue_seq (issue_awaits h.s) h))
      (Yields.bind (issue_throughGate h) (fun _ _ => Yields.map (issue_take h) (fun _ hx'''''' => issue_seq (issue_awaits hx'''''') h)))))))

/-! ## The life of a logged access -/

theorem setEntry_ {core i e} (h : s.MemoryCanonical) : (s.setEntry_ core i e).MemoryCanonical := updCore h

theorem stage {l g} (h : s.MemoryCanonical) : (s.stage l g).MemoryCanonical := by
  unfold State.stage
  split
  · exact setEntry_ h
  · exact h

theorem wakeTiles {core} (h : s.MemoryCanonical) : (s.wakeTiles core).MemoryCanonical := set h

theorem freeEntry {core i} (h : s.MemoryCanonical) : (s.freeEntry core i).MemoryCanonical := by
  unfold State.freeEntry
  split
  · exact h
  · extract_lets s0 s1 s2
    have hs0 : s0.MemoryCanonical := updCore h
    have hs1 : s1.MemoryCanonical := either (wakeTiles hs0) hs0
    have hs2 : s2.MemoryCanonical := updTeam hs1
    clear_value s0 s1 s2
    exact wakeLogs (wakeTeam hs2)

theorem finishLane {l v t} (h : s.MemoryCanonical) : (s.finishLane l v t).MemoryCanonical := by
  unfold State.finishLane
  split
  · exact h
  · extract_lets s1 s2 e'' s3
    have hs1 : s1.MemoryCanonical := by
      unfold s1
      split
      · exact updGroup h
      · exact h
    have hs2 : s2.MemoryCanonical := by
      unfold s2
      split
      · exact updTeam hs1
      · exact hs1
    have hs3 : s3.MemoryCanonical := setEntry_ hs2
    clear_value s1 s2 s3
    exact either hs3 (freeEntry hs3)

theorem laneTrap {l tr} (h : s.MemoryCanonical) : (s.laneTrap l tr).MemoryCanonical := by
  unfold State.laneTrap
  split
  · exact take h
  · exact h

theorem accessFault {core i cause} (h : s.MemoryCanonical) : (s.accessFault core i cause).MemoryCanonical := by
  unfold State.accessFault
  split
  · exact h
  · split
    · exact h
    · exact take h

theorem refresh {core line mask data atomic} (h : s.MemoryCanonical) : (s.refresh core line mask data atomic).MemoryCanonical := by
  unfold State.refresh
  extract_lets d x s1
  have hs1 : s1.MemoryCanonical := either (touched (State.setL2_touches ..) h) h
  clear_value s1
  exact either (l1Drop hs1) hs1

theorem homeRead {ia n l system} (h : s.MemoryCanonical) : (s.homeRead ia n l system).2.MemoryCanonical := by
  unfold State.homeRead
  extract_lets line s1 x fresh s1'
  have hs1 : s1.MemoryCanonical := touched (State.flushSlice_touches ..) h
  have hs1' : s1'.MemoryCanonical := touched (State.fillSlice_touches ..) h
  clear_value s1 s1'
  split
  · exact h
  · split
    · exact either (touched (State.setSlice_touches ..) hs1) hs1
    · exact hs1'

theorem homeWrite {ia l bs} (h : s.MemoryCanonical) : (s.homeWrite ia l bs).1.MemoryCanonical := by
  unfold State.homeWrite
  split
  · exact writeFrame (touched (State.touch_touches ..) h)
  · split
    exact touched (State.homeMerge_touches ..) h

theorem homeAtomic {core e x l system} (h : s.MemoryCanonical) : (s.homeAtomic core e x l system).1.MemoryCanonical := by
  unfold State.homeAtomic
  extract_lets s0 bad
  have hs0 : s0.MemoryCanonical := touched (State.gather_touches ..) h
  clear_value s0
  split
  next s1 e' =>
    have hs1 : s1.MemoryCanonical := carried (P := fun p => p.2.MemoryCanonical) e' (homeRead hs0)
    extract_lets old
    split
    · exact hs1
    · split
      extract_lets out
      split
      next s1' _ e''' =>
        have hs1' : s1'.MemoryCanonical := carried (P := fun p => p.1.MemoryCanonical) e''' (homeWrite hs1)
        split
        exact count (refresh hs1')

theorem tileArrive {core e x bs} (h : s.MemoryCanonical) : (s.tileArrive core e x bs).MemoryCanonical := updCore h

theorem renew {core ia bs} (h : s.MemoryCanonical) : (s.renew core ia bs).MemoryCanonical := by
  unfold State.renew
  split
  extract_lets s1
  have hs1 : s1.MemoryCanonical := refresh h
  clear_value s1
  exact updCore hs1

theorem tileRead {core e x} (h : s.MemoryCanonical) : (s.tileRead core e x).1.MemoryCanonical := tileArrive (renew h)

theorem apertureWalk {l e x f} (h : s.MemoryCanonical) : (s.apertureWalk l e x f).MemoryCanonical := by
  unfold State.apertureWalk
  refine either (stage (writeFrame (touched (State.touch_touches ..) h))) ?_
  extract_lets bs s1
  have hs1 : s1.MemoryCanonical := touched (State.touch_touches ..) h
  clear_value s1
  exact either (stage (tileArrive hs1)) (stage hs1)

theorem pageWalk {l e x} (h : s.MemoryCanonical) : (s.pageWalk l e x).MemoryCanonical := by
  unfold State.pageWalk
  extract_lets d
  split
  · exact stage h
  · refine either (apertureWalk h) ?_
    refine either ?_ ?_
    · split
      next s1 _ _ _ e'' =>
        have hs1 : s1.MemoryCanonical := carried (P := fun p => p.1.MemoryCanonical) e'' (homeAtomic h)
        exact stage hs1
    · split
      · extract_lets s1 y bs
        have hs1 : s1.MemoryCanonical := touched (State.grant_touches ..) h
        clear_value s1
        exact stage (either hs1 (renew hs1))
      · exact touched (State.grant_touches ..) (touched (State.touch_touches ..) h)
      · exact touched (State.grant_touches ..) (touched (State.touch_touches ..) h)
      · exact touched (State.grant_touches ..) (touched (State.touch_touches ..) h)
      · exact touched (State.grant_touches ..) (touched (State.touch_touches ..) h)
      · split
        next s2 _ e''' =>
          have hs2 : s2.MemoryCanonical := carried (P := fun p => p.1.MemoryCanonical) e''' (tileRead (touched (State.grant_touches ..) h))
          exact stage hs2

theorem execPageWalk {l} (h : s.MemoryCanonical) : OutCanonical (execPageWalk l s) := by
  unfold Machine.execPageWalk
  split
  · exact OutCanonical.either (OutCanonical.next (pageWalk h)) OutCanonical.fault
  · exact OutCanonical.fault

theorem releaseAtHome {l e x} (h : s.MemoryCanonical) : (s.releaseAtHome l e x).MemoryCanonical := by
  unfold State.releaseAtHome
  split
  · exact stage h
  · extract_lets line d record bs s0
    have hrecord : ∀ u, u.MemoryCanonical → (record u).MemoryCanonical := fun _ hu => either (touched (State.recordRelease_touches ..) hu) hu
    have hs0 : s0.MemoryCanonical := either (touched (State.gather_touches ..) h) h
    clear_value record s0
    refine either ?_ ?_
    · split
      next s1 _ _ _ e'' =>
        have hs1 : s1.MemoryCanonical := carried (P := fun p => p.1.MemoryCanonical) e'' (homeAtomic h)
        exact stage (either hs1 (hrecord _ hs1))
    · split
      next s1 _ e'' =>
        have hs1 : s1.MemoryCanonical := carried (P := fun p => p.1.MemoryCanonical) e'' (homeWrite hs0)
        split
        extract_lets s2
        have hs2 : s2.MemoryCanonical := either (l1Store (refresh hs1)) hs1
        clear_value s2
        exact stage (hrecord _ hs2)

theorem execReleaseAtHome {l} (h : s.MemoryCanonical) : OutCanonical (execReleaseAtHome l s) := by
  unfold Machine.execReleaseAtHome
  split
  · exact OutCanonical.either (OutCanonical.next (releaseAtHome h)) OutCanonical.fault
  · exact OutCanonical.fault

theorem acquireLoad {l e x f} (h : s.MemoryCanonical) : (s.acquireLoad l e x f).MemoryCanonical := by
  unfold State.acquireLoad
  extract_lets s0 bad
  have hs0 : s0.MemoryCanonical := touched (State.touch_touches ..) h
  clear_value s0
  split
  next s1 e' =>
    have hs1 : s1.MemoryCanonical := carried (P := fun p => p.2.MemoryCanonical) e' (homeRead hs0)
    extract_lets s2
    have hs2 : s2.MemoryCanonical := touched (State.settle_touches ..) (either (renew hs1) hs1)
    clear_value s2
    exact stage hs2

theorem acquireAtHome {l e x} (h : s.MemoryCanonical) : (s.acquireAtHome l e x).MemoryCanonical := by
  unfold State.acquireAtHome
  extract_lets line s0
  have hs0 : s0.MemoryCanonical := either (touched (State.cleanL2_touches ..) h) h
  clear_value s0
  split
  · exact stage h
  · refine either ?_ (either hs0 (acquireLoad hs0))
    split
    next s1 _ _ _ e'' =>
      have hs1 : s1.MemoryCanonical := carried (P := fun p => p.1.MemoryCanonical) e'' (homeAtomic h)
      extract_lets s2
      have hs2 : s2.MemoryCanonical := updGroup (touched (State.settle_touches ..) hs1)
      clear_value s2
      exact stage hs2

theorem execAcquireAtHome {l} (h : s.MemoryCanonical) : OutCanonical (execAcquireAtHome l s) := by
  unfold Machine.execAcquireAtHome
  split
  · exact OutCanonical.either (OutCanonical.next (acquireAtHome h)) OutCanonical.fault
  · exact OutCanonical.fault

theorem fillGranted {core e x} (h : s.MemoryCanonical) : (s.fillGranted core e x).MemoryCanonical := by
  unfold State.fillGranted
  split
  · exact either (l1Fill h) h
  · exact h

theorem cachedLoad {core e x} (h : s.MemoryCanonical) : Gives (fun p => p.2.2.MemoryCanonical) (s.cachedLoad core e x) := by
  unfold State.cachedLoad
  extract_lets d line o y bs
  split
  split
  · extract_lets s1
    have hs1 : s1.MemoryCanonical := updCore h
    clear_value s1
    exact Gives.some hs1
  · exact Gives.either (Gives.some (either (fillGranted h) (renew h))) Gives.none

theorem cachedAtomic {core e x} (h : s.MemoryCanonical) : (s.cachedAtomic core e x).2.2.2.MemoryCanonical := by
  unfold State.cachedAtomic
  extract_lets d line l1 y
  split
  split
  extract_lets out
  split
  split
  next s1 _ e'''' =>
    have hs1 : s1.MemoryCanonical := carried (P := fun p => p.1.MemoryCanonical) e'''' (touched (State.l2Write_touches ..) h)
    extract_lets s2
    have hs2 : s2.MemoryCanonical := either (l1Store hs1) (l1Drop hs1)
    clear_value s2
    exact count hs2

theorem return_ {l v bad t} (h : s.MemoryCanonical) : (s.return_ l v bad t).MemoryCanonical := either (laneTrap h) (finishLane h)

theorem atomicReturns {l e x} (h : s.MemoryCanonical) : (s.atomicReturns l e x).MemoryCanonical := by
  unfold State.atomicReturns
  split
  next s1 e' =>
    have hs1 : s1.MemoryCanonical := carried (P := fun p => p.2.2.2.MemoryCanonical) e' (cachedAtomic h)
    exact either (laneTrap h) (finishLane hs1)

theorem loadReturns {l e x v bad} (h : s.MemoryCanonical) : (s.loadReturns l e x v bad).MemoryCanonical := return_ h
theorem tileReturns {l bad} (h : s.MemoryCanonical) : (s.tileReturns l bad).MemoryCanonical := either (laneTrap h) (finishLane h)

theorem dataReturns {l e x} (h : s.MemoryCanonical) : Gives State.MemoryCanonical (s.dataReturns l e x) := by
  unfold State.dataReturns
  split
  · exact Gives.some (loadReturns (fillGranted h))
  · exact Gives.either (Gives.some (loadReturns h)) Gives.none
  · refine Gives.either Gives.none ?_
    refine Gives.map (cachedLoad h) (fun _ hx' => ?_)
    split
    exact loadReturns hx'
  · exact Gives.some (return_ h)
  · exact Gives.either (Gives.some (return_ h)) Gives.none
  · exact Gives.either Gives.none (Gives.some (atomicReturns h))
  · exact Gives.some (tileReturns h)
  · refine Gives.either Gives.none ?_
    split
    next s2 _ e''' =>
      have hs2 : s2.MemoryCanonical := carried (P := fun p => p.1.MemoryCanonical) e''' (tileRead h)
      exact Gives.some (tileReturns hs2)
  · exact Gives.none

theorem execLoadDataReturn {l} (h : s.MemoryCanonical) : OutCanonical (execLoadDataReturn l s) := by
  unfold Machine.execLoadDataReturn
  split
  · exact OutCanonical.fault
  · split
    next t e'' =>
      have ht : t.MemoryCanonical := Gives.elim e'' (dataReturns h)
      exact OutCanonical.next ht
    · exact OutCanonical.fault

theorem holdRange {g a bs n} (h : s.MemoryCanonical) : Gives State.MemoryCanonical (s.holdRange g a bs n) := by
  fun_induction s.holdRange g a bs n
  · exact Gives.some h
  · exact Gives.some h
  next ih => exact Gives.bind (holdStore h) (fun _ hx => ih _ hx)

theorem holdLane {l e x} (h : s.MemoryCanonical) : (s.holdLane l e x).MemoryCanonical := by
  unfold State.holdLane
  extract_lets bs rel
  split
  next t e' =>
    have ht : t.MemoryCanonical := Gives.elim e' (holdRange h)
    extract_lets s2
    have hs2 : s2.MemoryCanonical := either (set ht) ht
    clear_value s2
    exact finishLane hs2
  · exact set h

theorem storeLands {l e x} (h : s.MemoryCanonical) : (s.storeLands l e x).MemoryCanonical := by
  unfold State.storeLands
  extract_lets bs
  split
  split
  next s1 _ e'' =>
    have hs1 : s1.MemoryCanonical := carried (P := fun p => p.1.MemoryCanonical) e'' (touched (State.l2Write_touches ..) h)
    exact finishLane (l1Store hs1)

theorem redLands {l e x} (h : s.MemoryCanonical) : (s.redLands l e x).MemoryCanonical := by
  unfold State.redLands
  split
  next s1 e' =>
    have hs1 : s1.MemoryCanonical := carried (P := fun p => p.2.2.2.MemoryCanonical) e' (cachedAtomic h)
    exact either (laneTrap h) (finishLane hs1)

theorem tileLands {l e x} (h : s.MemoryCanonical) : (s.tileLands l e x).MemoryCanonical := by
  unfold State.tileLands
  split
  split
  next s1 _ e'' =>
    have hs1 : s1.MemoryCanonical := carried (P := fun p => p.1.MemoryCanonical) e'' (touched (State.l2Write_touches ..) h)
    exact finishLane (l1Write hs1)

theorem storeAccepted {l e x} (h : s.MemoryCanonical) : Gives State.MemoryCanonical (s.storeAccepted l e x) := by
  unfold State.storeAccepted
  refine Gives.either (Gives.either (Gives.some (holdLane h)) Gives.none) ?_
  split
  · exact Gives.some (finishLane h)
  · exact Gives.some (finishLane h)
  · exact Gives.some (either (laneTrap h) (finishLane h))
  · exact Gives.either (Gives.some (either (laneTrap h) (finishLane h))) Gives.none
  · exact Gives.either Gives.none (Gives.some (storeLands h))
  · exact Gives.either Gives.none (Gives.some (redLands h))
  · exact Gives.either Gives.none (Gives.some (tileLands h))
  · exact Gives.none

theorem execStoreComplete {l} (h : s.MemoryCanonical) : OutCanonical (execStoreComplete l s) := by
  unfold Machine.execStoreComplete
  split
  · exact OutCanonical.fault
  · split
    next t e'' =>
      have ht : t.MemoryCanonical := Gives.elim e'' (storeAccepted h)
      exact OutCanonical.next ht
    · exact OutCanonical.fault

theorem notePulls {die e t} (h : s.MemoryCanonical) : (s.notePulls die e t).MemoryCanonical := set h

theorem pulled {die e} (h : s.MemoryCanonical) : (s.pulled die e).MemoryCanonical := by
  unfold State.pulled
  split
  next s1 _ e' =>
    have hs1 : s1.MemoryCanonical := carried (P := fun p => p.1.MemoryCanonical) e' (touched (State.pull_touches ..) h)
    exact notePulls hs1

theorem execPull {die e} (h : s.MemoryCanonical) : OutCanonical (execPull die e s) := by
  unfold Machine.execPull
  exact OutCanonical.either (OutCanonical.next (pulled h)) OutCanonical.fault

theorem agePulled {line die e} (h : s.MemoryCanonical) : (s.agePulled line die e).MemoryCanonical := by
  unfold State.agePulled
  split
  next s1 _ e' =>
    have hs1 : s1.MemoryCanonical := carried (P := fun p => p.1.MemoryCanonical) e' (touched (State.pull_touches ..) h)
    exact touched (State.setSlice_touches ..) hs1

theorem execHomeEpochAgePull {line die} (h : s.MemoryCanonical) : OutCanonical (execHomeEpochAgePull line die s) := by
  unfold Machine.execHomeEpochAgePull
  split
  · exact OutCanonical.either (OutCanonical.next (agePulled h)) OutCanonical.fault
  · exact OutCanonical.fault

theorem execDirtyByteDeadline {die line} (h : s.MemoryCanonical) : OutCanonical (execDirtyByteDeadline die line s) := by
  unfold Machine.execDirtyByteDeadline
  exact OutCanonical.either (OutCanonical.next (touched (State.cleanL2_touches ..) h)) OutCanonical.fault

theorem reportLane {l e x level wp peer} (h : s.MemoryCanonical) : Gives State.MemoryCanonical (s.reportLane l e x level wp peer) := by
  unfold State.reportLane
  extract_lets g c src
  refine Gives.either Gives.none ?_
  split
  next s2 _ e' =>
    have hs2 : s2.MemoryCanonical := carried (P := fun p => p.1.MemoryCanonical) e' (touched (State.report_touches ..) h)
    exact Gives.either Gives.none (Gives.some (setEntry_ (updCore hs2)))

theorem responds {l e x} (h : s.MemoryCanonical) : Gives State.MemoryCanonical (s.responds l e x) := by
  unfold State.responds
  split
  · exact Gives.some (accessFault h)
  · exact Gives.either (Gives.some (accessFault h)) (reportLane h)
  · exact Gives.none

end Canonical

end Sys2Proof.Machine
end


section
/-! Memory stays in its canonical form under matrix, memory and engine instructions.
Each theorem is named after the function of the model that it speaks of. -/
namespace Sys2Proof.Machine
open Sys2Proof

namespace Canonical
variable {s : State} {x : Issue}

/-! ## The plane array -/

theorem issue_queue {x : Issue} {w} (h : s.MemoryCanonical) : (x.queue s w).MemoryCanonical := updCore (set h)
theorem issue_tileOrder {reads writes} : Yields (fun _ => True) (x.tileOrder reads writes) :=
  Yields.either (Yields.error StopCanonical.wait) (Yields.ok trivial)
theorem issue_arrayRoom : Yields (fun _ => True) x.arrayRoom := Yields.either (Yields.error StopCanonical.wait) (Yields.ok trivial)
theorem issue_setMuster {x : Issue} {n m} (h : s.MemoryCanonical) : (x.setMuster s n m).MemoryCanonical := updTeam h
theorem wakeMuster {id n} (h : s.MemoryCanonical) : (s.wakeMuster id n).MemoryCanonical := updTeam h

theorem execMset {o} (h : s.MemoryCanonical) : OutCanonical (execMset o s) := by
  unfold Machine.execMset
  exact program h (fun _ hu => Yields.ok (issue_seq (either (issue_setMuster hu.s) hu.s) hu))

theorem msignEffect {n} (h : x.Canonical) : (msignEffect n x).MemoryCanonical := by
  unfold Machine.msignEffect
  extract_lets m m' s1
  have hs1 : s1.MemoryCanonical := issue_setMuster h.s
  clear_value s1
  exact either (wakeMuster hs1) hs1

theorem execMsign {o} (h : s.MemoryCanonical) : OutCanonical (execMsign o s) := by
  unfold Machine.execMsign
  exact program h (fun _ hu => Yields.either (Yields.ok (issue_seq hu.s hu))
      (Yields.either (Yields.error StopCanonical.wait)
      (Yields.either (Yields.error StopCanonical.trap) (Yields.ok (issue_seq (msignEffect hu) hu)))))

theorem execMstat {o} (h : s.MemoryCanonical) : OutCanonical (execMstat o s) := by
  unfold Machine.execMstat
  exact program h (fun _ hu => Yields.ok (issue_seq (updGroup hu.s) hu))

theorem mwaitStop {o} : StopCanonical (mwaitStop o x) := by
  unfold Machine.mwaitStop
  exact StopCanonical.either StopCanonical.wait StopCanonical.wait

theorem execMwait {o} (h : s.MemoryCanonical) : OutCanonical (execMwait o s) := by
  unfold Machine.execMwait
  exact program h (fun _ hu => Yields.either (Yields.ok (issue_seq hu.s hu)) (Yields.error mwaitStop))

theorem tileRange {tensor a} : Yields (fun _ => True) (tileRange x tensor a) := by
  unfold Machine.tileRange
  exact Yields.either (Yields.either (Yields.ok trivial) (Yields.error StopCanonical.trap))
      (Yields.either (Yields.error StopCanonical.trap) (Yields.either (Yields.ok trivial) (Yields.error StopCanonical.trap)))

theorem tileGlobal {a perm} : Yields (fun _ => True) (tileGlobal x a perm) := by
  unfold Machine.tileGlobal
  split
  · exact Yields.error StopCanonical.trap
  · split
    · exact Yields.either (Yields.ok trivial) (Yields.error StopCanonical.trap)
    · exact Yields.error StopCanonical.trap

theorem refuse {bad tr} : Yields (fun _ => True) (refuse bad tr) := by
  unfold Machine.refuse
  exact Yields.either (Yields.error StopCanonical.trap) (Yields.ok trivial)

theorem tileReach {o perm write} : Yields (fun _ => True) (tileReach x o perm write) := by
  unfold Machine.tileReach
  exact Yields.bind tileGlobal (fun _ _ => Yields.map refuse (fun _ _ => trivial))

theorem tldTagged {x : Issue} {o} (h : s.MemoryCanonical) : (tldTagged x o s).MemoryCanonical := by
  unfold Machine.tldTagged
  exact updCore h

theorem tileLogged {o store i ias} (h : x.Canonical) : (tileLogged x o store i ias).MemoryCanonical := by
  unfold Machine.tileLogged
  exact updCore (issue_enterLog h)

theorem tldLocal {o b} (h : x.Canonical) : (tldLocal x o b).MemoryCanonical := by
  unfold Machine.tldLocal
  exact tldTagged (issue_queue h.s)

theorem tstLocal {o b} (h : x.Canonical) : (tstLocal x o b).MemoryCanonical := by
  unfold Machine.tstLocal
  extract_lets bs src
  have hsrc : src.MemoryCanonical := h.s
  clear_value src
  exact updGroup (issue_queue (made (Memory.wf_writeBytes _ _ _ (State.MemoryCanonical.mem h.s)) (State.MemoryCanonical.ext hsrc)))

theorem tileTake {o store ias} (h : x.Canonical) : Yields State.MemoryCanonical (tileTake x o store ias) := by
  unfold Machine.tileTake
  split
  · exact Yields.error StopCanonical.wait
  · exact Yields.ok (tileLogged h)

theorem execTld {o} (h : s.MemoryCanonical) : OutCanonical (execTld o s) := by
  unfold Machine.execTld
  exact program h (fun _ hu => Yields.either (Yields.ok (issue_seq hu.s hu))
      (Yields.either (Yields.bind tileReach
      (fun _ _ => Yields.bind issue_gate
      (fun _ _ => Yields.bind issue_tileOrder (fun _ _ => Yields.map (tileTake hu) (fun _ hx''' => issue_seq (tldTagged hx''') hu)))))
      (Yields.bind tileRange
      (fun _ _ => Yields.bind issue_gate
      (fun _ _ => Yields.bind issue_tileOrder
      (fun _ _ => Yields.either (Yields.error StopCanonical.wait) (Yields.ok (issue_seq (tldLocal hu) hu))))))))

theorem execTst {o} (h : s.MemoryCanonical) : OutCanonical (execTst o s) := by
  unfold Machine.execTst
  exact program h (fun _ hu => Yields.either (Yields.ok (issue_seq hu.s hu))
      (Yields.either (Yields.bind tileReach
      (fun _ _ => Yields.bind issue_gate
      (fun _ _ => Yields.bind issue_tileOrder (fun _ _ => Yields.map (tileTake hu) (fun _ hx''' => issue_seq hx''' hu)))))
      (Yields.bind tileRange
      (fun _ _ => Yields.bind refuse
      (fun _ _ => Yields.bind issue_gate (fun _ _ => Yields.map issue_tileOrder (fun _ _ => issue_seq (tstLocal hu) hu)))))))

theorem tzeroEffect {o} (h : x.Canonical) : (tzeroEffect o x).MemoryCanonical := by
  unfold Machine.tzeroEffect
  exact updCore (issue_queue h.s)

theorem execTzero {o} (h : s.MemoryCanonical) : OutCanonical (execTzero o s) := by
  unfold Machine.execTzero
  exact program h (fun _ hu => Yields.either (Yields.ok (issue_seq hu.s hu))
      (Yields.map issue_tileOrder (fun _ _ => issue_seq (tzeroEffect hu) hu)))

theorem accCheck {t} : Yields (fun _ => True) (accCheck x t) := by
  unfold Machine.accCheck
  exact Yields.either (Yields.error StopCanonical.trap) (Yields.either (Yields.error StopCanonical.trap) (Yields.ok trivial))

theorem tcvtEffect {o} (h : x.Canonical) : (tcvtEffect o x).MemoryCanonical := by
  unfold Machine.tcvtEffect
  exact updCore (issue_queue h.s)

theorem execTcvt {o} (h : s.MemoryCanonical) : OutCanonical (execTcvt o s) := by
  unfold Machine.execTcvt
  exact program h (fun _ hu => Yields.bind accCheck
      (fun _ _ => Yields.either (Yields.ok (issue_seq hu.s hu))
      (Yields.bind issue_tileOrder (fun _ _ => Yields.map issue_arrayRoom (fun _ _ => issue_seq (tcvtEffect hu) hu)))))

theorem tamaxEffect {o} (h : x.Canonical) : (tamaxEffect o x).MemoryCanonical := by
  unfold Machine.tamaxEffect
  exact updGroup (issue_queue h.s)

theorem execTamax {o} (h : s.MemoryCanonical) : OutCanonical (execTamax o s) := by
  unfold Machine.execTamax
  exact program h (fun _ hu => Yields.bind accCheck
      (fun _ _ => Yields.either (Yields.ok (issue_seq (updGroup hu.s) hu)) (Yields.map issue_tileOrder (fun _ _ => issue_seq (tamaxEffect hu) hu))))

theorem mmaFormats {o} : Yields (fun _ => True) (mmaFormats x o) := by
  unfold Machine.mmaFormats
  extract_lets kc acc
  split
  split
  · exact Yields.error StopCanonical.trap
  · exact Yields.ok trivial

theorem mmaSign {x : Issue} {o} (h : s.MemoryCanonical) : (mmaSign x o s).MemoryCanonical := by
  unfold Machine.mmaSign
  exact updCore (set h)

theorem mmaGo {x : Issue} {o} {base : State} (h : s.MemoryCanonical) (hx : x.Canonical) (hbase : base.MemoryCanonical) :
    Yields State.MemoryCanonical (mmaGo x o s base) := by
  unfold Machine.mmaGo
  exact Yields.either (Yields.error (issue_hold h))
      (Yields.either (Yields.error (issue_hold (mmaSign h))) (Yields.ok (issue_seq (issue_queue hbase) hx)))

theorem mmaReopen {x : Issue} {o} (h : s.MemoryCanonical) : (mmaReopen x o s).MemoryCanonical := by
  unfold Machine.mmaReopen
  exact issue_setMuster h

theorem execMma {o} (h : s.MemoryCanonical) : OutCanonical (execMma o s) := by
  unfold Machine.execMma
  exact program h (fun _ hu => Yields.either (Yields.ok (issue_seq hu.s hu))
      (Yields.either (Yields.either (Yields.error StopCanonical.wait) (Yields.ok (issue_seq hu.s hu)))
      (Yields.bind mmaFormats
      (fun _ _ => Yields.either (Yields.ok (issue_seq hu.s hu))
      (Yields.either (mmaGo (updGroup (mmaReopen hu.pre)) hu (mmaReopen hu.s)) (mmaGo hu.pre hu hu.s))))))

theorem startMates {core a b} (h : s.MemoryCanonical) : (s.startMates core a b).MemoryCanonical := by
  unfold State.startMates
  extract_lets m
  split
  split
  extract_lets at_
  split
  extract_lets low s1
  have hs1 : s1.MemoryCanonical := setCore (setCore h)
  clear_value s1
  exact updGroup (updGroup hs1)

theorem execMateAgreement {core} (h : s.MemoryCanonical) : OutCanonical (execMateAgreement core s) := by
  unfold Machine.execMateAgreement
  split
  · exact OutCanonical.either OutCanonical.fault (OutCanonical.either (OutCanonical.next (raiseTrap h)) (OutCanonical.next (startMates h)))
  · exact OutCanonical.fault

theorem execPairTimeout {core} (h : s.MemoryCanonical) : OutCanonical (execPairTimeout core s) := by
  unfold Machine.execPairTimeout
  split
  · exact OutCanonical.fault
  · exact OutCanonical.either OutCanonical.fault (OutCanonical.next (raiseTrap h))

theorem endTile {core uid} (h : s.MemoryCanonical) : (s.endTile core uid).MemoryCanonical := wakeTiles (updCore h)

theorem tileDone {core uid p} (h : s.MemoryCanonical) : Gives State.MemoryCanonical (s.tileDone core uid p) := by
  unfold State.tileDone
  extract_lets c rs fill r
  split
  · split
    exact Gives.some (endTile (count (setCore h)))
  · exact Gives.some (endTile (setCore h))
  · exact Gives.some (endTile (setCore h))
  · exact Gives.some (endTile h)
  · extract_lets s1 s2
    have hs1 : s1.MemoryCanonical := updGroup h
    have hs2 : s2.MemoryCanonical := wakeTeam hs1
    clear_value s1 s2
    exact Gives.some (endTile (count hs2))
  · exact Gives.none

theorem execTileOperationComplete {core uid} (h : s.MemoryCanonical) : OutCanonical (execTileOperationComplete core uid s) := by
  unfold Machine.execTileOperationComplete
  split
  · exact OutCanonical.fault
  · split
    next t e' =>
      have ht : t.MemoryCanonical := Gives.elim e' (tileDone h)
      exact OutCanonical.next ht
    · exact OutCanonical.fault

theorem mmaDone {core p} (h : s.MemoryCanonical) : Gives State.MemoryCanonical (s.mmaDone core p) := by
  unfold State.mmaDone
  split
  · refine Gives.either Gives.none ?_
    extract_lets s0 c els w byte
    have hs0 : s0.MemoryCanonical := chargePasses h
    clear_value s0
    exact Gives.some (endTile (count (setCore hs0)))
  · exact Gives.none

theorem execMmaComplete {core} (h : s.MemoryCanonical) : OutCanonical (execMmaComplete core s) := by
  unfold Machine.execMmaComplete
  split
  · split
    next t e' =>
      have ht : t.MemoryCanonical := Gives.elim e' (mmaDone h)
      exact OutCanonical.next ht
    · exact OutCanonical.fault
  · exact OutCanonical.fault

theorem cbldPlace {o} : Yields (fun _ => True) (cbldPlace o x) := by
  unfold Machine.cbldPlace
  exact Yields.either (Yields.error StopCanonical.trap)
      (Yields.either (Yields.error StopCanonical.trap) (Yields.either (Yields.error StopCanonical.wait) (Yields.ok trivial)))

theorem cbldEffect {o b} (h : x.Canonical) : (cbldEffect o x b).MemoryCanonical := by
  unfold Machine.cbldEffect
  exact updCore h.s

theorem execCbld {o} (h : s.MemoryCanonical) : OutCanonical (execCbld o s) := by
  unfold Machine.execCbld
  exact program h (fun _ hu => Yields.either (Yields.ok (issue_seq hu.s hu))
      (Yields.bind cbldPlace (fun _ _ => Yields.map issue_gate (fun _ _ => issue_seq (cbldEffect hu) hu))))

theorem tagOld {v write} : Yields (fun _ => True) (tagOld x v write) := by
  unfold Machine.tagOld
  refine Yields.either ?_ (Yields.map issue_tileOrder (fun _ _ => trivial))
  split
  · exact Yields.error StopCanonical.wait
  · exact Yields.ok trivial

theorem execTagr {o} (h : s.MemoryCanonical) : OutCanonical (execTagr o s) := by
  unfold Machine.execTagr
  exact program h (fun _ hu => Yields.either (Yields.ok (issue_seq (wroteWords hu) hu))
      (Yields.map tagOld (fun _ _ => issue_seq (wroteWords hu) hu)))

theorem tagwEffect {o old} (h : x.Canonical) : (tagwEffect o x old).MemoryCanonical := by
  unfold Machine.tagwEffect
  extract_lets v new s1
  have hs1 : s1.MemoryCanonical := wroteWords h
  clear_value s1
  exact either (updGroup hs1) (updCore hs1)

theorem execTagw {o} (h : s.MemoryCanonical) : OutCanonical (execTagw o s) := by
  unfold Machine.execTagw
  exact program h (fun _ hu => Yields.either (Yields.ok (issue_seq (wroteWords hu) hu))
      (Yields.map tagOld (fun _ _ => issue_seq (tagwEffect hu) hu)))

/-! ## Memory instructions -/

theorem execLd {o} (h : s.MemoryCanonical) : OutCanonical (execLd o s) := by
  unfold Machine.execLd
  exact program h (fun _ hu => Yields.bind issue_classes (fun _ _ => issue_global hu))

theorem execLdU {o} (h : s.MemoryCanonical) : OutCanonical (execLdU o s) := by
  unfold Machine.execLdU
  exact program h (fun _ hu => issue_global hu)

theorem execSt {o} (h : s.MemoryCanonical) : OutCanonical (execSt o s) := by
  unfold Machine.execSt
  exact program h (fun _ hu => Yields.bind issue_classes (fun _ _ => issue_global hu))

theorem execStU {o} (h : s.MemoryCanonical) : OutCanonical (execStU o s) := by
  unfold Machine.execStU
  exact program h (fun _ hu => issue_global hu)

theorem padsOf {a b imm n} : Yields (fun _ => True) (padsOf x a b imm n) := by
  unfold Machine.padsOf
  exact firstFail

theorem localLoaded {o rs} (h : x.Canonical) : (localLoaded o rs x).MemoryCanonical := by
  unfold Machine.localLoaded
  exact updGroup h.s

theorem padsClear {n ps} : Yields (fun _ => True) (padsClear x n ps) := by
  unfold Machine.padsClear
  exact Yields.either (Yields.error StopCanonical.wait) (Yields.ok trivial)

theorem execLds {o} (h : s.MemoryCanonical) : OutCanonical (execLds o s) := by
  unfold Machine.execLds
  exact program h (fun _ hu => Yields.bind issue_classes
      (fun _ _ => Yields.bind padsOf
      (fun _ _ => Yields.bind issue_gate
      (fun _ _ => Yields.bind padsClear (fun _ _ => Yields.either (Yields.ok (issue_seq (localLoaded hu) hu)) (Yields.error StopCanonical.wait))))))

theorem localRelease {rel scope} (h : x.Canonical) : Yields (fun _ => True) (localRelease x rel scope) := by
  unfold Machine.localRelease
  exact Yields.bind issue_gate
      (fun _ _ => Yields.either (Yields.bind issue_releaseGate (fun _ _ => Yields.either (issue_writeThrough h) (Yields.ok trivial)))
      (Yields.ok trivial))

theorem epochTaken {x : Issue} {rel scope any} (h : s.MemoryCanonical) : (epochTaken x rel scope any s).MemoryCanonical := by
  unfold Machine.epochTaken
  exact either (touched (State.updDie_touches ..) h) h

theorem stored {x : Issue} {any} (h : s.MemoryCanonical) : (stored x any s).MemoryCanonical := by
  unfold Machine.stored
  exact updGroup h

theorem padSends {o} {x : Issue} {l p} (h : s.MemoryCanonical) : (padSends o x s l p).MemoryCanonical := by
  unfold Machine.padSends
  exact touched (State.keep_touches ..) (set h)

theorem stsEffect {o ps} (h : x.Canonical) : (stsEffect o x ps).MemoryCanonical := by
  unfold Machine.stsEffect
  extract_lets near src s1
  have hs1 : s1.MemoryCanonical := by
    unfold s1
    refine made ?_ (State.MemoryCanonical.ext h.s)
    refine keptByFold (P := fun m => Memory.wf m = true) (fun _ _ hx' => ?_) (State.MemoryCanonical.mem h.s)
    split
    exact Memory.wf_writeBytes _ _ _ hx'
  clear_value src s1
  refine stored ?_
  refine folded (fun _ _ hx' => ?_) hs1
  split
  exact padSends hx'

theorem execSts {o} (h : s.MemoryCanonical) : OutCanonical (execSts o s) := by
  unfold Machine.execSts
  exact program h (fun _ hu => Yields.bind issue_classes
      (fun _ _ => Yields.bind padsOf
      (fun _ _ => Yields.bind lockCheck
      (fun _ _ => Yields.bind (localRelease hu) (fun _ _ => Yields.map padsClear (fun _ _ => issue_seq (epochTaken (stsEffect hu)) hu))))))

theorem vaultsOf {a b imm n} : Yields (fun _ => True) (vaultsOf x a b imm n) := by
  unfold Machine.vaultsOf
  exact firstFail

theorem issue_vaultWrite {x : Issue} {own cl o bs} (h : s.MemoryCanonical) : (x.vaultWrite own s cl o bs).MemoryCanonical :=
  either (getD (holdStore h) h) (clearVaultPoison (made (Memory.wf_writeBytes _ _ _ (State.MemoryCanonical.mem h)) (State.MemoryCanonical.ext h)))

theorem execLdv {o} (h : s.MemoryCanonical) : OutCanonical (execLdv o s) := by
  unfold Machine.execLdv
  refine program h (fun _ hu => ?_)
  refine Yields.bind issue_classes (fun _ _ => ?_)
  extract_lets n src
  refine Yields.bind vaultsOf (fun _ _ => ?_)
  refine Yields.bind lockCheck (fun _ _ => ?_)
  refine Yields.bind issue_gate (fun _ _ => ?_)
  split
  · exact Yields.error StopCanonical.trap
  · exact Yields.ok (issue_seq (localLoaded hu) hu)

theorem stvEffect {o ps} (h : x.Canonical) : (stvEffect o x ps).MemoryCanonical := by
  unfold Machine.stvEffect
  refine stored ?_
  refine folded (fun _ _ hx' => ?_) h.s
  split
  exact issue_vaultWrite hx'

theorem execStv {o} (h : s.MemoryCanonical) : OutCanonical (execStv o s) := by
  unfold Machine.execStv
  exact program h (fun _ hu => Yields.bind issue_classes
      (fun _ _ => Yields.bind vaultsOf
      (fun _ _ => Yields.bind lockCheck
      (fun _ _ => Yields.either (Yields.error StopCanonical.trap)
      (Yields.map (localRelease hu) (fun _ _ => issue_seq (epochTaken (stvEffect hu)) hu))))))

theorem atmBody {kind o} (h : x.Canonical) : Yields State.MemoryCanonical (atmBody kind o x) := by
  unfold Machine.atmBody
  exact Yields.bind issue_classes (fun _ _ => Yields.either (Yields.error StopCanonical.trap) (issue_global h))

theorem execAtom {o} (h : s.MemoryCanonical) : OutCanonical (execAtom o s) := by
  unfold Machine.execAtom
  exact program h (fun _ hu => atmBody hu)

theorem execAtomU {o} (h : s.MemoryCanonical) : OutCanonical (execAtomU o s) := by
  unfold Machine.execAtomU
  exact program h (fun _ hu => atmBody hu)

theorem execRed {o} (h : s.MemoryCanonical) : OutCanonical (execRed o s) := by
  unfold Machine.execRed
  exact program h (fun _ hu => atmBody hu)

theorem atomsLanes {o l m} (h : Memory.wf m = true) : Memory.wf (Machine.atomsLanes x o m l).1 = true := by
  fun_induction Machine.atomsLanes x o m l with
  | case1 m => exact h
  | case2 m l p r n t old new cnt e m' rs e' q ih =>
    rw [e'] at ih
    exact ih (Memory.wf_writeBytes _ _ _ h)

theorem atomsEffect {o ps} (h : x.Canonical) : (Machine.atomsEffect o x ps).MemoryCanonical := by
  unfold Machine.atomsEffect
  split
  next m rs e =>
    exact count (updGroup (made (carried (P := fun p => Memory.wf p.1 = true) e (atomsLanes h.s.mem)) h.s.ext))

theorem execAtoms {o} (h : s.MemoryCanonical) : OutCanonical (execAtoms o s) := by
  unfold Machine.execAtoms
  exact program h (fun _ hu => Yields.bind issue_classes
      (fun _ _ => Yields.bind padsOf
      (fun _ _ => Yields.bind lockCheck
      (fun _ _ => Yields.bind (localRelease hu) (fun _ _ => Yields.map padsClear (fun _ _ => issue_seq (atomsEffect hu) hu))))))

theorem presPlaces {o} : Yields (fun _ => True) (presPlaces o x) := by
  unfold Machine.presPlaces
  exact firstFail

theorem execPres {o} (h : s.MemoryCanonical) : OutCanonical (execPres o s) := by
  unfold Machine.execPres
  exact program h (fun _ hu => Yields.bind issue_classes
      (fun _ _ => Yields.bind presPlaces (fun _ _ => Yields.map issue_gate (fun _ _ => issue_seq (updGroup hu.s) hu))))

theorem l1FillLine {core line leaseLen} (h : s.MemoryCanonical) : (s.l1FillLine core line leaseLen).MemoryCanonical :=
  folded (fun _ _ hx => l1Fill hx) h

theorem fetchLine {die line} (h : s.MemoryCanonical) : Gives State.MemoryCanonical (s.fetchLine die line) := by
  unfold State.fetchLine
  refine Gives.either (Gives.some h) ?_
  refine Gives.either Gives.none ?_
  split
  · exact Gives.some (touched (State.grant_touches ..) h)
  · exact Gives.none

theorem prefEffect {o} (h : x.Canonical) : (prefEffect o x).MemoryCanonical := by
  unfold Machine.prefEffect
  split
  · exact h.s
  · refine either h.s ?_
    split
    · exact h.s
    next s1 e' =>
      have hs1 : s1.MemoryCanonical := Gives.elim e' (fetchLine h.s)
      exact either (l1FillLine hs1) hs1

theorem execPref {o} (h : s.MemoryCanonical) : OutCanonical (execPref o s) := by
  unfold Machine.execPref
  exact program h (fun _ hu => Yields.map issue_gate (fun _ _ => issue_seq (prefEffect hu) hu))

theorem cacheCheck {o} : Yields (fun _ => True) (cacheCheck x o) := by
  unfold Machine.cacheCheck
  split
  · exact Yields.ok trivial
  · exact Yields.error StopCanonical.trap

theorem cinvEffect {ia} (h : x.Canonical) : (cinvEffect x ia).MemoryCanonical := by
  unfold Machine.cinvEffect
  extract_lets line s1 src
  have hs1 : s1.MemoryCanonical := l1Drop h.s
  clear_value s1
  exact either (touched (State.setL2_touches ..) hs1) hs1

theorem execCinv {o} (h : s.MemoryCanonical) : OutCanonical (execCinv o s) := by
  unfold Machine.execCinv
  exact program h (fun _ hu => Yields.either (Yields.ok (issue_seq hu.s hu))
      (Yields.bind cacheCheck (fun _ _ => Yields.map issue_gate (fun _ _ => issue_seq (cinvEffect hu) hu))))

theorem cwbEffect {ia} (h : x.Canonical) : (cwbEffect x ia).MemoryCanonical := by
  unfold Machine.cwbEffect
  refine either h.s ?_
  split
  next s1 _ e =>
    have hs1 : s1.MemoryCanonical := carried (P := fun p => p.1.MemoryCanonical) e (touched (State.cleanL2_touches ..) h.s)
    exact updGroup hs1

theorem execCwb {o} (h : s.MemoryCanonical) : OutCanonical (execCwb o s) := by
  unfold Machine.execCwb
  exact program h (fun _ hu => Yields.either (Yields.ok (issue_seq hu.s hu))
      (Yields.bind cacheCheck (fun _ _ => Yields.map issue_gate (fun _ _ => issue_seq (cwbEffect hu) hu))))

theorem lockLine {ia} (h : x.Canonical) : (lockLine x ia).2.MemoryCanonical := by
  unfold Machine.lockLine
  extract_lets line l locked put
  have hput : ∀ u, u.MemoryCanonical → (put u).MemoryCanonical := fun _ hu => touched (State.setL2_touches ..) hu
  clear_value put
  split
  · exact h.s
  · split
    · exact h.s
    · split
      · exact h.s
      · split
        · exact h.s
        · split
          · exact hput _ h.s
          · split
            · split
              · exact h.s
              · exact hput _ (touched (State.grant_touches ..) h.s)
            · exact h.s

theorem answered {o r} (hr : r.2.MemoryCanonical) : (answered o x r).MemoryCanonical := by
  unfold Machine.answered
  exact updGroup hr

theorem unanswered {o} (h : x.Canonical) : (unanswered o x).MemoryCanonical := by
  unfold Machine.unanswered
  exact updGroup h.s

theorem execLockl {o} (h : s.MemoryCanonical) : OutCanonical (execLockl o s) := by
  unfold Machine.execLockl
  exact program h (fun _ hu => Yields.either (Yields.ok (issue_seq (unanswered hu) hu))
      (Yields.bind cacheCheck
      (fun _ _ => Yields.bind issue_gate
      (fun _ _ => Yields.either (Yields.error StopCanonical.wait) (Yields.ok (issue_seq (answered (lockLine hu)) hu))))))

theorem unlockLine {ia} (h : x.Canonical) : (unlockLine x ia).2.MemoryCanonical := by
  unfold Machine.unlockLine
  extract_lets l
  split
  · exact h.s
  · split
    · exact h.s
    · split
      · exact touched (State.setL2_touches ..) h.s
      · exact h.s

theorem execUnlockl {o} (h : s.MemoryCanonical) : OutCanonical (execUnlockl o s) := by
  unfold Machine.execUnlockl
  exact program h (fun _ hu => Yields.either (Yields.ok (issue_seq (unanswered hu) hu))
      (Yields.bind cacheCheck (fun _ _ => Yields.map issue_gate (fun _ _ => issue_seq (answered (unlockLine hu)) hu))))

theorem fenceWaits {o} (h : x.Canonical) : Yields (fun _ => True) (fenceWaits o x) := by
  unfold Machine.fenceWaits
  exact Yields.bind issue_gate
      (fun _ _ => Yields.either issue_settledEntries
      (Yields.bind issue_releaseGate (fun _ _ => Yields.either (issue_writeThrough h) (Yields.ok trivial))))

theorem execFence {o} (h : s.MemoryCanonical) : OutCanonical (execFence o s) := by
  unfold Machine.execFence
  exact program h (fun _ hu => Yields.either (Yields.ok (issue_seq hu.s hu)) (Yields.map (fenceWaits hu) (fun _ _ => issue_seq hu.s hu)))

theorem execCtime {o} (h : s.MemoryCanonical) : OutCanonical (execCtime o s) := by
  unfold Machine.execCtime
  exact program h (fun _ hu => Yields.ok (issue_seq (wroteWords hu) hu))

/-! ## Engines -/

theorem engRange {ws va n perm} : Yields (fun _ => True) (engRange ws va n perm) := by
  unfold Machine.engRange
  split
  · exact Yields.error StopCanonical.trap
  · split
    · exact Yields.error StopCanonical.trap
    · exact Yields.either (Yields.ok trivial) (Yields.error StopCanonical.trap)

theorem rowHolds {x : Issue} {sp va n perm dst} : Yields (fun _ => True) (Machine.rowHolds x sp va n perm dst) := by
  unfold Machine.rowHolds
  extract_lets local_
  have calm : ∀ {α : Type} (r : Except (Nat × Trap) α), Yields (fun _ => True) (local_ r) := by
    intro α r
    unfold local_
    split
    · exact Yields.error StopCanonical.trap
    · exact Yields.ok trivial
  cases sp
  case global => exact Yields.map engRange fun _ _ => trivial
  case scratch => exact Yields.map (calm _) fun _ _ => trivial
  case vault => exact Yields.map (calm _) fun _ _ => trivial
  case tensor => exact Yields.either (Yields.ok trivial) (Yields.error StopCanonical.trap)

theorem allHolds {x : Issue} {sp vas n perm dst} : Yields (fun _ => True) (Machine.allHolds x sp vas n perm dst) := by
  unfold Machine.allHolds
  exact Yields.map (Yields.foldlM (fun _ _ => Yields.map rowHolds fun _ _ => trivial) _ _) fun _ _ => trivial

theorem cleanRange {die l} (h : s.MemoryCanonical) : (s.cleanRange die l).1.MemoryCanonical := by
  unfold State.cleanRange
  refine keptByFold (P := fun (p : State × Nat) => p.1.MemoryCanonical) (fun _ _ hx => ?_) h
  split
  refine keptByFold (P := fun (p : State × Nat) => p.1.MemoryCanonical) (fun _ _ hx' => ?_) hx
  split
  split
  · split
    next s1'' _ e =>
      have hs1'' : s1''.MemoryCanonical := carried (P := fun p => p.1.MemoryCanonical) e (touched (State.cleanL2_touches ..) hx')
      exact hs1''
  · exact hx'

theorem engStart {go} (hgo : Yields State.MemoryCanonical go) : Yields State.MemoryCanonical (engStart x go) := by
  unfold Machine.engStart
  exact Yields.either (Yields.error StopCanonical.trap) (Yields.bind issue_settledEntries (fun _ _ => hgo))

theorem engSkipped {o} (h : x.Canonical) : (engSkipped x o).MemoryCanonical := by
  unfold Machine.engSkipped
  exact either h.s (updGroup h.s)

theorem engReplied {x : Issue} {o w} (h : s.MemoryCanonical) : (engReplied x o s w).MemoryCanonical := by
  unfold Machine.engReplied
  exact either h (updGroup h)

theorem engSkip {o} (h : x.Canonical) : (engSkip x o).MemoryCanonical := by
  unfold Machine.engSkip
  exact issue_seq (engSkipped h) h

theorem engReply {x : Issue} {o w} (h : s.MemoryCanonical) (hx : x.Canonical) : (engReply x o s w).MemoryCanonical := by
  unfold Machine.engReply
  exact issue_seq (engReplied h) hx

theorem issue_enter {x : Issue} {o op} (h : s.MemoryCanonical) : Gives (fun p => p.2.1.MemoryCanonical) (x.enter s o op) := by
  unfold Issue.enter
  extract_lets id lines entry raise
  have hraise : ∀ u v, u.MemoryCanonical → (raise u v).MemoryCanonical := fun _ _ hv => updCore hv
  clear_value raise
  refine Gives.either Gives.none ?_
  clear_value entry
  split
  · exact Gives.none
  · extract_lets gen op1 s1 s2
    have hs1 : s1.MemoryCanonical := folded (fun _ _ hx' => hraise _ _ hx') (set h)
    have hs2 : s2.MemoryCanonical := by
      unfold s2
      split
      · exact updTeam hs1
      · exact hs1
    clear_value s1 s2
    exact Gives.some hs2

theorem execEngShape {o} (h : s.MemoryCanonical) : OutCanonical (execEngShape o s) := by
  unfold Machine.execEngShape
  exact program h (fun _ hu => Yields.either (Yields.ok (engSkip hu)) (engStart (Yields.ok (issue_seq (updTeam hu.s) hu))))

theorem copyOp {f o h' idx} : Yields (fun _ => True) (copyOp x f o h' idx) := by
  unfold Machine.copyOp
  extract_lets ss ds sideB src base done op op' n op'' op''' op'''' op'''''
  split
  · exact Yields.bind allHolds (fun _ _ => Yields.map allHolds (fun _ _ => trivial))
  · exact Yields.map allHolds (fun _ _ => trivial)
  · exact Yields.either (Yields.ok trivial) (Yields.bind allHolds (fun _ _ => Yields.map allHolds (fun _ _ => trivial)))
  · exact Yields.either (Yields.ok trivial) (Yields.bind allHolds (fun _ _ => Yields.map allHolds (fun _ _ => trivial)))
  · exact Yields.bind allHolds (fun _ _ => Yields.map allHolds (fun _ _ => trivial))
  · exact Yields.bind allHolds (fun _ _ => Yields.map allHolds (fun _ _ => trivial))

theorem engCopy {i f o} (h : s.MemoryCanonical) : OutCanonical (engCopy i f o s) := by
  unfold Machine.engCopy
  refine program h (fun _ hu => ?_)
  refine Yields.either (Yields.ok (engSkip hu)) ?_
  refine engStart ?_
  split
  · exact Yields.error StopCanonical.trap
  · refine Yields.bind copyOp (fun _ _ => ?_)
    split
    next s1 _ e' =>
      have hs1 : s1.MemoryCanonical := Gives.elim (P := fun p => p.2.1.MemoryCanonical) e' (Gives.bind Gives.any (fun _ _ => issue_enter hu.s))
      exact Yields.ok (engReply hs1 hu)
    · exact Yields.error StopCanonical.wait

theorem tokenDone {o k st} (h : x.Canonical) : (tokenDone x o k st).MemoryCanonical := by
  unfold Machine.tokenDone
  exact engReplied (either (updGroup h.s) h.s)

theorem execEngWait {o} (h : s.MemoryCanonical) : OutCanonical (execEngWait o s) := by
  unfold Machine.execEngWait
  refine program h (fun _ hu => ?_)
  refine Yields.either (Yields.ok (engSkip hu)) ?_
  refine engStart ?_
  split
  · exact Yields.ok (engReply hu.s hu)
  · split
    · exact Yields.ok (issue_seq (tokenDone hu) hu)
    · exact Yields.error StopCanonical.wait

theorem queryEffect {o} (h : x.Canonical) : (queryEffect x o).MemoryCanonical := by
  unfold Machine.queryEffect
  split
  · exact engReplied h.s
  · split
    · exact tokenDone h
    · exact engReplied h.s

theorem execEngQuery {o} (h : s.MemoryCanonical) : OutCanonical (execEngQuery o s) := by
  unfold Machine.execEngQuery
  exact program h (fun _ hu => Yields.either (Yields.ok (engSkip hu)) (engStart (Yields.ok (issue_seq (queryEffect hu) hu))))

theorem cancelEffect {o} (h : x.Canonical) : (cancelEffect x o).MemoryCanonical := by
  unfold Machine.cancelEffect
  split
  · exact engReplied h.s
  · exact either (engReplied h.s) (engReplied (endOp h.s))

theorem execEngCancel {o} (h : s.MemoryCanonical) : OutCanonical (execEngCancel o s) := by
  unfold Machine.execEngCancel
  exact program h (fun _ hu => Yields.either (Yields.ok (engSkip hu)) (engStart (Yields.ok (issue_seq (cancelEffect hu) hu))))

theorem endSkew (h : s.MemoryCanonical) : s.endSkew.MemoryCanonical := by
  unfold State.endSkew
  extract_lets back due src src' s1
  have hs1 : s1.MemoryCanonical := set h
  clear_value s1
  exact folded (fun _ _ hx => clusterBoundary hx) hs1

theorem fire {ctx slot} (h : s.MemoryCanonical) : (s.fire ctx slot).MemoryCanonical := by
  unfold State.fire
  extract_lets t groups number s1 tags start s2
  have hnumber : ∀ u v, u.MemoryCanonical → (number u v).MemoryCanonical := fun _ _ hv => set hv
  have hs1 : s1.MemoryCanonical := folded (fun _ _ hx => hnumber _ _ hx) (either h (endSkew h))
  have hstart : ∀ u v, u.MemoryCanonical → (start u v).MemoryCanonical := fun _ _ hv => updOp hv
  have hs2 : s2.MemoryCanonical := folded (fun _ _ hx => hstart _ _ hx) hs1
  clear_value number s1 start s2
  split
  · exact h
  · exact either h (updCtx hs2)

theorem setCounter {ctx c v} (h : s.MemoryCanonical) : (s.setCounter ctx c v).MemoryCanonical := by
  unfold State.setCounter
  extract_lets s1
  have hs1 : s1.MemoryCanonical := updCtx h
  clear_value s1
  exact folded (fun _ _ hx => either (fire hx) hx) hs1

theorem execEngCntrd {o} (h : s.MemoryCanonical) : OutCanonical (execEngCntrd o s) := by
  unfold Machine.execEngCntrd
  exact program h (fun _ hu => Yields.either (Yields.ok (engSkip hu)) (engStart (Yields.ok (engReply hu.s hu))))

theorem execEngCntadd {o} (h : s.MemoryCanonical) : OutCanonical (execEngCntadd o s) := by
  unfold Machine.execEngCntadd
  exact program h (fun _ hu => Yields.either (Yields.ok (engSkip hu)) (engStart (Yields.ok (engReply (setCounter hu.s) hu))))

theorem armed {o} {x : Issue} {id} (h : s.MemoryCanonical) : (armed o x id s).MemoryCanonical := by
  unfold Machine.armed
  extract_lets slot s2
  have hs2 : s2.MemoryCanonical := updCtx h
  clear_value s2
  exact fire (endOp hs2)

theorem execEngArm {o} (h : s.MemoryCanonical) : OutCanonical (execEngArm o s) := by
  unfold Machine.execEngArm
  refine program h (fun _ hu => ?_)
  refine Yields.either (Yields.ok (engSkip hu)) ?_
  refine engStart ?_
  split
  · exact Yields.error StopCanonical.wait
  next s1 _ e =>
    have hs1 : s1.MemoryCanonical := Gives.elim (P := fun p => p.2.1.MemoryCanonical) e (issue_enter hu.s)
    exact Yields.ok (engReply (armed hs1) hu)

theorem recvPosted {o} {x : Issue} {id} (h : s.MemoryCanonical) : (recvPosted o x id s).MemoryCanonical := by
  unfold Machine.recvPosted
  exact either (endOp h) (updCtx h)

theorem execEngRecv {o} (h : s.MemoryCanonical) : OutCanonical (execEngRecv o s) := by
  unfold Machine.execEngRecv
  refine program h (fun _ hu => ?_)
  refine Yields.either (Yields.ok (engSkip hu)) ?_
  refine engStart ?_
  split
  · exact Yields.error StopCanonical.trap
  · refine Yields.bind allHolds (fun _ _ => ?_)
    split
    · exact Yields.error StopCanonical.wait
    next s1 _ e' =>
      have hs1 : s1.MemoryCanonical := Gives.elim (P := fun p => p.2.1.MemoryCanonical) e' (Gives.bind Gives.any (fun _ _ => issue_enter hu.s))
      exact Yields.ok (engReply (recvPosted hs1) hu)

theorem sendPlaced {o} {x : Issue} {id} (h : s.MemoryCanonical) : (sendPlaced o x id s).MemoryCanonical := by
  unfold Machine.sendPlaced
  exact either h (either (endOp h) (fire (updCtx h)))

theorem sendBody {o work} (h : x.Canonical) : Yields State.MemoryCanonical (sendBody o work x) := by
  unfold Machine.sendBody
  refine Yields.either (Yields.ok (engSkip h)) ?_
  refine engStart ?_
  split
  · exact Yields.error StopCanonical.trap
  · refine Yields.bind allHolds (fun _ _ => ?_)
    extract_lets c v'
    have hc : c.1.MemoryCanonical := cleanRange h.s
    have hv' : v'.MemoryCanonical := cleanRange h.pre
    clear_value c v'
    refine Yields.either (Yields.error (issue_hold hv')) ?_
    split
    · exact Yields.error StopCanonical.wait
    next s1 _ e' =>
      have hs1 : s1.MemoryCanonical := Gives.elim (P := fun p => p.2.1.MemoryCanonical) e' (Gives.bind Gives.any (fun _ _ => issue_enter hc))
      exact Yields.ok (engReply (sendPlaced hs1) h)

theorem execEngSend {o} (h : s.MemoryCanonical) : OutCanonical (execEngSend o s) := by
  unfold Machine.execEngSend
  exact program h (fun _ hu => sendBody hu)

theorem execEngReduce {o} (h : s.MemoryCanonical) : OutCanonical (execEngReduce o s) := by
  unfold Machine.execEngReduce
  exact program h (fun _ hu => sendBody hu)

theorem engLine {o ia n} (h : s.MemoryCanonical) : Answers (fun p => p.1.MemoryCanonical) (s.engLine o ia n) := by
  unfold State.engLine
  extract_lets line out
  have hout : ∀ u, u.MemoryCanonical → Answers (fun p => p.1.MemoryCanonical) (out u) := fun _ hu => Answers.either Answers.error (Answers.ok hu)
  clear_value out
  split
  refine Answers.either (hout _ h) ?_
  split
  · exact Answers.error
  · refine Answers.either (hout _ (touched (State.grant_touches ..) h)) ?_
    refine Answers.either Answers.error ?_
    split
    next s1 e'' =>
      have hs1 : s1.MemoryCanonical := carried (P := fun p => p.2.MemoryCanonical) e'' (homeRead (touched (State.touch_touches ..) h))
      exact Answers.ok hs1

theorem engStore {o ia bs} (h : s.MemoryCanonical) : Answers (fun p => p.1.MemoryCanonical) (s.engStore o ia bs) := by
  unfold State.engStore
  extract_lets line x through
  have hthrough : ∀ u v, u.MemoryCanonical → (through u v).1.MemoryCanonical := by
    unfold through
    intro _ _ hv
    split
    · split
      next s1 _ e =>
        have hs1 : s1.MemoryCanonical := carried (P := fun p => p.1.MemoryCanonical) e (touched (State.cleanL2_touches ..) hv)
        extract_lets u2
        have hu2 : u2.MemoryCanonical := by
          unfold u2
          refine either ?_ hs1
          split
          · exact either hs1 (touched (State.flushSlice_touches ..) hs1)
          · exact hs1
        clear_value u2
        exact hu2
    · exact hv
  clear_value through
  split
  extract_lets accept
  have haccept : ∀ u, u.MemoryCanonical → (accept u).1.MemoryCanonical := by
    unfold accept
    intro _ hu
    split
    next s1 _ e' =>
      have hs1 : s1.MemoryCanonical := carried (P := fun p => p.1.MemoryCanonical) e' (touched (State.l2Write_touches ..) hu)
      exact hthrough _ _ hs1
  clear_value accept
  refine Answers.either (Answers.ok (haccept _ h)) ?_
  split
  · exact Answers.error
  · exact Answers.either (Answers.ok (haccept _ (touched (State.grant_touches ..) (touched (State.touch_touches ..) h))))
      (Answers.ok (homeWrite (touched (State.gather_touches ..) h)))

theorem engRead {o row va n n'} (h : s.MemoryCanonical) : Answers (fun p => p.1.MemoryCanonical) (s.engRead o row va n n') := by
  fun_induction s.engRead o row va n n'
  · exact Answers.ok h
  · exact Answers.ok h
  · exact Answers.error
  next ih =>
    refine Answers.bind (engLine h) (fun _ hx => ?_)
    split
    exact Answers.map (ih _ hx) (fun _ hx' => hx')

theorem engWrite {o row va bs n} (h : s.MemoryCanonical) : (s.engWrite o row va bs n).1.MemoryCanonical := by
  fun_induction s.engWrite o row va bs n
  · exact h
  · exact h
  · exact h
  · exact h
  next c' _ _ _ _ c'' ih =>
    exact carried (P := fun p => p.1.MemoryCanonical) c'' (ih (Answers.elim (P := fun p => p.1.MemoryCanonical) c' (engStore h)))

theorem engGet {o sp row va n} (h : s.MemoryCanonical) : Answers (fun p => p.1.MemoryCanonical) (s.engGet o sp row va n) := by
  unfold State.engGet
  split
  · exact engRead h
  · exact Answers.either Answers.error (Answers.ok h)
  · split
    exact Answers.ok h

theorem engPut {o sp row va bs} (h : s.MemoryCanonical) : (s.engPut o sp row va bs).1.MemoryCanonical := by
  unfold State.engPut
  split
  · exact engWrite h
  · exact clearVaultPoison (made (Memory.wf_writeBytes _ _ _ (State.MemoryCanonical.mem h)) (State.MemoryCanonical.ext h))
  · split
    exact made (Memory.wf_writeBytes _ _ _ (State.MemoryCanonical.mem h)) (State.MemoryCanonical.ext h)

theorem planeRows {o r n} (h : s.MemoryCanonical) : Answers (fun p => p.1.MemoryCanonical) (s.planeRows o r n) := by
  fun_induction s.planeRows o r n
  · exact Answers.ok h
  next ih =>
    refine Answers.bind (engGet h) (fun _ hx => ?_)
    split
    exact Answers.map (ih _ hx) (fun _ hx' => hx')

theorem nextPiece {o} (h : s.MemoryCanonical) : Answers (fun p => p.1.MemoryCanonical) (s.nextPiece o) := by
  unfold State.nextPiece
  extract_lets p row at_ left
  have copied : ∀ {sp row va n} {f : State × List Byte → State × Piece}, (∀ x, (f x).1 = x.1) →
      Answers (fun p => p.1.MemoryCanonical) ((s.engGet o sp row va n).map f) :=
    fun same => Answers.map (engGet h) fun x hx => same x ▸ hx
  generalize o.work = w
  cases w
  case fill => exact Answers.ok h
  case gather =>
    exact Answers.bind (engGet h) fun x hx => Answers.bind Answers.any fun _ _ => Answers.map (engGet hx) fun _ hy => hy
  case scatter =>
    exact Answers.bind (engGet h) fun x hx => Answers.bind Answers.any fun _ _ => Answers.map (engGet hx) fun _ hy => hy
  case plane => exact Answers.map (planeRows h) fun _ hx => hx
  case unplane => exact copied fun _ => rfl
  all_goals exact copied fun _ => rfl

theorem engStop {id o e} (h : s.MemoryCanonical) : Gives State.MemoryCanonical (s.engStop id o e) := by
  unfold State.engStop
  split
  · exact Gives.some (endOp h)
  · extract_lets src tr
    refine Gives.some ?_
    split
    · exact breakSaved (trapKept h)
    · exact take h
  · split
    · exact Gives.some (endOp h)
    · refine Gives.either (Gives.some (updOp h)) ?_
      split
      next s2 _ e' =>
        have hs2 : s2.MemoryCanonical := carried (P := fun p => p.1.MemoryCanonical) e' (touched (State.report_touches ..) h)
        exact Gives.either (Gives.some (updOp (turnEngine hs2))) Gives.none
    · exact Gives.none

theorem chunkLeaves {id o e c} (h : s.MemoryCanonical) : (s.chunkLeaves id o e c).MemoryCanonical := by
  unfold State.chunkLeaves
  extract_lets left src src' s1
  have hsrc : src.MemoryCanonical := updOp h
  have hs1 : s1.MemoryCanonical := set hsrc
  clear_value src s1
  refine folded (fun _ _ hx => ?_) hs1
  split
  exact arrived hx

theorem sendChunk {id o slot off red} (h : s.MemoryCanonical) : Gives State.MemoryCanonical (s.sendChunk id o slot off red) := by
  unfold State.sendChunk
  split
  · exact Gives.some (endOp h)
  · extract_lets va
    split
    · exact engStop h
    next s1 _ e'' =>
      have hs1 : s1.MemoryCanonical := Answers.elim (P := fun p => p.1.MemoryCanonical) e'' (engRead h)
      exact Gives.either (Gives.some (updOp hs1)) (Gives.some (chunkLeaves hs1))

theorem putPiece {op o q} (h : s.MemoryCanonical) : Gives State.MemoryCanonical (s.putPiece op o q) := by
  unfold State.putPiece
  split
  next s2 _ _ _ e' =>
    have hs2 : s2.MemoryCanonical := carried (P := fun p => p.1.MemoryCanonical) e' (engPut h)
    extract_lets late o1 gone s3 s4
    have hs3 : s3.MemoryCanonical := set hs2
    have hs4 : s4.MemoryCanonical := either hs3 (wakeAll (lowerLines hs3))
    clear_value s3 s4
    split
    · exact Gives.some hs4
    · split
      next t e'' =>
        have ht : t.MemoryCanonical := Gives.elim e'' (Gives.bind Gives.any (fun _ _ => engStop hs4))
        exact Gives.some ht
      · exact Gives.either Gives.none (Gives.some hs4)

theorem copyPiece {op o} (h : s.MemoryCanonical) : Gives State.MemoryCanonical (s.copyPiece op o) := by
  unfold State.copyPiece
  split
  · exact engStop h
  next s1 _ e =>
    have hs1 : s1.MemoryCanonical := Answers.elim (P := fun p => p.1.MemoryCanonical) e (nextPiece h)
    exact putPiece hs1

theorem nextProgress {op o} (h : s.MemoryCanonical) : Gives State.MemoryCanonical (s.nextProgress op o) := by
  unfold State.nextProgress
  split
  · exact Gives.either Gives.none (sendChunk h)
  · exact Gives.either Gives.none (sendChunk h)
  · exact Gives.either Gives.none (copyPiece h)

theorem execEngineWriteProgress {op} (h : s.MemoryCanonical) : OutCanonical (execEngineWriteProgress op s) := by
  unfold Machine.execEngineWriteProgress
  split
  · exact OutCanonical.fault
  · refine OutCanonical.either OutCanonical.fault ?_
    split
    next t e' =>
      have ht : t.MemoryCanonical := Gives.elim e' (nextProgress h)
      exact OutCanonical.next ht
    · exact OutCanonical.fault

theorem execEngineOperationEnd {op overrun} (h : s.MemoryCanonical) : OutCanonical (execEngineOperationEnd op overrun s) := by
  unfold Machine.execEngineOperationEnd
  split
  · exact OutCanonical.fault
  · split
    · exact OutCanonical.fault
    · exact OutCanonical.either (OutCanonical.next (endOp (updOp h))) OutCanonical.fault
    · exact OutCanonical.either (OutCanonical.next (endOp (updOp h))) OutCanonical.fault
    · exact OutCanonical.either (OutCanonical.next (endOp h)) OutCanonical.fault

theorem gatherRow {o row va n} (h : s.MemoryCanonical) : (s.gatherRow o row va n).MemoryCanonical := by
  unfold State.gatherRow
  refine folded (fun _ _ hx => ?_) h
  split
  · exact touched (State.gather_touches ..) hx
  · exact hx

theorem chunkWrites {id o va bs cnt} (h : s.MemoryCanonical) : Gives State.MemoryCanonical (s.chunkWrites id o va bs cnt) := by
  unfold State.chunkWrites
  split
  next s2 _ _ _ e' =>
    have hs2 : s2.MemoryCanonical := carried (P := fun p => p.1.MemoryCanonical) e' (engWrite h)
    extract_lets s2'
    have hs2' : s2'.MemoryCanonical := updOp (addCounts hs2)
    clear_value s2'
    split
    next t e'' =>
      have ht : t.MemoryCanonical := Gives.elim e'' (Gives.bind Gives.any (fun _ _ => Gives.bind Gives.any (fun _ _ => engStop hs2')))
      exact Gives.some ht
    · exact Gives.either Gives.none (Gives.some hs2')

theorem reduceLands {id o va op fmt new} (h : s.MemoryCanonical) : Gives State.MemoryCanonical (s.reduceLands id o va op fmt new) := by
  unfold State.reduceLands
  refine Gives.either (Gives.some (endOp h)) ?_
  split
  · exact engStop h
  · split
    · exact engStop h
    next s1 _ e' =>
      have hs1 : s1.MemoryCanonical := Answers.elim (P := fun p => p.1.MemoryCanonical) e' (engRead (gatherRow h))
      split
      exact chunkWrites hs1

theorem landMore {id o c} (h : s.MemoryCanonical) : Gives State.MemoryCanonical (s.landMore id o c) := by
  unfold State.landMore
  extract_lets va rest
  split
  · exact chunkWrites h
  · exact Gives.either (Gives.some (updOp h)) (reduceLands h)

theorem chunkLanded {id o c slot cnt} (h : s.MemoryCanonical) : (s.chunkLanded id o c slot cnt).MemoryCanonical := by
  unfold State.chunkLanded
  extract_lets landed src s1 s2
  have hsrc : src.MemoryCanonical := updOp h
  have hs1 : s1.MemoryCanonical := set hsrc
  have hs2 : s2.MemoryCanonical := either (endOp (updCtx hs1)) hs1
  clear_value src s1 s2
  exact setCounter hs2

theorem execChunkLanding {c} (h : s.MemoryCanonical) : OutCanonical (execChunkLanding c s) := by
  unfold Machine.execChunkLanding
  split
  · exact OutCanonical.fault
  · split
    · refine OutCanonical.either OutCanonical.fault ?_
      split
      · exact OutCanonical.either (OutCanonical.next (set h)) (OutCanonical.next (updOp h))
      · refine OutCanonical.either OutCanonical.fault ?_
        refine OutCanonical.either OutCanonical.fault ?_
        refine OutCanonical.either ?_ (OutCanonical.either OutCanonical.fault (OutCanonical.next (chunkLanded h)))
        split
        next t e''' =>
          have ht : t.MemoryCanonical := Gives.elim e''' (landMore h)
          exact OutCanonical.next ht
        · exact OutCanonical.fault
    · exact OutCanonical.fault

theorem execNoRecvTimeout {op} (h : s.MemoryCanonical) : OutCanonical (execNoRecvTimeout op s) := by
  unfold Machine.execNoRecvTimeout
  split
  · refine OutCanonical.either ?_ OutCanonical.fault
    split
    · exact OutCanonical.next (endOp h)
    · exact OutCanonical.next (endOp h)
    · exact OutCanonical.fault
  · exact OutCanonical.fault

theorem execPeerUnreachable {op} (h : s.MemoryCanonical) : OutCanonical (execPeerUnreachable op s) := by
  unfold Machine.execPeerUnreachable
  split
  · refine OutCanonical.either ?_ OutCanonical.fault
    split
    · exact OutCanonical.next (endOp h)
    · exact OutCanonical.next (endOp h)
    · exact OutCanonical.fault
  · exact OutCanonical.fault

end Canonical

end Sys2Proof.Machine
end


section
/-! Memory stays in its canonical form under memory-side operations, launches, barriers, graphs and the life of teams.
Each theorem is named after the function of the model that it speaks of. -/
namespace Sys2Proof.Machine
open Sys2Proof

namespace Canonical
variable {s : State} {x : Issue}

/-! ## Memory for hosts and the fault service -/

theorem reply {r type status body after} (h : s.MemoryCanonical) : (s.reply r type status body after).MemoryCanonical := either h (send h)
theorem zeroStack {h' a n} (h : s.MemoryCanonical) : (s.zeroStack h' a n).MemoryCanonical :=
  made (Memory.wf_setCells _ _ _ _ (State.MemoryCanonical.mem h)) (State.MemoryCanonical.ext h)
theorem pullSpan {h' lo n die} (h : s.MemoryCanonical) : (s.pullSpan h' lo n die).MemoryCanonical :=
  either h (folded (fun _ _ hx => touched (State.cleanL2_touches ..) hx) h)

theorem reclaimPull {h' lo n} (h : s.MemoryCanonical) : (s.reclaimPull h' lo n).1.MemoryCanonical := by
  unfold State.reclaimPull
  extract_lets s1
  have hs1 : s1.MemoryCanonical := folded (fun _ _ hx => pullSpan hx) h
  clear_value s1
  exact hs1

theorem reclaimDrop {h' lo n} (h : s.MemoryCanonical) : (s.reclaimDrop h' lo n).MemoryCanonical := by
  unfold State.reclaimDrop
  split
  next s1 _ e =>
    have hs1 : s1.MemoryCanonical := carried (P := fun p => p.1.MemoryCanonical) e (reclaimPull h)
    extract_lets s3 inSpan s4 keep
    have hs3 : s3.MemoryCanonical := folded (fun _ _ hx => touched (State.flushSlice_touches ..) hx) hs1
    have hs4 : s4.MemoryCanonical := touched (State.updHome_touches ..) hs3
    clear_value s3 s4
    exact set hs4

theorem ptSetAt {h' o level expect new} (h : s.MemoryCanonical) : (s.ptSetAt h' o level expect new).1.MemoryCanonical := by
  unfold State.ptSetAt
  split
  · exact h
  · extract_lets e'' s1
    have hs1 : s1.MemoryCanonical := either (zeroStack h) h
    clear_value s1
    split
    · exact h
    · split
      · exact h
      · split
        · exact touched (State.setEntry_touches ..) hs1
        · split
          · split
            · exact h
            · split
              · exact touched (State.setEntry_touches ..) h
              · exact h
          · split
            · exact touched (State.setEntry_touches ..) h
            · split
              · exact touched (State.setEntry_touches ..) h
              · exact h

theorem ptClear {h' o level new} (h : s.MemoryCanonical) : (s.ptClear h' o level new).MemoryCanonical := by
  unfold State.ptClear
  split
  · exact touched (State.setEntry_touches ..) h
  · exact h

theorem putFrame {h' kind slot frame n c bad} (h : s.MemoryCanonical) : (s.putFrame h' kind slot frame n c bad).MemoryCanonical :=
  either (touched (State.updHome_touches ..) (made (Memory.wf_setCells _ _ _ _ (State.MemoryCanonical.mem h)) (State.MemoryCanonical.ext h)))
      (made (State.MemoryCanonical.mem h) (Memory.wf_setCells _ _ _ _ (State.MemoryCanonical.ext h)))

theorem migrateAt {h' o level new} (h : s.MemoryCanonical) : (s.migrateAt h' o level new).1.MemoryCanonical := by
  unfold State.migrateAt
  split
  · exact h
  · extract_lets e'' own
    split
    · exact h
    · split
      extract_lets s1 e1 carried
      have hs1 : s1.MemoryCanonical := folded (fun _ _ hx => touched (State.flushSlice_touches ..) hx) h
      clear_value s1
      split
      · exact hs1
      · split
        extract_lets s2
        have hs2 : s2.MemoryCanonical := putFrame hs1
        clear_value s2
        exact touched (State.setEntry_touches ..) hs2

theorem mapTables {h' o leaf n l} (h : s.MemoryCanonical) : (s.mapTables h' o leaf n l).1.MemoryCanonical := by
  fun_induction s.mapTables h' o leaf n l
  · exact h
  · exact ptSetAt h
  · exact h
  next c' ih => exact ih (carried (P := fun p => p.1.MemoryCanonical) c' (ptSetAt h))
  next c' _ => exact carried (P := fun p => p.1.MemoryCanonical) c' (ptSetAt h)

theorem mapGranule {h' o} (h : s.MemoryCanonical) : (s.mapGranule h' o).1.MemoryCanonical := by
  unfold State.mapGranule
  split
  · exact h
  · exact h
  · exact h
  · split
    · exact h
    · split
      · exact h
      · extract_lets s1
        have hs1 : s1.MemoryCanonical := zeroStack (touched (State.setHome_touches ..) h)
        clear_value s1
        split
        next s1' _ e''' =>
          have hs1' : s1'.MemoryCanonical := carried (P := fun p => p.1.MemoryCanonical) e''' (mapTables hs1)
          exact hs1'

theorem rmaReadAll {system l} (h : s.MemoryCanonical) : (s.rmaReadAll system l).1.MemoryCanonical := by
  fun_induction s.rmaReadAll system l
  · exact h
  · exact h
  next c' _ _ c'' ih =>
    exact carried (P := fun p => p.1.MemoryCanonical) c''
        (ih (carried (P := fun p => p.2.MemoryCanonical) c' (homeRead (touched (State.touch_touches ..) h))))

theorem rmaWriteAll {l l'} (h : s.MemoryCanonical) : (s.rmaWriteAll l l').1.MemoryCanonical := by
  fun_induction s.rmaWriteAll l l'
  · exact h
  · exact either (touched (State.gather_touches ..) h) h
  next c' _ _ c'' ih =>
    exact carried (P := fun p => p.1.MemoryCanonical) c''
        (ih (carried (P := fun p => p.1.MemoryCanonical) c' (homeWrite (either (touched (State.gather_touches ..) h) h))))

theorem rmaHold {r i ws type access ia g} (h : s.MemoryCanonical) : (s.rmaHold r i ws type access ia g).MemoryCanonical := by
  unfold State.rmaHold
  split
  · exact touched (State.holdAtHome_touches ..) (set h)
  · exact reply h
  · exact either (set h) (touched (State.keep_touches ..) (set h))

theorem rma {r i ws} (h : s.MemoryCanonical) : (s.rma r i ws).MemoryCanonical := by
  unfold State.rma
  split
  · split
    · exact reply h
    · extract_lets l
      split
      · exact rmaHold h
      · split
        next s2 _ e'' =>
          have hs2 : s2.MemoryCanonical := carried (P := fun p => p.1.MemoryCanonical) e'' (rmaReadAll h)
          exact reply hs2
  · split
    · exact reply h
    · extract_lets l
      split
      · exact rmaHold h
      · split
        next s1 _ e'' =>
          have hs1 : s1.MemoryCanonical := carried (P := fun p => p.1.MemoryCanonical) e'' (rmaWriteAll h)
          exact reply hs1
  · extract_lets n
    split
    · exact reply h
    · split
      · exact h
      · split
        · exact rmaHold h
        · split
          next s1 e''' =>
            have hs1 : s1.MemoryCanonical := carried (P := fun p => p.2.MemoryCanonical) e''' (homeRead (touched (State.gather_touches ..) h))
            extract_lets old
            split
            exact reply (homeWrite hs1)

theorem msReply {m st} (h : s.MemoryCanonical) : (s.msReply m st).MemoryCanonical := reply h

theorem msEnd {m} (h : s.MemoryCanonical) : (s.msEnd m).MemoryCanonical := by
  unfold State.msEnd
  split
  extract_lets s1 s2
  have hs1 : s1.MemoryCanonical := reclaimDrop h
  have hs2 : s2.MemoryCanonical := by
    unfold s2
    split
    · exact msReply (ptClear hs1)
    · exact msReply hs1
  clear_value s1 s2
  refine folded (fun _ _ hx => ?_) hs2
  split
  exact rma hx

theorem msReclaim {m} (h : s.MemoryCanonical) : (s.msReclaim m).MemoryCanonical := by
  unfold State.msReclaim
  split
  split
  next s1 _ e' =>
    have hs1 : s1.MemoryCanonical := carried (P := fun p => p.1.MemoryCanonical) e' (reclaimPull h)
    exact either (msEnd hs1) (set hs1)

theorem msStart {m} (h : s.MemoryCanonical) : (s.msStart m).MemoryCanonical := by
  unfold State.msStart
  split
  · refine either (msReclaim h) ?_
    split
    next s1 _ e' =>
      have hs1 : s1.MemoryCanonical := carried (P := fun p => p.1.MemoryCanonical) e' (ptSetAt h)
      exact msReply hs1
  · refine either (msReply h) ?_
    split
    next s1 _ e' =>
      have hs1 : s1.MemoryCanonical := carried (P := fun p => p.1.MemoryCanonical) e' (migrateAt h)
      exact msReply hs1
  · exact msReclaim h

theorem msArrive {m} (h : s.MemoryCanonical) : (s.msArrive m).MemoryCanonical := either (msStart h) (set h)

theorem msWake {before l} (h : s.MemoryCanonical) : (s.msWake before l).MemoryCanonical := by
  fun_induction s.msWake before l
  · exact h
  next ih => exact ih (msStart (set h))
  next ih => exact ih h

theorem msPassed {n} (h : s.MemoryCanonical) : Gives State.MemoryCanonical (s.msPassed n) := by
  unfold State.msPassed
  split
  · exact Gives.none
  · split
    · exact Gives.none
    · refine Gives.either ?_ Gives.none
      extract_lets s1
      have hs1 : s1.MemoryCanonical := msEnd (set h)
      clear_value s1
      exact Gives.some (msWake hs1)

/-! ## Launches -/

theorem accept {ctx p parent depth graph} (h : s.MemoryCanonical) : Gives (fun p => p.2.MemoryCanonical) (s.accept ctx p parent depth graph) := by
  unfold State.accept
  refine Gives.either Gives.none ?_
  refine Gives.map Gives.any (fun _ _ => ?_)
  split
  extract_lets l s1
  have hs1 : s1.MemoryCanonical := set h
  clear_value s1
  split
  · exact updLaunch hs1
  · exact hs1

theorem readPacket {die ia} (h : s.MemoryCanonical) : Gives (fun p => p.2.MemoryCanonical) (s.readPacket die ia) := by
  unfold State.readPacket
  refine Gives.either ?_ (Gives.map (fetchLine h) (fun _ hx => hx))
  split
  · exact Gives.some (touched (State.touch_touches ..) h)
  · exact Gives.none

theorem launchAnswer {o} {x : Issue} {w} (h : s.MemoryCanonical) : (launchAnswer o x s w).MemoryCanonical := by
  unfold Machine.launchAnswer
  exact updGroup h

theorem launchTry {ia} (h : x.Canonical) : LaunchedCanonical (launchTry x ia) := by
  unfold Machine.launchTry
  split
  · exact h.s
  · split
    · exact h.s
    · split
      · exact h.s
      · extract_lets h'
        split
        · split
          · exact trivial
          · exact h.s
        next s1 e' =>
          have hs1 : s1.MemoryCanonical := Gives.elim (P := fun p => p.2.MemoryCanonical) e' (readPacket h.s)
          split
          · exact hs1
          next p _ =>
            split
            · exact hs1
            next s2 e''' =>
              have hs2 : s2.MemoryCanonical := Gives.elim (P := fun p => p.2.MemoryCanonical) e''' (Gives.either (accept hs1) Gives.none)
              exact updCtx hs2

theorem execLaunch {o} (h : s.MemoryCanonical) : OutCanonical (execLaunch o s) := by
  unfold Machine.execLaunch
  refine program h (fun _ hu => ?_)
  refine Yields.either (Yields.ok (issue_seq (wroteWords hu) hu)) ?_
  refine Yields.either (Yields.error StopCanonical.trap) ?_
  split
  · exact Yields.error StopCanonical.trap
  · split
    next a'' e' =>
      have ha'' : a''.MemoryCanonical := carried (P := LaunchedCanonical) e' (launchTry hu)
      exact Yields.ok (issue_seq (launchAnswer ha'') hu)
    · exact Yields.error StopCanonical.wait
    next a''' e' =>
      have ha''' : a'''.MemoryCanonical := carried (P := LaunchedCanonical) e' (launchTry hu)
      exact Yields.bind issue_releaseGate (fun _ _ => Yields.map (issue_writeThrough hu) (fun _ _ => issue_seq (launchAnswer ha''') hu))

/-! ## Barriers and system instructions -/

theorem passBar {id b} (h : s.MemoryCanonical) : (s.passBar id b).MemoryCanonical := updTeam h

theorem completeBar {id b} (h : s.MemoryCanonical) : (s.completeBar id b).MemoryCanonical := by
  unfold State.completeBar
  split
  · exact either (set h) (openInterval (passBar (drainTeam h)))
  · exact passBar h

theorem completeGbar {key gg b} (h : s.MemoryCanonical) : (s.completeGbar key gg b).MemoryCanonical := by
  unfold State.completeGbar
  extract_lets B s1 saved
  have hs1 : s1.MemoryCanonical := folded (fun _ _ hx => updTeam hx) h
  clear_value s1
  exact set hs1

theorem execGbarComplete {gang b} (h : s.MemoryCanonical) : OutCanonical (execGbarComplete gang b s) := by
  unfold Machine.execGbarComplete
  split
  · exact OutCanonical.fault
  · exact OutCanonical.either OutCanonical.fault (OutCanonical.next (completeGbar h))

theorem enterBarrier {r sp w} (h : s.MemoryCanonical) : (s.enterBarrier r sp w).MemoryCanonical := by
  unfold State.enterBarrier
  split
  · exact h
  · refine either h ?_
    extract_lets here src src'
    split <;> exact setGroup h

theorem issue_seqWaiting {x : Issue} {w} (h : s.MemoryCanonical) (hx : x.Canonical) : (x.seqWaiting s w).MemoryCanonical :=
  enterBarrier (issue_seq h (issue_plain hx))

theorem barArrived {b sync} (h : x.Canonical) : (barArrived b sync x).MemoryCanonical := by
  unfold Machine.barArrived
  extract_lets B B1 last s1 s2
  have hs1 : s1.MemoryCanonical := updGroup (updTeam h.s)
  have hs2 : s2.MemoryCanonical := either (issue_seqWaiting hs1 h) (issue_seq hs1 h)
  clear_value s1 s2
  exact meet (either (completeBar hs2) hs2)

theorem barArrive {b sync} (h : x.Canonical) : Yields State.MemoryCanonical (barArrive x b sync) := by
  unfold Machine.barArrive
  exact Yields.either (Yields.error StopCanonical.trap)
      (Yields.bind issue_releaseGate (fun _ _ => Yields.either (Yields.error StopCanonical.wait) (Yields.ok (barArrived h))))

theorem barAwait {b} (h : x.Canonical) : (barAwait x b).MemoryCanonical := by
  unfold Machine.barAwait
  split
  · exact issue_seq h.s h
  · exact meet (issue_seqWaiting h.s h)

theorem execBarSync {o} (h : s.MemoryCanonical) : OutCanonical (execBarSync o s) := by
  unfold Machine.execBarSync
  exact program h (fun _ hu => Yields.either (Yields.ok (issue_seq hu.s hu)) (barArrive hu))

theorem execBarArrive {o} (h : s.MemoryCanonical) : OutCanonical (execBarArrive o s) := by
  unfold Machine.execBarArrive
  exact program h (fun _ hu => Yields.either (Yields.ok (issue_seq hu.s hu)) (barArrive hu))

theorem execBarWait {o} (h : s.MemoryCanonical) : OutCanonical (execBarWait o s) := by
  unfold Machine.execBarWait
  exact program h (fun _ hu => Yields.either (Yields.ok (issue_seq hu.s hu)) (Yields.map issue_settledEntries (fun _ _ => barAwait hu)))

theorem gbarArrived {b sync} (h : x.Canonical) : (gbarArrived b sync x).MemoryCanonical := by
  unfold Machine.gbarArrived
  extract_lets key B B1 src gg1 last src' s1 s2
  have hs1 : s1.MemoryCanonical := updGroup (set h.s)
  have hs2 : s2.MemoryCanonical := either (issue_seqWaiting hs1 h) (issue_seq hs1 h)
  clear_value src' s1 s2
  exact meet (either (completeGbar hs2) hs2)

theorem gbarAwait {b} (h : x.Canonical) : (gbarAwait x b).MemoryCanonical := by
  unfold Machine.gbarAwait
  split
  · exact issue_seq h.s h
  · exact meet (issue_seqWaiting h.s h)

theorem gbarWaits {o} (h : x.Canonical) : Yields (fun _ => True) (gbarWaits o x) := by
  unfold Machine.gbarWaits
  exact Yields.bind issue_releaseGate (fun _ _ => Yields.either (issue_writeThrough h) (Yields.ok trivial))

theorem gbarBody {o} (h : x.Canonical) : Yields State.MemoryCanonical (gbarBody o x) := by
  unfold Machine.gbarBody
  extract_lets b
  refine Yields.either (Yields.ok (issue_seq h.s h)) ?_
  split
  · exact Yields.either (Yields.ok (issue_seq h.s h)) (Yields.error StopCanonical.trap)
  · exact Yields.either (Yields.map issue_settledEntries (fun _ _ => gbarAwait h))
      (Yields.either (Yields.error StopCanonical.trap)
      (Yields.bind (gbarWaits h) (fun _ _ => Yields.either (Yields.error StopCanonical.wait) (Yields.ok (gbarArrived h)))))

theorem execGbar {o} (h : s.MemoryCanonical) : OutCanonical (execGbar o s) := by
  unfold Machine.execGbar
  exact program h (fun _ hu => gbarBody hu)

theorem stgwEffect {o j} (h : x.Canonical) : (stgwEffect o x j).MemoryCanonical := by
  unfold Machine.stgwEffect
  extract_lets k full bit s1
  have hs1 : s1.MemoryCanonical := updTeam h.s
  clear_value s1
  exact updTeam hs1

theorem execStgw {o} (h : s.MemoryCanonical) : OutCanonical (execStgw o s) := by
  unfold Machine.execStgw
  exact program h (fun _ hu => Yields.either (Yields.ok (issue_seq hu.s hu))
      (Yields.map issue_releaseGate (fun _ _ => issue_seq (stgwEffect hu) hu)))

theorem execStga {o} (h : s.MemoryCanonical) : OutCanonical (execStga o s) := by
  unfold Machine.execStga
  exact program h (fun _ hu => Yields.either (Yields.ok (issue_seq hu.s hu)) (Yields.error StopCanonical.wait))

theorem execBarrierTimeout {team} (h : s.MemoryCanonical) : OutCanonical (execBarrierTimeout team s) := by
  unfold Machine.execBarrierTimeout
  split
  · exact OutCanonical.fault
  · refine OutCanonical.either OutCanonical.fault ?_
    split
    · exact OutCanonical.next (raiseTrap (set h))
    · exact OutCanonical.fault

theorem execWdog {o} (h : s.MemoryCanonical) : OutCanonical (execWdog o s) := by
  unfold Machine.execWdog
  exact program h (fun _ hu => Yields.ok (issue_seq (either (updTeam hu.s) hu.s) hu))

theorem execCsrr {o} (h : s.MemoryCanonical) : OutCanonical (execCsrr o s) := by
  unfold Machine.execCsrr
  exact program h (fun _ hu => Yields.ok (issue_seq (wroteWords hu) hu))

theorem execCsrw {o} (h : s.MemoryCanonical) : OutCanonical (execCsrw o s) := by
  unfold Machine.execCsrw
  refine program h (fun _ hu => ?_)
  extract_lets n
  refine Yields.either (Yields.ok (issue_seq hu.s hu)) ?_
  refine Yields.either (Yields.error StopCanonical.trap) ?_
  split
  · exact Yields.error StopCanonical.trap
  · exact Yields.ok (issue_seq (updTeam hu.s) hu)

theorem execClk {o} (h : s.MemoryCanonical) : OutCanonical (execClk o s) := by
  unfold Machine.execClk
  exact program h (fun _ hu => Yields.ok (issue_seq (wroteWords hu) hu))

theorem execFcnt {o} (h : s.MemoryCanonical) : OutCanonical (execFcnt o s) := by
  unfold Machine.execFcnt
  refine program h (fun _ hu => ?_)
  split
  · exact Yields.error StopCanonical.wait
  · exact Yields.ok (issue_seq (wroteWords hu) hu)

theorem execBurn {o} (h : s.MemoryCanonical) : OutCanonical (execBurn o s) := by
  unfold Machine.execBurn
  exact program h (fun _ hu => Yields.ok (issue_seq (either (updTeam hu.s) hu.s) hu))

theorem execCurr {o} (h : s.MemoryCanonical) : OutCanonical (execCurr o s) := by
  unfold Machine.execCurr
  exact program h (fun _ hu => Yields.ok (issue_seq (wroteWords hu) hu))

theorem shuntEffect {o} (h : x.Canonical) : (shuntEffect o x).MemoryCanonical := by
  unfold Machine.shuntEffect
  split
  exact updGroup (setColumn h.s)

theorem execShunt {o} (h : s.MemoryCanonical) : OutCanonical (execShunt o s) := by
  unfold Machine.execShunt
  exact program h (fun _ hu => Yields.ok (issue_seq (either (shuntEffect hu) (wroteWords hu)) hu))

theorem withdrawMate {id core} (h : s.MemoryCanonical) : (s.withdrawMate id core).MemoryCanonical := updCore h

theorem requestStop {id why} (h : s.MemoryCanonical) : (s.requestStop id why).MemoryCanonical := by
  unfold State.requestStop
  split
  · exact h
  · refine folded (fun _ _ hx => ?_) h
    split
    · exact either (withdrawMate (setTeam hx)) hx
    · exact hx

theorem opclEffect {o} (h : x.Canonical) : (opclEffect o x).MemoryCanonical := by
  unfold Machine.opclEffect
  extract_lets v s0 s1
  have hs0 : s0.MemoryCanonical := updTeam h.s
  have hs1 : s1.MemoryCanonical := either (requestStop hs0) hs0
  clear_value s0 s1
  exact updGroup hs1

theorem execOpcl {o} (h : s.MemoryCanonical) : OutCanonical (execOpcl o s) := by
  unfold Machine.execOpcl
  exact program h (fun _ hu => Yields.ok (issue_seq (either (opclEffect hu) (wroteWords hu)) hu))

theorem execGwait {o} (h : s.MemoryCanonical) : OutCanonical (execGwait o s) := by
  unfold Machine.execGwait
  refine program h (fun _ hu => ?_)
  refine Yields.either (Yields.ok (issue_seq (wroteWords hu) hu)) ?_
  split
  · exact Yields.error StopCanonical.wait
  · exact Yields.ok (issue_seq (wroteWords hu) hu)

theorem execTrap {o} (h : s.MemoryCanonical) : OutCanonical (execTrap o s) := by
  unfold Machine.execTrap
  exact program h (fun _ hu => Yields.either (Yields.error StopCanonical.trap) (Yields.ok (issue_seq hu.s hu)))

/-! ## Placement of teams -/

theorem reassign {w ok} (h : s.MemoryCanonical) : Gives State.MemoryCanonical (s.reassign w ok) := by
  unfold State.reassign
  extract_lets mine free die
  refine Gives.either Gives.none ?_
  split
  · exact Gives.none
  · exact Gives.some (changeClass h)

theorem arrive {id t core waiting} (h : s.MemoryCanonical) : (s.arrive id t core waiting).MemoryCanonical := by
  unfold State.arrive
  extract_lets ts s1
  have hs1 : s1.MemoryCanonical := either (updCore h) h
  clear_value s1
  split
  extract_lets zero t1 s2 src
  have hzero : ∀ u, Memory.wf u = true → Memory.wf (zero u) = true := by
    unfold zero
    intro _ hu
    split
    · exact Memory.wf_setCells _ _ _ _ hu
    · exact hu
  have hs2 : s2.MemoryCanonical := by
    unfold s2
    split
    · exact clearVaultPoison hs1
    · exact hs1
  clear_value zero s2
  exact updLaunch (made (hzero _ (State.MemoryCanonical.mem hs2)) (State.MemoryCanonical.ext hs2))

theorem columnBoundary {col} (h : s.MemoryCanonical) : (s.columnBoundary col).MemoryCanonical := by
  unfold State.columnBoundary
  refine either h ?_
  extract_lets s1 src
  have hs1 : s1.MemoryCanonical := updColumn h
  clear_value s1
  split
  · exact set hs1
  · exact hs1

theorem freeHeld {launch} (h : s.MemoryCanonical) : (s.freeHeld launch).MemoryCanonical := either h (set h)

theorem leave {id t} (h : s.MemoryCanonical) : (s.leave id t).MemoryCanonical := by
  unfold State.leave
  extract_lets s1 s2
  have hs1 : s1.MemoryCanonical := updColumn (set h)
  have hs2 : s2.MemoryCanonical := by
    unfold s2
    split
    · exact freeHeld hs1
    · exact hs1
  clear_value s1 s2
  exact columnBoundary (clusterBoundary hs2)

theorem withdrawStops {launch} (h : s.MemoryCanonical) : (s.withdrawStops launch).MemoryCanonical := freeHeld (set h)

theorem placeOne {h' w id t ok0} (h : s.MemoryCanonical) : Gives State.MemoryCanonical (s.placeOne h' w id t ok0) := by
  unfold State.placeOne
  extract_lets free ok
  split
  · exact Gives.some (arrive h)
  · refine Gives.either Gives.none ?_
    split
    · exact Gives.some (arrive h)
    · refine Gives.bind (reassign h) (fun _ hx => ?_)
      refine Gives.map Gives.any (fun _ _ => ?_)
      split
      exact arrive hx

theorem placeAll {h' ok done l} (h : s.MemoryCanonical) : Gives State.MemoryCanonical (s.placeAll h' ok done l) := by
  fun_induction s.placeAll h' ok done l
  · exact Gives.some h
  next ih => exact Gives.bind (placeOne h) (fun _ hx => ih _ hx)

theorem placeGang {h' cls l} (h : s.MemoryCanonical) : Gives State.MemoryCanonical (s.placeGang h' cls l) := by
  unfold State.placeGang
  extract_lets go clusters
  have hgo : ∀ u, Gives State.MemoryCanonical (go u) := fun _ => placeAll h
  clear_value go
  exact Gives.either (Gives.orElse (hgo _) (Gives.findSome (fun _ => hgo _)))
      (Gives.either (Gives.orElse (hgo _) (Gives.findSome (fun _ => hgo _))) (hgo _))

theorem formGang {gid k ids} (h : s.MemoryCanonical) : (s.formGang gid k ids).MemoryCanonical := by
  unfold State.formGang
  extract_lets dies s1
  have hs1 : s1.MemoryCanonical := by
    unfold s1
    refine folded (fun _ _ hx => ?_) h
    split
    exact updTeam hx
  clear_value s1
  exact set hs1

theorem formPair {a b} (h : s.MemoryCanonical) : (s.formPair a b).MemoryCanonical := updTeam (updTeam h)

theorem placeClump {slot l h' c} (h : s.MemoryCanonical) : Gives (fun p => p.1.MemoryCanonical) (s.placeClump slot l h' c) := by
  unfold State.placeClump
  extract_lets ts s1 placed
  have hs1 : s1.MemoryCanonical := set h
  have hplaced : Gives State.MemoryCanonical placed := Gives.either (placeGang hs1) (Gives.either (placeAll hs1) (placeAll hs1))
  clear_value s1 placed
  exact Gives.map hplaced (fun _ hx => hx)

theorem placeClumps {slot l h' l'} (h : s.MemoryCanonical) : Gives (fun p => p.1.MemoryCanonical) (s.placeClumps slot l h' l') := by
  fun_induction s.placeClumps slot l h' l'
  · exact Gives.some h
  next ih =>
    refine Gives.bind (placeClump h) (fun _ hx => ?_)
    split
    exact Gives.map (ih _ _ hx) (fun _ hx' => hx')

theorem revive {id v} (h : s.MemoryCanonical) : (s.revive id v).MemoryCanonical := by
  unfold State.revive
  split
  · exact h
  · extract_lets t1 s1 s2
    have hs1 : s1.MemoryCanonical := putBack (setTeam h)
    have hs2 : s2.MemoryCanonical := updCore hs1
    clear_value s1 s2
    exact set hs2

theorem regang {ids} (h : s.MemoryCanonical) : (s.regang ids).MemoryCanonical := by
  unfold State.regang
  split
  · exact h
  · exact set h

theorem clumpStands {slot l a} (h : s.MemoryCanonical) : (s.clumpStands slot l a).MemoryCanonical := by
  unfold State.clumpStands
  split
  · extract_lets s1
    have hs1 : s1.MemoryCanonical := by
      unfold s1
      refine either (formGang (set h)) ?_
      split
      · exact either (formPair h) h
      · exact h
    clear_value s1
    exact updLaunch hs1
  · extract_lets s1 s2
    have hs1 : s1.MemoryCanonical := by
      unfold s1
      refine folded (fun _ _ hx => ?_) h
      split
      · exact revive hx
      · exact hx
    have hs2 : s2.MemoryCanonical := by
      unfold s2
      split
      · exact either (formPair hs1) hs1
      · exact hs1
    clear_value s1 s2
    exact updLaunch (regang hs2)

theorem placeSome {slot l h' cs} (h : s.MemoryCanonical) : Gives State.MemoryCanonical (s.placeSome slot l h' cs) := by
  unfold State.placeSome
  refine Gives.findSome (fun _ => ?_)
  refine Gives.map (placeClumps h) (fun _ hx' => ?_)
  split
  exact folded (fun _ _ hx'' => clumpStands hx'') hx'

theorem placeUnit {slot l} (h : s.MemoryCanonical) : Gives DispatchGrantCanonical (s.placeUnit slot l) := by
  unfold State.placeUnit
  refine Gives.either Gives.none ?_
  extract_lets cs
  refine Gives.map (placeSome h) (fun _ hx => ?_)
  clear_value cs
  split <;> exact withdrawStops hx

theorem refuseLaunch {slot code} (h : s.MemoryCanonical) : (s.refuseLaunch slot code).MemoryCanonical := updLaunch (endLaunch h)

theorem nextGrant {l} (h : s.MemoryCanonical) : Gives DispatchGrantCanonical (s.nextGrant l) := by
  fun_induction s.nextGrant l
  · exact Gives.none
  · exact Gives.some (refuseLaunch h)
  next c' => exact Gives.some (Gives.elim (P := DispatchGrantCanonical) c' (placeUnit (updLaunch h)))
  · exact Gives.some (updLaunch h)
  next c => exact Gives.some (Gives.elim (P := DispatchGrantCanonical) c (placeUnit h))
  next ih => exact ih

/-! ## Task graphs -/

theorem graphEnd {id} (h : s.MemoryCanonical) : (s.graphEnd id).MemoryCanonical := by
  unfold State.graphEnd
  split
  · exact h
  · exact either h (notify (set h))

theorem frontRead {ctx va n size} (h : s.MemoryCanonical) : FrontReadCanonical (s.frontRead ctx va n size) := by
  unfold State.frontRead
  extract_lets ws l lines
  split
  · exact trivial
  · split
    · exact trivial
    · exact trivial
    · split
      · exact folded (fun _ _ hx => touched (State.settle_touches ..) hx) h
      · split
        · exact trivial
        · split
          next s2 _ e'' =>
            have hs2 : s2.MemoryCanonical := carried (P := fun p => p.1.MemoryCanonical) e'' (rmaReadAll h)
            exact hs2

theorem withGraph {id x} (h : s.MemoryCanonical) : (s.withGraph id x).MemoryCanonical := graphEnd (set h)
theorem nodeFails {id g i st} (h : s.MemoryCanonical) : (s.nodeFails id g i st).MemoryCanonical := withGraph h
theorem nodeUnread {id g i cause} (h : s.MemoryCanonical) : (s.nodeUnread id g i cause).MemoryCanonical := nodeFails h

theorem kernelFires {s1 : State} {id g i bs} (h : s.MemoryCanonical) (hs1 : s1.MemoryCanonical) : (s.kernelFires s1 id g i bs).MemoryCanonical := by
  unfold State.kernelFires
  split
  · exact nodeFails h
  next p _ =>
    split
    · exact nodeFails h
    next s2 e' =>
      have hs2 : s2.MemoryCanonical := Gives.elim (P := fun p => p.2.MemoryCanonical) e' (accept hs1)
      exact withGraph hs2

theorem choiceFires {id g i bs} (h : s.MemoryCanonical) : (s.choiceFires id g i bs).MemoryCanonical := withGraph h

theorem nodeRead {g i} (h : s.MemoryCanonical) : FrontReadCanonical (s.nodeRead g i) := by
  unfold State.nodeRead
  extract_lets n
  split <;> exact frontRead h

theorem nodeFires {s1 : State} {id g i bs} (h : s.MemoryCanonical) (hs1 : s1.MemoryCanonical) : (s.nodeFires s1 id g i bs).MemoryCanonical :=
  either (kernelFires h hs1) (choiceFires hs1)

theorem nodeHeld {id g i ia why} (h : s.MemoryCanonical) : (s.nodeHeld id g i ia why).MemoryCanonical := by
  unfold State.nodeHeld
  extract_lets a s1
  have hs1 : s1.MemoryCanonical := set h
  clear_value s1
  split
  · exact touched (State.holdAtHome_touches ..) hs1
  · exact touched (State.keep_touches ..) hs1

theorem execGraphNodeFire {id} (h : s.MemoryCanonical) : OutCanonical (execGraphNodeFire id s) := by
  unfold Machine.execGraphNodeFire
  split
  · exact OutCanonical.fault
  · split
    · exact OutCanonical.fault
    · split
      · exact OutCanonical.next (nodeUnread h)
      · exact OutCanonical.next (nodeHeld h)
      · exact OutCanonical.fault
      next s1 e''' =>
        have hs1 : s1.MemoryCanonical := carried (P := FrontReadCanonical) e''' (nodeRead h)
        exact OutCanonical.next hs1
      next s1 _ e''' =>
        have hs1 : s1.MemoryCanonical := carried (P := FrontReadCanonical) e''' (nodeRead h)
        exact OutCanonical.next (nodeFires h hs1)

theorem nodeEnded {id node slot status} (h : s.MemoryCanonical) : (s.nodeEnded id node slot status).MemoryCanonical := by
  unfold State.nodeEnded
  split
  · exact h
  · exact graphEnd (set h)

/-! ## Teams and grids -/

theorem execDispatchRequest {die} (h : s.MemoryCanonical) : OutCanonical (execDispatchRequest die s) := by
  unfold Machine.execDispatchRequest
  split
  next s1 e =>
    have hs1 : s1.MemoryCanonical := Gives.elim (P := DispatchGrantCanonical) e (nextGrant h)
    exact OutCanonical.either (OutCanonical.next hs1) OutCanonical.fault
  next s1 e =>
    have hs1 : s1.MemoryCanonical := Gives.elim (P := DispatchGrantCanonical) e (nextGrant h)
    exact OutCanonical.either (OutCanonical.next hs1) OutCanonical.fault
  · exact OutCanonical.fault

theorem execTeamRestore {team core} (h : s.MemoryCanonical) : OutCanonical (execTeamRestore team core s) := by
  unfold Machine.execTeamRestore
  split
  next s1 e =>
    have hs1 : s1.MemoryCanonical := Gives.elim (P := DispatchGrantCanonical) e (nextGrant h)
    exact OutCanonical.either (OutCanonical.next hs1) OutCanonical.fault
  · exact OutCanonical.fault

theorem clearSlices {t} (h : s.MemoryCanonical) : (s.clearSlices t).MemoryCanonical := by
  unfold State.clearSlices
  extract_lets c m1 m2 mine
  have hm1 : Memory.wf m1 = true := Memory.wf_setCells _ _ _ _ (State.MemoryCanonical.mem h)
  have hm2 : Memory.wf m2 = true := Memory.wf_setCells _ _ _ _ hm1
  clear_value m1 m2
  exact updCore (made hm2 (State.MemoryCanonical.ext h))

theorem startTeam {id} (h : s.MemoryCanonical) : (s.startTeam id).MemoryCanonical := by
  unfold State.startTeam
  split
  · exact h
  · extract_lets t1 s1 s2
    have hs1 : s1.MemoryCanonical := clearSlices (setTeam h)
    have hs2 : s2.MemoryCanonical := updCore hs1
    clear_value s1 s2
    exact either (set hs2) hs2

theorem startAll {ids} (h : s.MemoryCanonical) : (s.startAll ids).MemoryCanonical := folded (fun _ _ hx => either (startTeam hx) hx) h

theorem execTeamStart {team} (h : s.MemoryCanonical) : OutCanonical (execTeamStart team s) := by
  unfold Machine.execTeamStart
  split
  · exact OutCanonical.fault
  · exact OutCanonical.either OutCanonical.fault (OutCanonical.next (startAll h))

theorem lastInterval {id t} (h : s.MemoryCanonical) : (s.lastInterval id t).MemoryCanonical := by
  unfold State.lastInterval
  split
  · exact h
  · extract_lets s1 s2
    have hs1 : s1.MemoryCanonical := drainTeam h
    have hs2 : s2.MemoryCanonical := either hs1 (addCounts hs1)
    clear_value s1 s2
    exact set hs2

theorem pruneGang {t} (h : s.MemoryCanonical) : (s.pruneGang t).MemoryCanonical := by
  unfold State.pruneGang
  split
  · exact h
  · split
    · exact either h (set h)
    · exact h

theorem noteHorizon {t} (h : s.MemoryCanonical) : (s.noteHorizon t).MemoryCanonical := updLaunch h

theorem vacate {id t} (h : s.MemoryCanonical) : (s.vacate id t).MemoryCanonical := by
  unfold State.vacate
  extract_lets s1
  have hs1 : s1.MemoryCanonical := updCore (dropTiles (noteHorizon h))
  clear_value s1
  exact pruneGang (leave (set hs1))

theorem execTeamRetire {team} (h : s.MemoryCanonical) : OutCanonical (execTeamRetire team s) := by
  unfold Machine.execTeamRetire
  split
  · exact OutCanonical.fault
  · refine OutCanonical.either (OutCanonical.either OutCanonical.fault (OutCanonical.next (vacate h))) ?_
    refine OutCanonical.either OutCanonical.fault ?_
    extract_lets s1
    have hs1 : s1.MemoryCanonical := lastInterval h
    clear_value s1
    exact OutCanonical.next (vacate (reportItem hs1))

theorem releaseDies {dies} (h : s.MemoryCanonical) : (s.releaseDies dies).1.MemoryCanonical := by
  unfold State.releaseDies
  refine keptByFold (P := fun (p : State × Nat) => p.1.MemoryCanonical) (fun _ _ hx => ?_) h
  split
  split
  next s1' _ e =>
    have hs1' : s1'.MemoryCanonical := carried (P := fun p => p.1.MemoryCanonical) e (touched (State.drain_touches ..) hx)
    exact hs1'

theorem retireGrid {slot} (h : s.MemoryCanonical) : (s.retireGrid slot).MemoryCanonical := by
  unfold State.retireGrid
  split
  · exact h
  · extract_lets status s2 s3 s4
    have hs2 : s2.MemoryCanonical := notify (set h)
    have hs3 : s3.MemoryCanonical := by
      unfold s3
      split
      · extract_lets u
        have hu : u.MemoryCanonical := updCtx (updLaunch hs2)
        clear_value u
        exact wakeAll hu
      · exact hs2
    have hs4 : s4.MemoryCanonical := withdrawStops hs3
    clear_value s2 s3 s4
    split
    · exact nodeEnded hs4
    · exact hs4

theorem releaseGrid {launch l} (h : s.MemoryCanonical) : (s.releaseGrid launch l).MemoryCanonical := by
  unfold State.releaseGrid
  split
  next s1 _ e =>
    have hs1 : s1.MemoryCanonical := carried (P := fun p => p.1.MemoryCanonical) e (releaseDies h)
    exact either (retireGrid hs1) (updLaunch hs1)

theorem execGridRetire {launch} (h : s.MemoryCanonical) : OutCanonical (execGridRetire launch s) := by
  unfold Machine.execGridRetire
  split
  · exact OutCanonical.fault
  · refine OutCanonical.either OutCanonical.fault ?_
    split
    · exact OutCanonical.either (OutCanonical.next (retireGrid h)) OutCanonical.fault
    · exact OutCanonical.next (releaseGrid h)

theorem preempt {launch core ids} (h : s.MemoryCanonical) : (s.preempt launch core ids).MemoryCanonical :=
  updCore (folded (fun _ _ hx => requestStop hx) h)

theorem execPreemptionRequest {launch} (h : s.MemoryCanonical) : OutCanonical (execPreemptionRequest launch s) := by
  unfold Machine.execPreemptionRequest
  split
  · exact OutCanonical.fault
  · refine OutCanonical.either OutCanonical.fault ?_
    split
    · exact OutCanonical.next (preempt h)
    · exact OutCanonical.fault

theorem forceStop {team t} (h : s.MemoryCanonical) : (s.forceStop team t).MemoryCanonical := by
  unfold State.forceStop
  extract_lets s1 stop
  have hs1 : s1.MemoryCanonical := by
    unfold s1
    refine folded (fun _ _ hx => ?_) h
    split
    exact either hx (dissolve hx)
  clear_value s1
  exact wakeLogs (withdrawMate (updTeam hs1))

theorem execForcedStop {team} (h : s.MemoryCanonical) : OutCanonical (execForcedStop team s) := by
  unfold Machine.execForcedStop
  split
  · exact OutCanonical.fault
  · split
    · exact OutCanonical.either OutCanonical.fault (OutCanonical.next (forceStop h))
    · exact OutCanonical.fault

theorem fenceSave {team t} (h : s.MemoryCanonical) : (s.fenceSave team t).MemoryCanonical := by
  unfold State.fenceSave
  split
  next s1 _ e =>
    have hs1 : s1.MemoryCanonical := carried (P := fun p => p.1.MemoryCanonical) e (touched (State.drain_touches ..) h)
    exact updTeam hs1

theorem saveTeam {team t} (h : s.MemoryCanonical) : (s.saveTeam team t).MemoryCanonical := by
  unfold State.saveTeam
  extract_lets mine t1
  split
  extract_lets s1 s2 s3
  have hs1 : s1.MemoryCanonical := set h
  have hs2 : s2.MemoryCanonical := updCore hs1
  have hs3 : s3.MemoryCanonical := dropWaiters hs2
  clear_value s1 s2 s3
  exact updLaunch (wakeLogs (leave hs3))

theorem execTeamSaveEnd {team} (h : s.MemoryCanonical) : OutCanonical (execTeamSaveEnd team s) := by
  unfold Machine.execTeamSaveEnd
  split
  · exact OutCanonical.fault
  · exact OutCanonical.either OutCanonical.fault
      (OutCanonical.either (OutCanonical.next (folded (fun _ _ hx => either (fenceSave hx) hx) h))
      (OutCanonical.either (OutCanonical.next (folded (fun _ _ hx => saveTeam hx) h)) OutCanonical.fault))

end Canonical

end Sys2Proof.Machine
end


section
/-! Memory stays in its canonical form under power, containment, control flow and page faults.
Each theorem is named after the function of the model that it speaks of. -/
namespace Sys2Proof.Machine
open Sys2Proof

namespace Canonical
variable {s : State} {x : Issue}

/-! ## Power -/

theorem windowCore {core target idle} (h : s.MemoryCanonical) : (s.windowCore core target idle).MemoryCanonical := updCore h

theorem trapMidnight {core} (h : s.MemoryCanonical) : (s.trapMidnight core).MemoryCanonical := by
  unfold State.trapMidnight
  extract_lets w clear src
  refine folded (fun _ _ hx => ?_) (updCore h)
  split
  refine either hx ?_
  split
  extract_lets mates v'' src' src''
  have hv'' : v''.MemoryCanonical := raiseTrap hx
  clear_value v''
  exact set hv''

theorem windowColumn {col} (h : s.MemoryCanonical) : (s.windowColumn col).MemoryCanonical := by
  unfold State.windowColumn
  extract_lets cores R target s1 s2
  have hs1 : s1.MemoryCanonical := folded (fun _ _ hx => windowCore hx) h
  have hs2 : s2.MemoryCanonical := updColumn hs1
  clear_value s1 s2
  split
  · exact trapMidnight hs2
  · exact hs2

theorem stopsWaiting {cl} (h : s.MemoryCanonical) : (s.stopsWaiting cl).MemoryCanonical := by
  unfold State.stopsWaiting
  extract_lets s1
  have hs1 : s1.MemoryCanonical := updCluster h
  clear_value s1
  refine either hs1 ?_
  refine folded (fun _ _ hx => ?_) hs1
  split
  exact requestStop hx

theorem windowWaits {cl} (h : s.MemoryCanonical) : (s.windowWaits cl).MemoryCanonical := either (updCluster h) (stopsWaiting h)

theorem waitOver (h : s.MemoryCanonical) : Gives State.MemoryCanonical s.waitOver := by
  unfold State.waitOver
  refine Gives.findSome (fun _ => ?_)
  split
  exact Gives.either (Gives.some (stopsWaiting h)) Gives.none

theorem windowDone {cluster} (h : s.MemoryCanonical) : (s.windowDone cluster).MemoryCanonical := by
  unfold State.windowDone
  extract_lets s0 s1 burns
  have hs0 : s0.MemoryCanonical := folded (fun _ _ hx => chargePasses hx) h
  have hs1 : s1.MemoryCanonical := folded (fun _ _ hx => windowColumn hx) hs0
  clear_value s0 s1
  exact updCluster (windowWaits (set hs1))

theorem execEstimatorWindowEnd {cluster} (h : s.MemoryCanonical) : OutCanonical (execEstimatorWindowEnd cluster s) := by
  unfold Machine.execEstimatorWindowEnd
  exact OutCanonical.either OutCanonical.fault (OutCanonical.next (windowDone h))

theorem classChanged {cluster cls} (h : s.MemoryCanonical) : (s.classChanged cluster cls).MemoryCanonical := by
  unfold State.classChanged
  extract_lets fold clear s1
  have hs1 : s1.MemoryCanonical := folded (fun _ _ hx => updCore hx) (set h)
  clear_value s1
  exact updCluster hs1

theorem execClassChangeEnd {cluster} (h : s.MemoryCanonical) : OutCanonical (execClassChangeEnd cluster s) := by
  unfold Machine.execClassChangeEnd
  split
  · exact OutCanonical.fault
  · exact OutCanonical.either OutCanonical.fault (OutCanonical.next (classChanged h))

theorem stepDown {cl noted} (h : s.MemoryCanonical) : (s.stepDown cl noted).MemoryCanonical := either h (clusterBoundary (setCluster h))
theorem enforce {old new cls} (h : s.MemoryCanonical) : (s.enforce old new cls).MemoryCanonical :=
  either (folded (fun _ _ hx => stepDown hx) h) h
theorem holdUp {cores ceu} (h : s.MemoryCanonical) : (s.holdUp cores ceu).MemoryCanonical := set h

theorem powerInterval {m} (h : s.MemoryCanonical) : (s.powerInterval m).MemoryCanonical := by
  unfold State.powerInterval
  extract_lets now p limit high level parts levels falls low rstate idle p1 src s1 s2 s3 held src' s4
  have hs1 : s1.MemoryCanonical := set h
  have hs2 : s2.MemoryCanonical := enforce hs1
  have hs3 : s3.MemoryCanonical := folded (fun _ _ hx => enforce hx) hs2
  have hsrc' : src'.MemoryCanonical := holdUp hs3
  have hs4 : s4.MemoryCanonical := set hsrc'
  clear_value s1 s2 s3 src' s4
  exact notify hs4

theorem powerFall (h : s.MemoryCanonical) : Gives State.MemoryCanonical s.powerFall := by
  unfold State.powerFall
  extract_lets p src src'
  have hsrc : src.MemoryCanonical := holdUp h
  clear_value src
  split
  · exact Gives.none
  · exact Gives.either Gives.none (Gives.some (set hsrc))

theorem execPowerIntervalEnd {m} (h : s.MemoryCanonical) : OutCanonical (execPowerIntervalEnd m s) := by
  unfold Machine.execPowerIntervalEnd
  exact OutCanonical.either OutCanonical.fault (OutCanonical.next (powerInterval h))

theorem lend {launch peer saved} (h : s.MemoryCanonical) : (s.lend launch peer saved).MemoryCanonical := by
  unfold State.lend
  extract_lets cls s1 src src'
  have hs1 : s1.MemoryCanonical := folded (fun _ _ hx => either hx (stepDown (setCluster hx))) h
  clear_value s1
  exact set hs1

theorem arrivalNoted {peer grp number time saved} (h : s.MemoryCanonical) : (s.arrivalNoted peer grp number time saved).MemoryCanonical := by
  unfold State.arrivalNoted
  extract_lets p peers src
  split
  refine either h ?_
  extract_lets r s1 done
  have hs1 : s1.MemoryCanonical := set h
  clear_value s1
  split
  · exact either (lend hs1) hs1
  · exact hs1

theorem execArrivalReport {peer grp number time saved} (h : s.MemoryCanonical) : OutCanonical (execArrivalReport peer grp number time saved s) := by
  unfold Machine.execArrivalReport
  exact OutCanonical.either OutCanonical.fault (OutCanonical.next (arrivalNoted h))

theorem execBudgetMessage {watts} (h : s.MemoryCanonical) : OutCanonical (execBudgetMessage watts s) := by
  unfold Machine.execBudgetMessage
  exact OutCanonical.either OutCanonical.fault (OutCanonical.next (set h))

theorem migrates {cluster targets id t} (h : s.MemoryCanonical) : (s.migrates cluster targets id t).MemoryCanonical :=
  requestStop (folded (fun _ _ hx => updTeam hx) h)

theorem cooled {cluster temps} (h : s.MemoryCanonical) : (s.cooled cluster temps).MemoryCanonical := by
  unfold State.cooled
  extract_lets c targets
  refine either (either h (stepDown (setCluster h))) ?_
  refine folded (fun _ _ hx => ?_) h
  split
  exact either (migrates hx) hx

theorem execHotSpotMigration {cluster temps} (h : s.MemoryCanonical) : OutCanonical (execHotSpotMigration cluster temps s) := by
  unfold Machine.execHotSpotMigration
  exact OutCanonical.either OutCanonical.fault (OutCanonical.next (cooled h))

theorem steppedUp {cluster from_} (h : s.MemoryCanonical) : (s.steppedUp cluster from_).MemoryCanonical :=
  either (setCluster h) (clusterBoundary (setCluster h))

theorem execHotSpotStepUp {cluster} (h : s.MemoryCanonical) : OutCanonical (execHotSpotStepUp cluster s) := by
  unfold Machine.execHotSpotStepUp
  split
  · exact OutCanonical.fault
  · exact OutCanonical.either OutCanonical.fault (OutCanonical.next (steppedUp h))

/-! ## Containment -/

theorem sendIrq {launch counter} (h : s.MemoryCanonical) : (s.sendIrq launch counter).MemoryCanonical := notify (updIo h)

theorem execCounterIrq {launch counter} (h : s.MemoryCanonical) : OutCanonical (execCounterIrq launch counter s) := by
  unfold Machine.execCounterIrq
  exact OutCanonical.either (OutCanonical.next (sendIrq h)) OutCanonical.fault

theorem execErrorIrq {unit} (h : s.MemoryCanonical) : OutCanonical (execErrorIrq unit s) := by
  unfold Machine.execErrorIrq
  exact OutCanonical.either (OutCanonical.next (notify (updIo h))) OutCanonical.fault

theorem flawL2 {die word} (h : s.MemoryCanonical) : (s.flawL2 die word).MemoryCanonical :=
  either (touched (State.setL2_touches ..) h) (either h (touched (State.setL2_touches ..) h))

theorem flawSlice {word} (h : s.MemoryCanonical) : (s.flawSlice word).MemoryCanonical := by
  unfold State.flawSlice
  extract_lets line w x
  refine either h ?_
  refine either (touched (State.setSlice_touches ..) h) ?_
  split
  · exact touched (State.setSlice_touches ..) h
  · exact h

theorem consumeBy {id} (h : s.MemoryCanonical) : (s.consumeBy id).MemoryCanonical := by
  unfold State.consumeBy
  split
  · exact h
  · exact either h (take h)

theorem flawReg {r} (h : s.MemoryCanonical) : (s.flawReg r).MemoryCanonical := by
  unfold State.flawReg
  split
  · exact h
  · exact either h (either (setGroup h) (take h))

theorem scrubbed {p f} (h : s.MemoryCanonical) : (s.scrubbed p f).MemoryCanonical := by
  unfold State.scrubbed
  split
  · exact corrected (updCore h)
  · exact corrected h
  · exact flawReg h
  · exact corrected h
  · exact consumeBy h
  · exact corrected h
  · exact flawL2 h
  · exact corrected h
  · exact touched (State.updDie_touches ..) h
  · exact corrected h
  · exact flawSlice h
  · exact corrected h
  · exact touched (State.updHome_touches ..) h

theorem execScrub {p f} (h : s.MemoryCanonical) : OutCanonical (execScrub p f s) := by
  unfold Machine.execScrub
  exact OutCanonical.next (scrubbed h)

theorem twinBoundary {id primary k} (h : s.MemoryCanonical) : (s.twinBoundary id primary k).MemoryCanonical := by
  unfold State.twinBoundary
  extract_lets drop s1 s2
  have hs1 : s1.MemoryCanonical := updTeam (either (drainTeam h) (set h))
  have hs2 : s2.MemoryCanonical := by
    unfold s2
    split
    · exact addCounts hs1
    · exact hs1
  clear_value s1 s2
  split
  · split
    · exact openInterval (passBar hs1)
    · exact openInterval hs1
  · exact openInterval hs1
  · exact set hs2

theorem twinRollback {id} (h : s.MemoryCanonical) : (s.twinRollback id).MemoryCanonical := by
  unfold State.twinRollback
  extract_lets s1 src
  have hs1 : s1.MemoryCanonical := rollback h
  have hsrc : src.MemoryCanonical := updTeam hs1
  clear_value s1 src
  exact set hsrc

theorem pairPasses {team mate first k x y} (h : s.MemoryCanonical) : (s.pairPasses team mate first k x y).MemoryCanonical := by
  unfold State.pairPasses
  extract_lets own mark
  have hmark : ∀ u v, u.MemoryCanonical → (mark u v).MemoryCanonical := fun _ _ hv => set hv
  clear_value mark
  exact hmark _ _ (hmark _ _ (twinBoundary (twinBoundary h)))

theorem pairFails {team mate ta tb x y} (h : s.MemoryCanonical) : (s.pairFails team mate ta tb x y).MemoryCanonical :=
  either (raiseTrap h) (either (twinRollback (twinRollback h)) (raiseTrap h))

theorem execPairedSignature {team} (h : s.MemoryCanonical) : OutCanonical (execPairedSignature team s) := by
  unfold Machine.execPairedSignature
  split
  · exact OutCanonical.fault
  · split
    · exact OutCanonical.fault
    · split
      · refine OutCanonical.either OutCanonical.fault ?_
        split
        · exact OutCanonical.fault
        · exact OutCanonical.next (either (pairPasses h) (pairFails h))
      · exact OutCanonical.fault

theorem failTeam {id} (h : s.MemoryCanonical) : (s.failTeam id).MemoryCanonical := by
  unfold State.failTeam
  split
  · exact h
  · exact either h (reportItem (stopTeam h))

theorem failTeams {ids} (h : s.MemoryCanonical) : (s.failTeams ids).MemoryCanonical :=
  folded (fun _ _ hx => breakGang hx) (folded (fun _ _ hx => failTeam hx) h)

theorem poisonLine {die line} (h : s.MemoryCanonical) : (s.poisonLine die line).MemoryCanonical := by
  unfold State.poisonLine
  split
  · extract_lets s1 x
    have hs1 : s1.MemoryCanonical := touched (State.fillSlice_touches ..) h
    clear_value s1
    exact touched (State.setFramePoison_touches ..) (touched (State.setSlice_touches ..) hs1)
  · exact h

theorem poisonHome {die h'} (h : s.MemoryCanonical) : (s.poisonHome die h').MemoryCanonical := by
  unfold State.poisonHome
  refine folded (fun _ _ hx => ?_) h
  split
  exact poisonLine hx

theorem dieFails {die} (h : s.MemoryCanonical) : (s.dieFails die).MemoryCanonical := by
  unfold State.dieFails
  extract_lets s1 ops s2 s3
  have hs1 : s1.MemoryCanonical := failTeams h
  have hs2 : s2.MemoryCanonical := by
    unfold s2
    refine folded (fun _ _ hx => ?_) hs1
    extract_lets src
    have hsrc : src.MemoryCanonical := endOp hx
    clear_value src
    exact set hsrc
  have hs3 : s3.MemoryCanonical := touched (State.updDie_touches ..) hs2
  clear_value s1 s2 s3
  exact folded (fun _ _ hx => poisonHome hx) hs3

theorem execDieFailure {die} (h : s.MemoryCanonical) : OutCanonical (execDieFailure die s) := by
  unfold Machine.execDieFailure
  exact OutCanonical.either OutCanonical.fault (OutCanonical.next (dieFails h))

theorem execMemorySideDieFailure {home} (h : s.MemoryCanonical) : OutCanonical (execMemorySideDieFailure home s) := by
  unfold Machine.execMemorySideDieFailure
  exact OutCanonical.either OutCanonical.fault (OutCanonical.next (touched (State.updHome_touches ..) h))

theorem execIoDieFailure (h : s.MemoryCanonical) : OutCanonical (execIoDieFailure s) := by
  unfold Machine.execIoDieFailure
  exact OutCanonical.next (updIo h)

theorem coreFails {core} (h : s.MemoryCanonical) : (s.coreFails core).MemoryCanonical := by
  unfold State.coreFails
  extract_lets s1
  have hs1 : s1.MemoryCanonical := failTeams h
  clear_value s1
  exact either hs1 (columnBoundary (updColumn hs1))

theorem execCoreFailure {core} (h : s.MemoryCanonical) : OutCanonical (execCoreFailure core s) := by
  unfold Machine.execCoreFailure
  exact OutCanonical.either OutCanonical.fault (OutCanonical.next (coreFails h))

theorem execPortRetirement {port} (h : s.MemoryCanonical) : OutCanonical (execPortRetirement port s) := by
  unfold Machine.execPortRetirement
  exact OutCanonical.either OutCanonical.fault (OutCanonical.next (updIo h))

/-! ## Integer and logic instructions -/

theorem selOp_tie {o} : Yields (fun _ => True) ((selOp o).tie x) := by
  unfold selOp
  dsimp only
  split
  · exact Yields.either (Yields.ok trivial) (Yields.error StopCanonical.trap)
  · exact Yields.ok trivial

theorem execNop {o} (h : s.MemoryCanonical) : OutCanonical (execNop o s) := by
  unfold Machine.execNop
  exact program h (fun _ hu => Yields.ok (issue_seq hu.s hu))

theorem execNopU {o} (h : s.MemoryCanonical) : OutCanonical (execNopU o s) := by
  unfold Machine.execNopU
  exact program h (fun _ hu => Yields.ok (issue_seq hu.s hu))

theorem execIcmp {o} (h : s.MemoryCanonical) : OutCanonical (execIcmp o s) := by
  unfold Machine.execIcmp
  exact program h (fun _ hu => Yields.map issue_classes (fun _ _ => issue_seq (wroteP hu) hu))

theorem execIcmpU {o} (h : s.MemoryCanonical) : OutCanonical (execIcmpU o s) := by
  unfold Machine.execIcmpU
  exact program h (fun _ hu => Yields.ok (issue_seq (wroteQ hu) hu))

theorem execIcmpi {o} (h : s.MemoryCanonical) : OutCanonical (execIcmpi o s) := by
  unfold Machine.execIcmpi
  exact program h (fun _ hu => Yields.ok (issue_seq (wroteQ hu) hu))

theorem execIaddi {u o} (h : s.MemoryCanonical) : OutCanonical (execIaddi u o s) := by
  unfold Machine.execIaddi
  split
  · exact uOp h
  · exact vOp (fun _ => Yields.ok trivial) h

theorem execImuli {u o} (h : s.MemoryCanonical) : OutCanonical (execImuli u o s) := by
  unfold Machine.execImuli
  split
  · exact uOp h
  · exact vOp (fun _ => Yields.ok trivial) h

theorem execAndi {u o} (h : s.MemoryCanonical) : OutCanonical (execAndi u o s) := by
  unfold Machine.execAndi
  split
  · exact uOp h
  · exact vOp (fun _ => Yields.ok trivial) h

theorem execOri {u o} (h : s.MemoryCanonical) : OutCanonical (execOri u o s) := by
  unfold Machine.execOri
  split
  · exact uOp h
  · exact vOp (fun _ => Yields.ok trivial) h

/-! ## Cross-lane instructions -/

theorem laneOp {i o q} (h : s.MemoryCanonical) : OutCanonical (laneOp i o q s) := by
  unfold Machine.laneOp
  exact program h (fun _ hu => Yields.map issue_classes (fun _ _ => issue_seq (issue_wroteV hu) hu))

theorem lxchEffect {o} (h : x.Canonical) : (lxchEffect x o).MemoryCanonical := by
  unfold Machine.lxchEffect
  exact updGroup h.s

theorem execLxch {o} (h : s.MemoryCanonical) : OutCanonical (execLxch o s) := by
  unfold Machine.execLxch
  exact program h (fun _ hu => Yields.map issue_classes (fun _ _ => issue_seq (lxchEffect hu) hu))

theorem execPart {o} (h : s.MemoryCanonical) : OutCanonical (execPart o s) := by
  unfold Machine.execPart
  exact program h (fun _ hu => Yields.ok (issue_onGroup hu))

/-! ## Control flow -/

theorem braPart {o} (h : x.Canonical) : (braPart o x).MemoryCanonical := by
  unfold Machine.braPart
  exact settled (updGroup h.s)

theorem braBody {nodiv o} (h : x.Canonical) : Yields State.MemoryCanonical (braBody nodiv o x) := by
  unfold Machine.braBody
  exact Yields.either (Yields.ok (issue_seq h.s h))
      (Yields.either (Yields.ok (issue_jump h.s)) (Yields.either (Yields.error StopCanonical.trap) (Yields.ok (braPart h))))

theorem execBra {o} (h : s.MemoryCanonical) : OutCanonical (execBra o s) := by
  unfold Machine.execBra
  exact program h (fun _ hu => braBody hu)

theorem execBraNodiv {o} (h : s.MemoryCanonical) : OutCanonical (execBraNodiv o s) := by
  unfold Machine.execBraNodiv
  exact program h (fun _ hu => braBody hu)

theorem execMeet {o} (h : s.MemoryCanonical) : OutCanonical (execMeet o s) := by
  unfold Machine.execMeet
  exact program h (fun _ hu => Yields.ok (issue_onGroup hu))

theorem execBru {o} (h : s.MemoryCanonical) : OutCanonical (execBru o s) := by
  unfold Machine.execBru
  exact program h (fun _ hu => Yields.ok (either (issue_jump hu.s) (issue_seq hu.s hu)))

theorem execJmp {o} (h : s.MemoryCanonical) : OutCanonical (execJmp o s) := by
  unfold Machine.execJmp
  exact program h (fun _ hu => Yields.ok (issue_jump hu.s))

theorem execJmpi {o} (h : s.MemoryCanonical) : OutCanonical (execJmpi o s) := by
  unfold Machine.execJmpi
  exact program h (fun _ hu => Yields.either (Yields.error StopCanonical.trap) (Yields.ok (issue_jump hu.s)))

theorem execCall {o} (h : s.MemoryCanonical) : OutCanonical (execCall o s) := by
  unfold Machine.execCall
  exact program h (fun _ hu => Yields.either (Yields.ok (issue_jump (updGroup hu.s))) (Yields.error StopCanonical.trap))

theorem execRet {o} (h : s.MemoryCanonical) : OutCanonical (execRet o s) := by
  unfold Machine.execRet
  exact program h (fun _ hu => Yields.either (Yields.ok (issue_jump (updGroup hu.s))) (Yields.error StopCanonical.trap))

theorem exitEffect {sel} (h : x.Canonical) : (exitEffect sel x).MemoryCanonical := by
  unfold Machine.exitEffect
  extract_lets s1
  have hs1 : s1.MemoryCanonical := updGroup h.s
  clear_value s1
  exact meet (either (settled hs1) (issue_seq hs1 h))

theorem execExit {o} (h : s.MemoryCanonical) : OutCanonical (execExit o s) := by
  unfold Machine.execExit
  exact program h (fun _ hu => Yields.ok (exitEffect hu))

theorem execExitU {o} (h : s.MemoryCanonical) : OutCanonical (execExitU o s) := by
  unfold Machine.execExitU
  exact program h (fun _ hu => Yields.ok (exitEffect hu))

theorem issue_yields (h : x.Canonical) : x.yields.MemoryCanonical := safePoint (updGroup (issue_seq h.s (issue_plain h)))

theorem execYield {o} (h : s.MemoryCanonical) : OutCanonical (execYield o s) := by
  unfold Machine.execYield
  exact program h (fun _ hu => Yields.ok (issue_yields hu))

theorem execRegroup {o} (h : s.MemoryCanonical) : OutCanonical (execRegroup o s) := by
  unfold Machine.execRegroup
  exact program h (fun _ hu => Yields.map issue_classes (fun _ _ => meet (settled (updGroup hu.s))))

theorem loopOpen {o n} (h : x.Canonical) : (loopOpen o n x).MemoryCanonical := by
  unfold Machine.loopOpen
  exact updGroup h.s

theorem loopBody {o count} (h : x.Canonical) : Yields State.MemoryCanonical (loopBody o count x) := by
  unfold Machine.loopBody
  exact Yields.either (Yields.error StopCanonical.trap)
      (Yields.either (Yields.error StopCanonical.trap)
      (Yields.either (Yields.ok (issue_seq h.s (issue_goTo h))) (Yields.ok (issue_seq (loopOpen h) h))))

theorem execLoop {o} (h : s.MemoryCanonical) : OutCanonical (execLoop o s) := by
  unfold Machine.execLoop
  exact program h (fun _ hu => loopBody hu)

theorem execLoopi {o} (h : s.MemoryCanonical) : OutCanonical (execLoopi o s) := by
  unfold Machine.execLoopi
  exact program h (fun _ hu => loopBody hu)

theorem execBrk {o} (h : s.MemoryCanonical) : OutCanonical (execBrk o s) := by
  unfold Machine.execBrk
  exact program h (fun _ hu => Yields.ok (issue_seq (updGroup hu.s) (issue_goTo hu)))

theorem execLoopBack {r} (h : s.MemoryCanonical) : OutCanonical (execLoopBack r s) := by
  unfold Machine.execLoopBack
  split
  · exact OutCanonical.fault
  · refine OutCanonical.either OutCanonical.fault ?_
    split
    · exact OutCanonical.fault
    · refine OutCanonical.either (OutCanonical.next (settled (setGroup h))) ?_
      extract_lets s1
      have hs1 : s1.MemoryCanonical := setGroup h
      clear_value s1
      exact OutCanonical.next (either hs1 (settled hs1))

theorem switchFormed {r t g} (h : s.MemoryCanonical) : (s.switchFormed r t g).MemoryCanonical := by
  unfold State.switchFormed
  extract_lets ms
  refine either ?_ (updTeam h)
  refine folded (fun _ _ hx => ?_) (dissolve h)
  split
  exact updGroup hx

theorem execIssueLimitSwitch {r} (h : s.MemoryCanonical) : OutCanonical (execIssueLimitSwitch r s) := by
  unfold Machine.execIssueLimitSwitch
  split
  · exact OutCanonical.fault
  · refine OutCanonical.either OutCanonical.fault ?_
    split
    · exact OutCanonical.fault
    · exact OutCanonical.either OutCanonical.fault (OutCanonical.next (either (switchPoint h) (switchFormed h)))

theorem execGroupBoost {r} (h : s.MemoryCanonical) : OutCanonical (execGroupBoost r s) := by
  unfold Machine.execGroupBoost
  split
  · exact OutCanonical.fault
  · exact OutCanonical.either OutCanonical.fault (OutCanonical.next (updGroup h))

theorem execUnassignedExtendedOpcode {u w} (h : s.MemoryCanonical) : OutCanonical (execUnassignedExtendedOpcode u w s) := by
  unfold Machine.execUnassignedExtendedOpcode
  exact program h (fun _ hu' => Yields.ok hu'.s)

/-! ## Page faults -/

theorem execFaultResponse {l} (h : s.MemoryCanonical) : OutCanonical (execFaultResponse l s) := by
  unfold Machine.execFaultResponse
  split
  · exact OutCanonical.fault
  · refine OutCanonical.either OutCanonical.fault ?_
    split
    next t e'' =>
      have ht : t.MemoryCanonical := Gives.elim e'' (responds h)
      exact OutCanonical.next ht
    · exact OutCanonical.fault

theorem fetchTrap {r cause va} (h : s.MemoryCanonical) : (s.fetchTrap r cause va).MemoryCanonical := take h

theorem parkFetch {r t g ia level peer} (h : s.MemoryCanonical) : Gives State.MemoryCanonical (s.parkFetch r t g ia level peer) := by
  unfold State.parkFetch
  split
  next s2 _ e =>
    have hs2 : s2.MemoryCanonical := carried (P := fun p => p.1.MemoryCanonical) e (touched (State.report_touches ..) (dissolve h))
    exact Gives.either (Gives.some (passLog (updGroup hs2))) Gives.none

theorem fetchFaults {r t g va ia} (h : s.MemoryCanonical) : Gives State.MemoryCanonical (s.fetchFaults r t g va ia) := by
  unfold State.fetchFaults
  split
  · exact parkFetch h
  · exact parkFetch h
  · exact Gives.some (fetchTrap h)
  · exact Gives.none

theorem execFetchFault {r} (h : s.MemoryCanonical) : OutCanonical (execFetchFault r s) := by
  unfold Machine.execFetchFault
  split
  · exact OutCanonical.fault
  · refine OutCanonical.either OutCanonical.fault ?_
    split
    · split
      next t' e'' =>
        have ht' : t'.MemoryCanonical := Gives.elim e'' (fetchFaults h)
        exact OutCanonical.next ht'
      · exact OutCanonical.fault
    · exact OutCanonical.fault

theorem tellRecord {o id r} (h : s.MemoryCanonical) : (s.tellRecord o id r).MemoryCanonical := by
  unfold State.tellRecord
  split
  · exact sendOwn h
  · exact h

theorem post {o id r} (h : s.MemoryCanonical) : (s.post o id r).MemoryCanonical :=
  either (touched (State.setRec_touches ..) h) (tellRecord (updIo (touched (State.setRec_touches ..) h)))

theorem execMergeWindowClose {o id} (h : s.MemoryCanonical) : OutCanonical (execMergeWindowClose o id s) := by
  unfold Machine.execMergeWindowClose
  split
  · exact OutCanonical.either (OutCanonical.next (post h)) OutCanonical.fault
  · exact OutCanonical.fault

theorem execFaultQueueRetry {o id} (h : s.MemoryCanonical) : OutCanonical (execFaultQueueRetry o id s) := by
  unfold Machine.execFaultQueueRetry
  split
  · exact OutCanonical.either (OutCanonical.next (post h)) OutCanonical.fault
  · exact OutCanonical.fault

theorem closeRec {o id} (h : s.MemoryCanonical) : (s.closeRec o id).MemoryCanonical := updIo (set h)

theorem replay {core entry uid granule} (h : s.MemoryCanonical) : (s.replay core entry uid granule).MemoryCanonical := by
  unfold State.replay
  split
  · exact h
  · exact either h (updCore h)

theorem repay {owner t} (h : s.MemoryCanonical) : (s.repay owner t).MemoryCanonical := by
  unfold State.repay
  split
  · exact h
  · exact raiseAll h
  · exact updOp h

theorem behind {line} (h : s.MemoryCanonical) : (s.behind line).MemoryCanonical := by
  unfold State.behind
  refine folded (fun _ _ hx => ?_) h
  split
  split
  · exact either (rma (set hx)) hx
  · exact hx

theorem homeAgain {line l} (h : s.MemoryCanonical) : (s.homeAgain line l).MemoryCanonical := by
  fun_induction s.homeAgain line l
  · exact h
  · exact behind h
  next c' _ =>
    exact carried (P := fun p => p.1.MemoryCanonical) c' (reachWith (set h) (fun _ _ hv => touched (State.roomSlice_touches ..) hv))
  next c' _ ih =>
    exact ih (repay (touched (State.flushForeign_touches ..)
        (carried (P := fun p => p.1.MemoryCanonical) c' (reachWith (set h) (fun _ _ hv => touched (State.roomSlice_touches ..) hv)))))
  next ih => exact ih h

theorem storeDone {team grps t} (h : s.MemoryCanonical) : (s.storeDone team grps t).MemoryCanonical := by
  unfold State.storeDone
  extract_lets s1
  have hs1 : s1.MemoryCanonical := raiseAll h
  clear_value s1
  split
  · exact wakeTeam (updCore hs1)
  · exact hs1

theorem storeAgain {id} (h : s.MemoryCanonical) : (s.storeAgain id).MemoryCanonical := by
  unfold State.storeAgain
  split
  · split
    next s1 _ e' =>
      have hs1 : s1.MemoryCanonical := carried (P := fun p => p.1.MemoryCanonical) e' (storeLine (set h))
      split
      · exact storeDone hs1
      · exact hs1
  · exact h

theorem padLands {id} (h : s.MemoryCanonical) : (s.padLands id).MemoryCanonical := by
  unfold State.padLands
  split
  · extract_lets s1 s2
    have hs1 : s1.MemoryCanonical := set h
    have hs2 : s2.MemoryCanonical := by
      unfold s2
      split
      · exact either hs1 (made (Memory.wf_writeBytes _ _ _ (State.MemoryCanonical.mem hs1)) (State.MemoryCanonical.ext hs1))
      · exact hs1
    clear_value s1 s2
    exact storeDone hs2
  · exact h

theorem tellPeer {d} (h : s.MemoryCanonical) : (s.tellPeer d).MemoryCanonical := set h

theorem peerAccess {a} (h : s.MemoryCanonical) : (s.peerAccess a).MemoryCanonical := by
  unfold State.peerAccess
  extract_lets l
  refine either (tellPeer h) ?_
  split
  · exact touched (State.keep_touches ..) (set h)
  · exact tellPeer h
  · split
    · split
      next s2 _ e' =>
        have hs2 : s2.MemoryCanonical := carried (P := fun p => p.1.MemoryCanonical) e' (rmaReadAll h)
        exact tellPeer hs2
    · exact tellPeer (rmaWriteAll h)

theorem heldAgain {id} (h : s.MemoryCanonical) : (s.heldAgain id).MemoryCanonical := by
  unfold State.heldAgain
  split
  · exact homeAgain h
  · exact storeAgain h
  · exact rma (set h)
  · exact peerAccess (set h)
  · exact set h
  · exact padLands h
  · exact h

theorem release {w} (h : s.MemoryCanonical) : (s.release w).MemoryCanonical := by
  unfold State.release
  split
  · exact replay h
  · exact updOp h
  · split
    · split
      · exact switchPoint (updGroup h)
      · exact h
    · exact h
  · exact heldAgain h

theorem heldFail {id cause} (h : s.MemoryCanonical) : (s.heldFail id cause).MemoryCanonical := by
  unfold State.heldFail
  split
  · extract_lets s1
    have hs1 : s1.MemoryCanonical := touched (State.updHome_touches ..) (set h)
    clear_value s1
    exact homeAgain hs1
  · exact storeFails (set h)
  · exact reply (set h)
  · exact tellPeer (set h)
  · extract_lets s1
    have hs1 : s1.MemoryCanonical := set h
    clear_value s1
    split
    · exact nodeUnread hs1
    · exact hs1
  · exact h

theorem laneUnreachable {l} (h : s.MemoryCanonical) : Gives State.MemoryCanonical (s.laneUnreachable l) := by
  unfold State.laneUnreachable
  refine Gives.bind Gives.any (fun _ _ => ?_)
  split
  exact Gives.either (Gives.some (stage h)) Gives.none

theorem fetchUnreachable {r} (h : s.MemoryCanonical) : Gives State.MemoryCanonical (s.fetchUnreachable r) := by
  unfold State.fetchUnreachable
  refine Gives.bind Gives.any (fun _ _ => ?_)
  split
  exact Gives.either (Gives.map Gives.any (fun _ _ => fetchTrap h)) Gives.none

theorem opUnreachable {id} (h : s.MemoryCanonical) : Gives State.MemoryCanonical (s.opUnreachable id) :=
  Gives.bind Gives.any (fun _ _ => Gives.either (Gives.some (endOp h)) Gives.none)
theorem heldUnreachable {id} (h : s.MemoryCanonical) : Gives State.MemoryCanonical (s.heldUnreachable id) :=
  Gives.either (Gives.some (heldFail h)) Gives.none

theorem execHomeSlotUnreachable {w} (h : s.MemoryCanonical) : OutCanonical (execHomeSlotUnreachable w s) := by
  unfold Machine.execHomeSlotUnreachable
  split
  next e =>
    refine OutCanonical.next ?_
    refine Gives.elim e ?_
    split
    · exact laneUnreachable h
    · exact fetchUnreachable h
    · exact opUnreachable h
    · exact heldUnreachable h
  · exact OutCanonical.fault

theorem failWaiter {cause w} (h : s.MemoryCanonical) : (s.failWaiter cause w).MemoryCanonical := by
  unfold State.failWaiter
  split
  · exact either (accessFault h) h
  · exact endOp h
  · split
    · split
      · exact fetchTrap h
      · exact h
    · exact h
  · exact heldFail h

theorem failRec {o id r cause} (h : s.MemoryCanonical) : (s.failRec o id r cause).MemoryCanonical :=
  folded (fun _ _ hx => failWaiter hx) (closeRec h)

theorem resume {word} (h : s.MemoryCanonical) : (s.resume word).MemoryCanonical := by
  unfold State.resume
  extract_lets o id
  split
  · exact h
  · exact either (folded (fun _ _ hx => release hx) (closeRec h)) (either (failRec h) h)

theorem execResume {word} (h : s.MemoryCanonical) : OutCanonical (execResume word s) := by
  unfold Machine.execResume
  exact OutCanonical.next (resume h)

theorem execFaultServiceTimeout {o id} (h : s.MemoryCanonical) : OutCanonical (execFaultServiceTimeout o id s) := by
  unfold Machine.execFaultServiceTimeout
  split
  · split
    · exact OutCanonical.either (OutCanonical.next (failRec h)) OutCanonical.fault
    · exact OutCanonical.fault
  · exact OutCanonical.fault

theorem served {o id r} (h : s.MemoryCanonical) : (s.served o id r).MemoryCanonical := by
  unfold State.served
  refine either (resume h) ?_
  split
  next s2 _ e =>
    have hs2 : s2.MemoryCanonical := carried (P := fun p => p.1.MemoryCanonical) e (mapGranule h)
    exact resume hs2

theorem execFirmwareFaultService (h : s.MemoryCanonical) : OutCanonical (execFirmwareFaultService s) := by
  unfold Machine.execFirmwareFaultService
  split
  · exact OutCanonical.fault
  · split
    · exact OutCanonical.fault
    · exact OutCanonical.either OutCanonical.fault (OutCanonical.next (served h))

theorem execCompletionTimePassed {w} (h : s.MemoryCanonical) : OutCanonical (execCompletionTimePassed w s) := by
  unfold Machine.execCompletionTimePassed
  split
  · split
    next t e =>
      have ht : t.MemoryCanonical := Gives.elim e (msPassed h)
      exact OutCanonical.next ht
    · exact OutCanonical.fault
  · exact OutCanonical.either (OutCanonical.next (heldAgain h)) OutCanonical.fault
  · split
    · split
      · exact OutCanonical.either (OutCanonical.next (updGroup h)) OutCanonical.fault
      · exact OutCanonical.either (OutCanonical.next (updGroup h)) OutCanonical.fault
      · exact OutCanonical.fault
    · exact OutCanonical.fault

end Canonical

end Sys2Proof.Machine
end


section
/-! Memory stays in its canonical form under the messages of hosts, ring sets, and the dispatch of every instruction.
Each theorem is named after the function of the model that it speaks of. -/
namespace Sys2Proof.Machine
open Sys2Proof

namespace Canonical
variable {s : State} {x : Issue}

/-! ## The host link -/

theorem powerUp (h : s.MemoryCanonical) : s.powerUp.MemoryCanonical := by
  unfold State.powerUp
  extract_lets src
  have hsrc : src.MemoryCanonical := reset
  clear_value src
  exact made (State.MemoryCanonical.mem hsrc) (State.MemoryCanonical.ext h)

theorem dawnAt {step} (h : s.MemoryCanonical) : (s.dawnAt step).MemoryCanonical := updIo h
theorem dawnFails (h : s.MemoryCanonical) : s.dawnFails.MemoryCanonical := updIo h
theorem dawnStarts {inp} (h : s.MemoryCanonical) : (s.dawnStarts inp).MemoryCanonical := either (updIo h) (dawnAt h)

theorem dawnChecks {inp} (h : s.MemoryCanonical) : (s.dawnChecks inp).MemoryCanonical := by
  unfold State.dawnChecks
  split
  · exact dawnAt h
  · extract_lets s1
    have hs1 : s1.MemoryCanonical := updIo h
    clear_value s1
    exact either hs1 (dawnFails hs1)

theorem dawnBuilds {inp} (h : s.MemoryCanonical) : (s.dawnBuilds inp).MemoryCanonical := either (dawnFails h) (set h)
theorem dawnTrains {inp} (h : s.MemoryCanonical) : (s.dawnTrains inp).MemoryCanonical :=
  dawnAt (folded (fun _ _ hx => touched (State.updHome_touches ..) hx) h)
theorem dawnPorts {inp} (h : s.MemoryCanonical) : (s.dawnPorts inp).MemoryCanonical := updIo h

theorem dawnBinds {inp} (h : s.MemoryCanonical) : (s.dawnBinds inp).MemoryCanonical := by
  unfold State.dawnBinds
  split
  · exact dawnFails h
  · exact updIo (set h)

theorem dawnStep (h : s.MemoryCanonical) : Gives State.MemoryCanonical s.dawnStep := by
  unfold State.dawnStep
  split
  · exact Gives.none
  · split
    · exact Gives.some (dawnStarts h)
    · exact Gives.some (dawnChecks h)
    · exact Gives.some (dawnAt h)
    · exact Gives.some (dawnBuilds h)
    · exact Gives.some (dawnTrains h)
    · exact Gives.either Gives.none (Gives.some (dawnPorts h))
    · exact Gives.some (dawnBinds h)
    · exact Gives.none

theorem execDawn {inp} (h : s.MemoryCanonical) : OutCanonical (execDawn inp s) := by
  unfold Machine.execDawn
  exact OutCanonical.next (updIo (powerUp h))

theorem execDawnPtpWaitExpiry (h : s.MemoryCanonical) : OutCanonical (execDawnPtpWaitExpiry s) := by
  unfold Machine.execDawnPtpWaitExpiry
  split
  · exact OutCanonical.either (OutCanonical.next (updIo h)) OutCanonical.fault
  · exact OutCanonical.fault

theorem synced {offset} (h : s.MemoryCanonical) : (s.synced offset).MemoryCanonical := by
  unfold State.synced
  extract_lets near s1
  have hs1 : s1.MemoryCanonical := updIo h
  clear_value s1
  exact either (updIo hs1) hs1

theorem execPtpSync {offset} (h : s.MemoryCanonical) : OutCanonical (execPtpSync offset s) := by
  unfold Machine.execPtpSync
  exact OutCanonical.either OutCanonical.fault (OutCanonical.next (synced h))

theorem execPtpHoldover (h : s.MemoryCanonical) : OutCanonical (execPtpHoldover s) := by
  unfold Machine.execPtpHoldover
  exact OutCanonical.either (OutCanonical.next (updIo h)) OutCanonical.fault

theorem keptAlive (h : s.MemoryCanonical) : s.keptAlive.MemoryCanonical := set h

theorem execKeepalive (h : s.MemoryCanonical) : OutCanonical (execKeepalive s) := by
  unfold Machine.execKeepalive
  exact OutCanonical.either (OutCanonical.next (keptAlive h)) OutCanonical.fault

theorem dropReplies {ep} (h : s.MemoryCanonical) : (s.dropReplies ep).MemoryCanonical := set h
theorem linkLost {ep} (h : s.MemoryCanonical) : (s.linkLost ep).MemoryCanonical := updIo (dropReplies h)

theorem execLinkLoss {ep} (h : s.MemoryCanonical) : OutCanonical (execLinkLoss ep s) := by
  unfold Machine.execLinkLoss
  exact OutCanonical.either (OutCanonical.next (linkLost h)) OutCanonical.fault

theorem execConnectionRequest {ep mode} (h : s.MemoryCanonical) : OutCanonical (execConnectionRequest ep mode s) := by
  unfold Machine.execConnectionRequest
  exact OutCanonical.either (OutCanonical.next h) (OutCanonical.next (set h))

theorem linkUp {ep} (h : s.MemoryCanonical) : (s.linkUp ep).MemoryCanonical := updIo h
theorem heard {r} (h : s.MemoryCanonical) : (s.heard r).MemoryCanonical := linkUp h

theorem hostMsg {r type who needCtx bad go} (h : s.MemoryCanonical) (hgo : ∀ u, u.MemoryCanonical → (go u).MemoryCanonical) :
    OutCanonical (s.hostMsg r type who needCtx bad go) :=
  OutCanonical.next (either h
      (either (reply (heard h)) (either (reply (heard h)) (either (reply (heard h)) (either (reply (heard h)) (hgo _ (heard h)))))))

theorem execUnknownMessage {r type} (h : s.MemoryCanonical) : OutCanonical (Machine.execUnknownMessage r type s) := by
  unfold Machine.execUnknownMessage
  exact OutCanonical.either OutCanonical.fault (hostMsg h fun _ hu => hu)

theorem onStatus {r} (h : s.MemoryCanonical) : (s.onStatus r).MemoryCanonical := reply h

theorem execStatus {r} (h : s.MemoryCanonical) : OutCanonical (execStatus r s) := by
  unfold Machine.execStatus
  exact hostMsg h (fun _ hu => onStatus hu)

theorem onAttest {r nonce} (h : s.MemoryCanonical) : (s.onAttest r nonce).MemoryCanonical := either (reply h) (updIo h)

theorem attestStep (h : s.MemoryCanonical) : Gives State.MemoryCanonical s.attestStep := by
  unfold State.attestStep
  split
  · exact Gives.none
  · exact Gives.some (reply (set h))

theorem execAttest {r nonce} (h : s.MemoryCanonical) : OutCanonical (execAttest r nonce s) := by
  unfold Machine.execAttest
  exact hostMsg h (fun _ hu => onAttest hu)

theorem semReply {r type} (h : s.MemoryCanonical) : (s.semReply r type).MemoryCanonical := reply h
theorem onSemClaim {r} (h : s.MemoryCanonical) : (s.onSemClaim r).MemoryCanonical := semReply (updIo h)

theorem execSemClaim {r} (h : s.MemoryCanonical) : OutCanonical (execSemClaim r s) := by
  unfold Machine.execSemClaim
  exact hostMsg h (fun _ hu => onSemClaim hu)

theorem onSemRelease {r} (h : s.MemoryCanonical) : (s.onSemRelease r).MemoryCanonical := semReply (updIo h)

theorem execSemRelease {r} (h : s.MemoryCanonical) : OutCanonical (execSemRelease r s) := by
  unfold Machine.execSemRelease
  exact hostMsg h (fun _ hu => onSemRelease hu)

theorem answer {r type v} (h : s.MemoryCanonical) : (s.answer r type v).MemoryCanonical := reply h
theorem onContextCreate {r ctx area quotas} (h : s.MemoryCanonical) : (s.onContextCreate r ctx area quotas).MemoryCanonical :=
  either (answer h) (either (answer h) (answer (setCtx h)))

theorem execContextCreate {r ctx area quotas} (h : s.MemoryCanonical) : OutCanonical (execContextCreate r ctx area quotas s) := by
  unfold Machine.execContextCreate
  exact hostMsg h (fun _ hu => onContextCreate hu)

theorem cancelTeam {id} (h : s.MemoryCanonical) : (s.cancelTeam id).MemoryCanonical := by
  unfold State.cancelTeam
  split
  · exact h
  · exact vacate (either h (reportItem (stopTeam h)))

theorem cancelSaved {id} (h : s.MemoryCanonical) : (s.cancelSaved id).MemoryCanonical := by
  unfold State.cancelSaved
  split
  · exact h
  · exact pruneGang (reportItem (dropOps (set h)))

theorem unlockCtx {ctx} (h : s.MemoryCanonical) : (s.unlockCtx ctx).MemoryCanonical := set h

theorem cancelGrid {slot l} (h : s.MemoryCanonical) : (s.cancelGrid slot l).MemoryCanonical := by
  unfold State.cancelGrid
  extract_lets due
  split
  next e =>
    extract_lets t' v'
    have hv' : v'.MemoryCanonical := by
      unfold v'
      refine endLaunch ?_
      refine carried (P := fun p => p.1.MemoryCanonical) e ?_
      refine releaseDies ?_
      refine folded (fun _ _ hx => ?_) h
      split
      exact sendIrq hx
    clear_value v'
    exact updLaunch hv'

theorem endContext {ctx} (h : s.MemoryCanonical) : (s.endContext ctx).MemoryCanonical := by
  unfold State.endContext
  extract_lets ts vs s1 ls s2 s3 s4
  have hs1 : s1.MemoryCanonical := folded (fun _ _ hx => cancelSaved hx) (folded (fun _ _ hx => cancelTeam hx) h)
  have hs2 : s2.MemoryCanonical := by
    unfold s2
    refine folded (fun _ _ hx => ?_) hs1
    split
    exact cancelGrid hx
  have hs3 : s3.MemoryCanonical := dropOps hs2
  have hs4 : s4.MemoryCanonical := by
    unfold s4
    refine folded (fun _ _ hx => ?_) hs3
    split
    exact answer hx
  clear_value s1 s2 s3 s4
  exact unlockCtx (set hs4)

theorem onContextEnd {r} (h : s.MemoryCanonical) : (s.onContextEnd r).MemoryCanonical := answer (endContext h)

theorem execContextEnd {r} (h : s.MemoryCanonical) : OutCanonical (execContextEnd r s) := by
  unfold Machine.execContextEnd
  exact hostMsg h (fun _ hu => onContextEnd hu)

theorem onWindow {r n w0 w1 w2 w3} (h : s.MemoryCanonical) : (s.onWindow r n w0 w1 w2 w3).MemoryCanonical := either (answer h) (updCtx h)

theorem execWindow {r n w0 w1 w2 w3} (h : s.MemoryCanonical) : OutCanonical (execWindow r n w0 w1 w2 w3 s) := by
  unfold Machine.execWindow
  exact hostMsg h (fun _ hu => onWindow hu)

theorem execWindowAck {ctx} (h : s.MemoryCanonical) : OutCanonical (execWindowAck ctx s) := by
  unfold Machine.execWindowAck
  split
  · exact OutCanonical.fault
  · exact OutCanonical.either OutCanonical.fault (OutCanonical.next (answer (updCtx h)))

theorem onFaultRoute {r claim} (h : s.MemoryCanonical) : (s.onFaultRoute r claim).MemoryCanonical := by
  unfold State.onFaultRoute
  extract_lets owner v
  have hv : v.MemoryCanonical := answer (updCtx h)
  clear_value v
  refine either (answer h) ?_
  refine either (answer (updCtx h)) ?_
  refine either hv ?_
  refine folded (fun _ _ hx => ?_) hv
  split
  split
  · exact either (tellRecord hx) hx
  · exact hx

theorem execFaultRoute {r claim} (h : s.MemoryCanonical) : OutCanonical (execFaultRoute r claim s) := by
  unfold Machine.execFaultRoute
  exact hostMsg h (fun _ hu => onFaultRoute hu)

theorem writeHeld {ctx l} (h : s.MemoryCanonical) : (s.writeHeld ctx l).MemoryCanonical := by
  fun_induction s.writeHeld ctx l
  · exact h
  · exact h
  next ih => exact ih (updCtx (touched (State.hostWrite_touches ..) h))

theorem onRecordFree {r first count} (h : s.MemoryCanonical) : (s.onRecordFree r first count).MemoryCanonical := by
  unfold State.onRecordFree
  extract_lets v
  have hv : v.MemoryCanonical := updCtx h
  clear_value v
  exact reply (writeHeld hv)

theorem execRecordFree {r first count} (h : s.MemoryCanonical) : OutCanonical (execRecordFree r first count s) := by
  unfold Machine.execRecordFree
  exact hostMsg h (fun _ hu => onRecordFree hu)

theorem onPlierrovLaunch {r packet} (h : s.MemoryCanonical) : (s.onPlierrovLaunch r packet).MemoryCanonical := by
  unfold State.onPlierrovLaunch
  split
  · exact answer h
  next p _ =>
    split
    · exact answer h
    next s2 e' =>
      have hs2 : s2.MemoryCanonical := Gives.elim (P := fun p => p.2.MemoryCanonical) e' (accept h)
      exact reply hs2

theorem execPlierrovLaunch {r packet} (h : s.MemoryCanonical) : OutCanonical (execPlierrovLaunch r packet s) := by
  unfold Machine.execPlierrovLaunch
  exact hostMsg h (fun _ hu => onPlierrovLaunch hu)

theorem onThreshold {r launch counter thr} (h : s.MemoryCanonical) : (s.onThreshold r launch counter thr).MemoryCanonical := by
  unfold State.onThreshold
  split
  · exact answer h
  · exact answer (noteDue (updLaunch h))

theorem execThreshold {r launch counter thr} (h : s.MemoryCanonical) : OutCanonical (execThreshold r launch counter thr s) := by
  unfold Machine.execThreshold
  exact hostMsg h (fun _ hu => onThreshold hu)

theorem onGraphLoad {r graph nodes edges} (h : s.MemoryCanonical) : (s.onGraphLoad r graph nodes edges).MemoryCanonical :=
  either (answer h) (either (answer h) (answer (set h)))

theorem execGraphLoad {r graph nodes edges} (h : s.MemoryCanonical) : OutCanonical (execGraphLoad r graph nodes edges s) := by
  unfold Machine.execGraphLoad
  exact hostMsg h (fun _ hu => onGraphLoad hu)

theorem firesFirst {graph} (h : s.MemoryCanonical) : (s.firesFirst graph).MemoryCanonical := by
  unfold State.firesFirst
  split
  next v' e =>
    exact OutCanonical.elim e (execGraphNodeFire h)
  · exact h

theorem onGraphPush {r graph edge tokens} (h : s.MemoryCanonical) : (s.onGraphPush r graph edge tokens).MemoryCanonical := by
  unfold State.onGraphPush
  extract_lets pushing u
  have hpushing : ∀ u v, v.MemoryCanonical → (pushing u v).MemoryCanonical := fun _ _ hv => set hv
  have hu : u.MemoryCanonical := hpushing _ _ (firesFirst (hpushing _ _ h))
  clear_value pushing u
  split
  · exact hu
  · exact either (graphEnd (answer hu)) (graphEnd (answer (set hu)))

theorem execGraphPush {r graph edge tokens} (h : s.MemoryCanonical) : OutCanonical (execGraphPush r graph edge tokens s) := by
  unfold Machine.execGraphPush
  exact hostMsg h (fun _ hu => onGraphPush hu)

theorem onRmaRead {r va len} (h : s.MemoryCanonical) : (s.onRmaRead r va len).MemoryCanonical := rma h

theorem execRmaRead {r va len} (h : s.MemoryCanonical) : OutCanonical (execRmaRead r va len s) := by
  unfold Machine.execRmaRead
  exact OutCanonical.either OutCanonical.fault (hostMsg h (fun _ hu => onRmaRead hu))

theorem onRmaWrite {r va data} (h : s.MemoryCanonical) : (s.onRmaWrite r va data).MemoryCanonical := rma h

theorem execRmaWrite {r va data} (h : s.MemoryCanonical) : OutCanonical (execRmaWrite r va data s) := by
  unfold Machine.execRmaWrite
  exact OutCanonical.either OutCanonical.fault (hostMsg h (fun _ hu => onRmaWrite hu))

theorem onRmaAtomic {r va kind wide operand compare} (h : s.MemoryCanonical) : (s.onRmaAtomic r va kind wide operand compare).MemoryCanonical :=
  rma h

theorem execRmaAtomic {r va kind wide operand compare} (h : s.MemoryCanonical) : OutCanonical (execRmaAtomic r va kind wide operand compare s) := by
  unfold Machine.execRmaAtomic
  exact OutCanonical.either OutCanonical.fault (hostMsg h (fun _ hu => onRmaAtomic hu))

theorem onPtSet {r home level page expect new} (h : s.MemoryCanonical) : (s.onPtSet r home level page expect new).MemoryCanonical :=
  msArrive h

theorem execPtSet {r home level page expect new} (h : s.MemoryCanonical) : OutCanonical (execPtSet r home level page expect new s) := by
  unfold Machine.execPtSet
  exact hostMsg h (fun _ hu => onPtSet hu)

theorem onMigrate {r home level page new} (h : s.MemoryCanonical) : (s.onMigrate r home level page new).MemoryCanonical := msArrive h

theorem execMigrate {r home level page new} (h : s.MemoryCanonical) : OutCanonical (execMigrate r home level page new s) := by
  unfold Machine.execMigrate
  exact hostMsg h (fun _ hu => onMigrate hu)

theorem onReclaim {r home level page} (h : s.MemoryCanonical) : (s.onReclaim r home level page).MemoryCanonical := msArrive h

theorem execReclaim {r home level page} (h : s.MemoryCanonical) : OutCanonical (execReclaim r home level page s) := by
  unfold Machine.execReclaim
  exact hostMsg h (fun _ hu => onReclaim hu)

theorem onFaultResume {r word} (h : s.MemoryCanonical) : (s.onFaultResume r word).MemoryCanonical := reply (either (resume h) h)

theorem execFaultResume {r word} (h : s.MemoryCanonical) : OutCanonical (execFaultResume r word s) := by
  unfold Machine.execFaultResume
  exact hostMsg h (fun _ hu => onFaultResume hu)

theorem onLimits {r b} (h : s.MemoryCanonical) : (s.onLimits r b).MemoryCanonical := by
  unfold State.onLimits
  split
  · exact answer h
  · exact answer (updIo h)

theorem execLimits {r b} (h : s.MemoryCanonical) : OutCanonical (execLimits r b s) := by
  unfold Machine.execLimits
  exact hostMsg h (fun _ hu => onLimits hu)

theorem onPartition {r clusters target} (h : s.MemoryCanonical) : (s.onPartition r clusters target).MemoryCanonical := by
  unfold State.onPartition
  extract_lets named v
  have hv : v.MemoryCanonical := makeMoves h
  clear_value v
  exact answer hv

theorem execPartition {r clusters target} (h : s.MemoryCanonical) : OutCanonical (execPartition r clusters target s) := by
  unfold Machine.execPartition
  exact hostMsg h (fun _ hu => onPartition hu)

theorem onClusterMap {r die map} (h : s.MemoryCanonical) : (s.onClusterMap r die map).MemoryCanonical := by
  unfold State.onClusterMap
  extract_lets want touched busy set
  have hset : ∀ u v, u.MemoryCanonical → (set u v).MemoryCanonical := fun _ _ hv => updCluster hv
  clear_value set
  exact answer (folded (fun _ _ hx => hset _ _ hx) h)

theorem execClusterMap {r die map} (h : s.MemoryCanonical) : OutCanonical (execClusterMap r die map s) := by
  unfold Machine.execClusterMap
  exact hostMsg h (fun _ hu => onClusterMap hu)

theorem onErrorStatus {r thresholds} (h : s.MemoryCanonical) : (s.onErrorStatus r thresholds).MemoryCanonical := by
  unfold State.onErrorStatus
  extract_lets v
  have hv : v.MemoryCanonical := by
    unfold v
    split
    · exact h
    · exact updIo h
  clear_value v
  exact reply hv

theorem execErrorStatus {r thresholds} (h : s.MemoryCanonical) : OutCanonical (execErrorStatus r thresholds s) := by
  unfold Machine.execErrorStatus
  exact hostMsg h (fun _ hu => onErrorStatus hu)

theorem configured {r refused put} (h : s.MemoryCanonical) (hput : ∀ u, u.MemoryCanonical → (put u).MemoryCanonical) :
    (s.configured r refused put).MemoryCanonical :=
  either (answer h) (answer (hput _ h))

theorem msConfig {r unit refused put slot} (h : s.MemoryCanonical) (hput : ∀ u, u.MemoryCanonical → (put u).MemoryCanonical) :
    OutCanonical (s.msConfig r unit refused put slot) :=
  hostMsg h (fun _ hu => configured hu (fun _ hu' => hput _ hu'))

theorem onMsConfigPtroot {unit value} (h : s.MemoryCanonical) : (s.onMsConfigPtroot unit value).MemoryCanonical :=
  either (updIo h) (touched (State.updHome_touches ..) h)

theorem execMsConfigPtroot {r unit value} (h : s.MemoryCanonical) : OutCanonical (execMsConfigPtroot r unit value s) := by
  unfold Machine.execMsConfigPtroot
  exact msConfig h (fun _ hu => onMsConfigPtroot hu)

theorem onMsConfigLease {unit value} (h : s.MemoryCanonical) : (s.onMsConfigLease unit value).MemoryCanonical :=
  touched (State.updHome_touches ..) h

theorem execMsConfigLease {r unit value} (h : s.MemoryCanonical) : OutCanonical (execMsConfigLease r unit value s) := by
  unfold Machine.execMsConfigLease
  exact msConfig h (fun _ hu => onMsConfigLease hu)

theorem onMsConfigPeertab {unit slot value} (h : s.MemoryCanonical) : (s.onMsConfigPeertab unit slot value).MemoryCanonical :=
  either (updIo h) (touched (State.updHome_touches ..) h)

theorem execMsConfigPeertab {r unit slot value} (h : s.MemoryCanonical) : OutCanonical (execMsConfigPeertab r unit slot value s) := by
  unfold Machine.execMsConfigPeertab
  exact msConfig h (fun _ hu => onMsConfigPeertab hu)

theorem onMsConfigPoolb {unit value} (h : s.MemoryCanonical) : (s.onMsConfigPoolb unit value).MemoryCanonical :=
  touched (State.updHome_touches ..) h

theorem execMsConfigPoolb {r unit value} (h : s.MemoryCanonical) : OutCanonical (execMsConfigPoolb r unit value s) := by
  unfold Machine.execMsConfigPoolb
  exact msConfig h (fun _ hu => onMsConfigPoolb hu)

theorem onMsConfigPooll {unit value} (h : s.MemoryCanonical) : (s.onMsConfigPooll unit value).MemoryCanonical :=
  touched (State.updHome_touches ..) h

theorem execMsConfigPooll {r unit value} (h : s.MemoryCanonical) : OutCanonical (execMsConfigPooll r unit value s) := by
  unfold Machine.execMsConfigPooll
  exact msConfig h (fun _ hu => onMsConfigPooll hu)

theorem onThermal {r thresholds} (h : s.MemoryCanonical) : (s.onThermal r thresholds).MemoryCanonical :=
  either (answer h) (answer (folded (fun _ _ hx => either hx (updCluster hx)) h))

theorem execThermal {r thresholds} (h : s.MemoryCanonical) : OutCanonical (execThermal r thresholds s) := by
  unfold Machine.execThermal
  exact hostMsg h (fun _ hu => onThermal hu)

theorem onPeerTable {r first entries} (h : s.MemoryCanonical) : (s.onPeerTable r first entries).MemoryCanonical :=
  either (answer h) (answer (updIo h))

theorem execPeerTable {r first entries} (h : s.MemoryCanonical) : OutCanonical (execPeerTable r first entries s) := by
  unfold Machine.execPeerTable
  exact hostMsg h (fun _ hu => onPeerTable hu)

theorem execPeerAccessArrival {a} (h : s.MemoryCanonical) : OutCanonical (execPeerAccessArrival a s) := by
  unfold Machine.execPeerAccessArrival
  exact OutCanonical.either OutCanonical.fault (OutCanonical.next (peerAccess h))

/-! ## Ring sets -/

theorem yWork {o ok srcs} : Yields (fun _ => True) (yWork x o ok srcs) := by
  unfold Machine.yWork
  extract_lets tags named
  clear_value named
  split
  · exact Yields.error StopCanonical.trap
  · split
    · exact Yields.error StopCanonical.trap
    · refine Yields.either (Yields.error StopCanonical.trap) ?_
      split
      · exact Yields.ok trivial
      · exact Yields.error StopCanonical.trap

theorem yOp {i o q} (h : s.MemoryCanonical) : OutCanonical (yOp i o q s) := by
  unfold Machine.yOp
  refine program h (fun _ hu => ?_)
  refine Yields.map yWork (fun _ _ => ?_)
  split
  exact issue_seq (issue_wroteV hu) hu

theorem ringOf {w} : Yields (fun _ => True) (ringOf x w) := by
  unfold Machine.ringOf
  split
  · exact Yields.error StopCanonical.trap
  · exact Yields.ok trivial

theorem execYcvt {o} (h : s.MemoryCanonical) : OutCanonical (execYcvt o s) := by
  unfold Machine.execYcvt
  exact program h (fun _ hu => Yields.bind issue_classes (fun _ _ => Yields.map ringOf (fun _ _ => issue_seq (issue_wroteV hu) hu)))

theorem ypackEffect {o w r} (h : x.Canonical) : (ypackEffect x o w r).MemoryCanonical := by
  unfold Machine.ypackEffect
  exact count (updGroup h.s)

theorem execYpack {o} (h : s.MemoryCanonical) : OutCanonical (execYpack o s) := by
  unfold Machine.execYpack
  refine program h (fun _ hu => ?_)
  refine Yields.bind yWork (fun _ _ => ?_)
  split
  exact Yields.either (Yields.error StopCanonical.trap) (Yields.ok (issue_seq (ypackEffect hu) hu))

theorem yringCheck {o} : Yields (fun _ => True) (yringCheck x o) := by
  unfold Machine.yringCheck
  exact Yields.either (Yields.error StopCanonical.trap)
      (Yields.either (Yields.error StopCanonical.trap) (Yields.either (Yields.error StopCanonical.wait) (Yields.ok trivial)))

theorem yringEffect {o} (h : x.Canonical) : (yringEffect x o).MemoryCanonical := by
  unfold Machine.yringEffect
  extract_lets n bs ws st s1
  have hs1 : s1.MemoryCanonical := wroteWords h
  clear_value s1
  exact either (updCore hs1) hs1

theorem execYring {o} (h : s.MemoryCanonical) : OutCanonical (execYring o s) := by
  unfold Machine.execYring
  exact program h (fun _ hu => Yields.either (Yields.ok (issue_seq (wroteWords hu) hu))
      (Yields.bind yringCheck (fun _ _ => Yields.map issue_gate (fun _ _ => issue_seq (yringEffect hu) hu))))

/-! ## The dispatch -/

/-- Whatever an instruction or a step of the package does, memory stays canonical. -/
theorem exec {i} (h : s.MemoryCanonical) : OutCanonical (Machine.exec i s) := by
  cases i
  case nop => exact execNop h
  case nopU => exact execNopU h
  case mov | iadd | isub | imul | imulh | imulhu | imin | imax | iminu | imaxu | and | or | xor | shl | shr | sar | fadd | fsub | fmul | fmin |
      fmax | rcp | rsq | exp2 | log2 | popc | clz | lea | iabs | ineg | fabs | fneg | fint | not | brev | sin | cos | tanh | sqrt | movi | fmuli |
      faddi | fma | imac | iadd64 | isub64 | bfx | bfi | fclass | logistic | bdot =>
    exact vOp (fun _ => Yields.ok trivial) h
  case movU | iaddU | isubU | imulU | imulhU | imulhuU | iminU | imaxU | iminuU | imaxuU | andU | orU | xorU | shlU | shrU | sarU | selU | popcU |
      clzU | leaU | iabsU | notU | moviU | imacU | iadd64U | isub64U | bfxU | bfiU =>
    exact uOp h
  case icmp => exact execIcmp h
  case icmpU => exact execIcmpU h
  case icmpi => exact execIcmpi h
  case sel => exact vOp (fun _ => selOp_tie) h
  case fcmp => exact execFcmp h
  case ld => exact execLd h
  case ldU => exact execLdU h
  case st => exact execSt h
  case stU => exact execStU h
  case lds => exact execLds h
  case sts => exact execSts h
  case lxch => exact execLxch h
  case poll | lreduce | peers => exact laneOp h
  case bra => exact execBra h
  case braNodiv => exact execBraNodiv h
  case meet => exact execMeet h
  case exit => exact execExit h
  case exitU => exact execExitU h
  case ldv => exact execLdv h
  case stv => exact execStv h
  case atom => exact execAtom h
  case atomU => exact execAtomU h
  case pres => exact execPres h
  case iaddi => exact execIaddi h
  case imuli => exact execImuli h
  case andi => exact execAndi h
  case ori => exact execOri h
  case cvt => exact execCvt h
  case qnt => exact execQnt h
  case dqn => exact execDqn h
  case amax => exact execAmax h
  case cblk => exact execCblk h
  case pfma | padd | pmul => exact vOp (fun _ => packedOp_tie) h
  case atoms => exact execAtoms h
  case red => exact execRed h
  case regroup => exact execRegroup h
  case ycvt => exact execYcvt h
  case yadd | ysub | ymul | ydiv | yneg | yrec | ysqr | yuni | yint | ycmp | yhull | yunpk | ymid | ytest | ymap | yfma => exact yOp h
  case ypack => exact execYpack h
  case msign => exact execMsign h
  case mma => exact execMma h
  case tld => exact execTld h
  case tst => exact execTst h
  case tzero => exact execTzero h
  case tcvt => exact execTcvt h
  case tamax => exact execTamax h
  case mwait => exact execMwait h
  case bru => exact execBru h
  case jmp => exact execJmp h
  case call => exact execCall h
  case ret => exact execRet h
  case jmpi => exact execJmpi h
  case loop => exact execLoop h
  case loopi => exact execLoopi h
  case brk => exact execBrk h
  case yield => exact execYield h
  case barSync => exact execBarSync h
  case barArrive => exact execBarArrive h
  case barWait => exact execBarWait h
  case gbar => exact execGbar h
  case stgw => exact execStgw h
  case stga => exact execStga h
  case fence => exact execFence h
  case part => exact execPart h
  case csrr => exact execCsrr h
  case csrw => exact execCsrw h
  case clk => exact execClk h
  case burn => exact execBurn h
  case shunt => exact execShunt h
  case curr => exact execCurr h
  case trap => exact execTrap h
  case launch => exact execLaunch h
  case gwait => exact execGwait h
  case wdog => exact execWdog h
  case fcnt => exact execFcnt h
  case cbld => exact execCbld h
  case yring => exact execYring h
  case ctime => exact execCtime h
  case pref => exact execPref h
  case lockl => exact execLockl h
  case unlockl => exact execUnlockl h
  case cinv => exact execCinv h
  case cwb => exact execCwb h
  case opcl => exact execOpcl h
  case mset => exact execMset h
  case mstat => exact execMstat h
  case tagr => exact execTagr h
  case tagw => exact execTagw h
  case engShape => exact execEngShape h
  case engCopy | engPlane | engGather | engScatter | engFill | engUnplane => exact engCopy h
  case engSend => exact execEngSend h
  case engRecv => exact execEngRecv h
  case engArm => exact execEngArm h
  case engCntrd => exact execEngCntrd h
  case engCntadd => exact execEngCntadd h
  case engReduce => exact execEngReduce h
  case engCancel => exact execEngCancel h
  case engWait => exact execEngWait h
  case engQuery => exact execEngQuery h
  case unassignedExtendedOpcode => exact execUnassignedExtendedOpcode h
  case loopBack => exact execLoopBack h
  case loadDataReturn => exact execLoadDataReturn h
  case pageWalk => exact execPageWalk h
  case faultResponse => exact execFaultResponse h
  case storeComplete => exact execStoreComplete h
  case tileOperationComplete => exact execTileOperationComplete h
  case mmaComplete => exact execMmaComplete h
  case mateAgreement => exact execMateAgreement h
  case engineWriteProgress => exact execEngineWriteProgress h
  case engineOperationEnd => exact execEngineOperationEnd h
  case fetchFault => exact execFetchFault h
  case mergeWindowClose => exact execMergeWindowClose h
  case faultQueueRetry => exact execFaultQueueRetry h
  case firmwareFaultService => exact execFirmwareFaultService h
  case resume => exact execResume h
  case releaseAtHome => exact execReleaseAtHome h
  case acquireAtHome => exact execAcquireAtHome h
  case pull => exact execPull h
  case dispatchRequest => exact execDispatchRequest h
  case teamStart => exact execTeamStart h
  case teamRetire => exact execTeamRetire h
  case gridRetire => exact execGridRetire h
  case graphNodeFire => exact execGraphNodeFire h
  case gbarComplete => exact execGbarComplete h
  case completionTimePassed => exact execCompletionTimePassed h
  case barrierTimeout => exact execBarrierTimeout h
  case pairTimeout => exact execPairTimeout h
  case estimatorWindowEnd => exact execEstimatorWindowEnd h
  case classChangeEnd => exact execClassChangeEnd h
  case forcedStop => exact execForcedStop h
  case teamSaveEnd => exact execTeamSaveEnd h
  case teamRestore => exact execTeamRestore h
  case pairedSignature => exact execPairedSignature h
  case counterIrq => exact execCounterIrq h
  case windowAck => exact execWindowAck h
  case groupBoost => exact execGroupBoost h
  case issueLimitSwitch => exact execIssueLimitSwitch h
  case faultServiceTimeout => exact execFaultServiceTimeout h
  case noRecvTimeout => exact execNoRecvTimeout h
  case chunkLanding => exact execChunkLanding h
  case peerUnreachable => exact execPeerUnreachable h
  case homeSlotUnreachable => exact execHomeSlotUnreachable h
  case homeEpochAgePull => exact execHomeEpochAgePull h
  case dirtyByteDeadline => exact execDirtyByteDeadline h
  case scrub => exact execScrub h
  case preemptionRequest => exact execPreemptionRequest h
  case powerIntervalEnd => exact execPowerIntervalEnd h
  case hotSpotMigration => exact execHotSpotMigration h
  case hotSpotStepUp => exact execHotSpotStepUp h
  case arrivalReport => exact execArrivalReport h
  case budgetMessage => exact execBudgetMessage h
  case errorIrq => exact execErrorIrq h
  case dieFailure => exact execDieFailure h
  case memorySideDieFailure => exact execMemorySideDieFailure h
  case ioDieFailure => exact execIoDieFailure h
  case coreFailure => exact execCoreFailure h
  case dawn => exact execDawn h
  case dawnPtpWaitExpiry => exact execDawnPtpWaitExpiry h
  case ptpSync => exact execPtpSync h
  case ptpHoldover => exact execPtpHoldover h
  case keepalive => exact execKeepalive h
  case linkLoss => exact execLinkLoss h
  case connectionRequest => exact execConnectionRequest h
  case unknownMessage => exact execUnknownMessage h
  case status => exact execStatus h
  case attest => exact execAttest h
  case semClaim => exact execSemClaim h
  case semRelease => exact execSemRelease h
  case contextCreate => exact execContextCreate h
  case contextEnd => exact execContextEnd h
  case window => exact execWindow h
  case faultRoute => exact execFaultRoute h
  case recordFree => exact execRecordFree h
  case plierrovLaunch => exact execPlierrovLaunch h
  case threshold => exact execThreshold h
  case graphLoad => exact execGraphLoad h
  case graphPush => exact execGraphPush h
  case rmaRead => exact execRmaRead h
  case rmaWrite => exact execRmaWrite h
  case rmaAtomic => exact execRmaAtomic h
  case ptSet => exact execPtSet h
  case migrate => exact execMigrate h
  case reclaim => exact execReclaim h
  case faultResume => exact execFaultResume h
  case limits => exact execLimits h
  case partition => exact execPartition h
  case clusterMap => exact execClusterMap h
  case errorStatus => exact execErrorStatus h
  case msConfigPtroot => exact execMsConfigPtroot h
  case msConfigLease => exact execMsConfigLease h
  case msConfigPeertab => exact execMsConfigPeertab h
  case msConfigPoolb => exact execMsConfigPoolb h
  case msConfigPooll => exact execMsConfigPooll h
  case thermal => exact execThermal h
  case peerTable => exact execPeerTable h
  case portRetirement => exact execPortRetirement h
  case peerAccessArrival => exact execPeerAccessArrival h

end Canonical

end Sys2Proof.Machine
end


section
/-! Memory stays in its canonical form under the schedule, and so under a step.
Each theorem is named after the function of the model that it speaks of. -/
namespace Sys2Proof.Machine
open Sys2Proof

namespace Canonical
variable {s : State} {x : Issue}

/-! ## The issue of one group -/

theorem stateOf {o} (ho : OutCanonical o) : Gives State.MemoryCanonical (stateOf o) := by
  unfold Machine.stateOf
  split
  · exact Gives.some (ho _ rfl)
  · exact Gives.none

theorem mapNext {f o} (hf : ∀ u, u.MemoryCanonical → (f u).MemoryCanonical) (ho : OutCanonical o) : OutCanonical (mapNext f o) := by
  unfold Machine.mapNext
  split
  · exact OutCanonical.next (hf _ (ho _ rfl))
  · exact ho

theorem requestEnd {r own} (h : s.MemoryCanonical) : (s.requestEnd r own).MemoryCanonical := set h

theorem noteOwn {r before} (h : s.MemoryCanonical) : (s.noteOwn r before).MemoryCanonical := by
  unfold State.noteOwn
  split
  · exact either (set h) h
  · exact h

theorem pairedRoom {post : State} {id} (h : s.MemoryCanonical) (hpost : post.MemoryCanonical) : (s.pairedRoom post id).MemoryCanonical := by
  unfold State.pairedRoom
  split
  · exact either (set h) hpost
  · exact hpost

theorem earlyBoundary {id} (h : s.MemoryCanonical) : Gives State.MemoryCanonical (s.earlyBoundary id) := by
  unfold State.earlyBoundary
  split
  · exact Gives.either Gives.none (Gives.some (boundary h))
  · exact Gives.none

theorem twinWaits {id} (h : s.MemoryCanonical) : Gives State.MemoryCanonical (s.twinWaits id) := by
  unfold State.twinWaits
  split
  · exact Gives.either Gives.none (Gives.some (updTeam h))
  · exact Gives.none

theorem merge {r others} (h : s.MemoryCanonical) : Gives State.MemoryCanonical (s.merge r others) := by
  unfold State.merge
  split
  · exact Gives.none
  · extract_lets ms all apart place
    refine Gives.either Gives.none ?_
    split
    · exact Gives.either Gives.none (Gives.some (updTeam h))
    · exact Gives.none

theorem run {r i ws} (h : s.MemoryCanonical) : OutCanonical (s.run r i ws) := exec (set h)
theorem runAs {r g i ws} (h : s.MemoryCanonical) : Gives State.MemoryCanonical (s.runAs r g i ws) := stateOf (run (setGroup h))

theorem firstEnd {pre id} {l : List (Nat × State)} (h : ∀ p ∈ l, p.2.MemoryCanonical) :
    Gives State.MemoryCanonical (Machine.firstEnd pre id l) := by
  unfold Machine.firstEnd
  refine Gives.map (P := fun p => p.2.2.MemoryCanonical) (List.foldlRecOn _ _ Gives.none fun o ho x hx => ?_) fun _ hy => hy
  obtain ⟨⟨lane, u⟩, hu, rfl⟩ := List.mem_map.mp hx
  have hu : u.MemoryCanonical := h _ (List.mem_filter.mp hu).1
  split
  · exact Gives.some hu
  · exact Gives.either (Gives.some hu) ho

theorem memberFlow {r sp loopEnd} (h : s.MemoryCanonical) : (s.memberFlow r sp loopEnd).MemoryCanonical := by
  unfold State.memberFlow
  split
  · exact h
  · exact either (setGroup h) (settled h)

theorem runParts {r t g i ws} (h : s.MemoryCanonical) : Gives State.MemoryCanonical (s.runParts r t g i ws) := by
  unfold State.runParts
  extract_lets ms ready ref apart last
  have hapart : ∀ p ∈ apart, p.2.MemoryCanonical := by
    intro p hp
    obtain ⟨⟨k, m⟩, -, e⟩ := List.mem_filterMap.mp hp
    obtain ⟨u, hu, rfl⟩ := Option.map_eq_some_iff.mp e
    exact runAs h u hu
  clear_value apart
  refine Gives.either Gives.none ?_
  split
  next u e => exact Gives.either Gives.none (Gives.some (Gives.elim e (firstEnd hapart)))
  · have hlast : Gives State.MemoryCanonical last := keptByFold (fun o x ho => Gives.bind ho fun u hu => runAs hu) (Gives.some h)
    clear_value last
    refine Gives.bind hlast fun u hu => ?_
    extract_lets after parted u1 members
    have hmembers : ∀ f, (members f).MemoryCanonical := fun f => updTeam (updCore hu)
    clear_value members
    exact Gives.either Gives.none (Gives.either (Gives.some (hmembers _)) (Gives.some (hmembers _)))

theorem runJoined {r t g i ws same} (h : s.MemoryCanonical) : Gives State.MemoryCanonical (s.runJoined r t g i ws same) := by
  unfold State.runJoined
  extract_lets ms j next own ends t' mine met
  have hown : ∀ p ∈ own.map (·.2), p.2.MemoryCanonical := by
    intro p hp
    obtain ⟨q, hq, rfl⟩ := List.mem_map.mp hp
    unfold own at hq
    split at hq
    · exact absurd hq (by simp)
    · obtain ⟨⟨k, m⟩, -, e⟩ := List.mem_filterMap.mp hq
      obtain ⟨u, hu, rfl⟩ := Option.map_eq_some_iff.mp e
      exact runAs h u hu
  clear_value own
  split
  next u _ e => exact Gives.some (Gives.elim e (firstEnd hown))
  · exact Gives.none
  next u _ e =>
    have hu : u.MemoryCanonical := Gives.elim e (runAs h)
    refine Gives.either (Gives.some hu) (Gives.bind Gives.any fun p _ => ?_)
    split
    next _ v =>
      extract_lets put u1
      have hu1 : u1.MemoryCanonical := updTeam hu
      clear_value u1
      exact Gives.either Gives.none (Gives.either (Gives.some (folded (fun _ _ hw => memberFlow hw) (dissolve hu1))) (Gives.some hu1))

theorem runFormed {r t g i ws} (h : s.MemoryCanonical) : Gives State.MemoryCanonical (s.runFormed r t g i ws) :=
  Gives.either (runParts h) (runJoined h)

theorem fetched {die ws va n} (h : s.MemoryCanonical) : (s.fetched die ws va n).MemoryCanonical := by
  fun_induction s.fetched die ws va n
  · exact h
  next s1 ih =>
    refine ih ?_
    unfold s1
    split
    · exact either h (getD (fetchLine h) h)
    · exact h

theorem issueAlone {r t g i ws} (h : s.MemoryCanonical) : OutCanonical (s.issueAlone r t g i ws) := by
  unfold State.issueAlone
  extract_lets s1
  have hs1 : s1.MemoryCanonical := fetched h
  clear_value s1
  exact mapNext (fun _ hu => noteOwn (pairedRoom hs1 hu)) (run hs1)

theorem leftLog {r t g} (h : s.MemoryCanonical) : (s.leftLog r t g).MemoryCanonical := either h (passLog h)

theorem issueOne {r t g i ws} (h : s.MemoryCanonical) : OutCanonical (s.issueOne r t g i ws) := by
  unfold State.issueOne
  refine OutCanonical.either (issueAlone h) ?_
  extract_lets alone s1
  have halone : OutCanonical alone := issueAlone (dissolve h)
  have hs1 : s1.MemoryCanonical := fetched h
  clear_value alone s1
  refine OutCanonical.either halone ?_
  split
  next t' e =>
    have ht' : t'.MemoryCanonical := Gives.elim e (runFormed hs1)
    exact OutCanonical.next (noteOwn (pairedRoom hs1 ht'))
  · exact halone

theorem issueAt {r second} (h : s.MemoryCanonical) : Gives OutCanonical (s.issueAt r second) := by
  unfold State.issueAt
  split
  · exact Gives.none
  · refine Gives.either Gives.none ?_
    split
    · exact Gives.map (stateOf (execFetchFault h)) (fun _ hx => OutCanonical.next hx)
    · refine Gives.either Gives.none ?_
      split
      · exact Gives.none
      · exact Gives.some (OutCanonical.next (take h))
      · exact Gives.some (OutCanonical.next (take h))
      · split
        · exact Gives.none
        · exact Gives.some (OutCanonical.next (requestEnd h))
        · exact Gives.some (OutCanonical.next (requestEnd h))
        · exact Gives.some (mapNext (fun _ hu => leftLog hu) (issueOne h))

/-! ## The issue in a cycle -/

theorem stamp {core c r pc p width} (h : s.MemoryCanonical) : (s.stamp core c r pc p width).MemoryCanonical := updCore h

theorem issuedIn {u : State} {c r t g second} (hu : u.MemoryCanonical) : (s.issuedIn u c r t g second).MemoryCanonical := by
  unfold State.issuedIn
  refine either ?_ hu
  extract_lets v
  have hv : v.MemoryCanonical := either (updGroup hu) hu
  clear_value v
  exact stamp hv

theorem issueIn {c x} (h : s.MemoryCanonical) : Gives OutCanonical (s.issueIn c x) := by
  unfold State.issueIn
  split
  exact Gives.either Gives.none (Gives.map (issueAt h) (fun _ hx => mapNext (fun _ hu => issuedIn hu) hx))

theorem issueTurn {r} (h : s.MemoryCanonical) : Gives OutCanonical (s.issueTurn r) := by
  unfold State.issueTurn
  split
  · exact Gives.none
  · exact Gives.findSome (fun _ => Gives.either (issueIn h) Gives.none)

/-! ## Messages as bytes -/

theorem msRequest {r op home level page expect new} (h : s.MemoryCanonical) : OutCanonical (msRequest r op home level page expect new s) := by
  unfold Machine.msRequest
  split
  · exact execPtSet h
  · exact execMigrate h
  · exact execReclaim h
  · exact execPtSet h

theorem configRequest {r register unit slot value} (h : s.MemoryCanonical) : OutCanonical (configRequest r register unit slot value s) := by
  unfold Machine.configRequest
  split
  · exact execMsConfigPtroot h
  · exact execMsConfigLease h
  · exact execMsConfigPeertab h
  · exact execMsConfigPoolb h
  · exact execMsConfigPooll h
  · exact execMsConfigPtroot h

/-- What keeps memory canonical, a message's meaning among others. -/
def Keeps (f : State → Out) : Prop := ∀ s : State, s.MemoryCanonical → OutCanonical (f s)

theorem keeps_execMessage {ep bs} : Keeps (Machine.execMessage ep bs) := by
  unfold Machine.execMessage
  extract_lets
  split
  · exact fun _ h => execStatus h
  · exact fun _ h => execAttest h
  · exact fun _ h => execSemClaim h
  · exact fun _ h => execSemRelease h
  · exact fun _ h => execContextCreate h
  · exact fun _ h => execContextEnd h
  · exact fun _ h => execWindow h
  · exact fun _ h => execFaultRoute h
  · exact fun _ h => execRecordFree h
  · exact fun _ h => execPlierrovLaunch h
  · exact fun _ h => execThreshold h
  · exact fun _ h => execGraphLoad h
  · exact fun _ h => execGraphPush h
  · exact fun _ h => execRmaRead h
  · exact fun _ h => execRmaWrite h
  · exact fun _ h => execRmaAtomic h
  · exact fun _ h => msRequest h
  · exact fun _ h => execFaultResume h
  · exact fun _ h => execLimits h
  · exact fun _ h => execPartition h
  · exact fun _ h => execClusterMap h
  · exact fun _ h => execErrorStatus h
  · exact fun _ h => configRequest h
  · exact fun _ h => execThermal h
  · exact fun _ h => execPeerTable h
  · exact fun _ h => execUnknownMessage h

theorem execMessage {ep bs} (h : s.MemoryCanonical) : OutCanonical (Machine.execMessage ep bs s) := keeps_execMessage s h

/-! ## What takes place next -/

theorem pick {p o} (ho : OutCanonical o) : Gives State.MemoryCanonical (pick p o) := by
  unfold Machine.pick
  exact Gives.filter (stateOf ho)

theorem firstOf {α : Type} {p : State → Bool} {f : α → Out} {l : List α} (hf : ∀ u, OutCanonical (f u)) :
    Gives State.MemoryCanonical (firstOf p f l) := by
  unfold Machine.firstOf
  exact Gives.findSome (fun _ => pick (hf _))

theorem firstTrap {pre} {l : List State} (h : ∀ u ∈ l, u.MemoryCanonical) : Gives State.MemoryCanonical (Machine.firstTrap pre l) := by
  unfold Machine.firstTrap
  refine Gives.map (P := fun p => p.2.MemoryCanonical) (List.foldlRecOn l _ Gives.none fun o ho u hu => ?_) fun _ hx => hx
  dsimp only
  split
  · exact Gives.some (h u hu)
  · exact Gives.either (Gives.some (h u hu)) ho

theorem laneStep {p l} (h : s.MemoryCanonical) : Gives State.MemoryCanonical (laneStep p s l) := by
  unfold Machine.laneStep
  exact Gives.orElse (pick (execLoadDataReturn h))
      (Gives.orElse (pick (execStoreComplete h))
      (Gives.orElse (pick (execReleaseAtHome h))
      (Gives.orElse (pick (execAcquireAtHome h)) (Gives.orElse (pick (execFaultResponse h)) (pick (execPageWalk h))))))

theorem tileStep {p core c} (h : s.MemoryCanonical) : Gives State.MemoryCanonical (tileStep p s core c) := by
  unfold Machine.tileStep
  exact Gives.orElse (firstOf (fun _ => execTileOperationComplete h)) (Gives.orElse (pick (execMmaComplete h)) (pick (execMateAgreement h)))

theorem engineStep {p id o} (h : s.MemoryCanonical) : Gives State.MemoryCanonical (engineStep p s id o) := by
  unfold Machine.engineStep
  refine Gives.either Gives.none ?_
  extract_lets t
  have ht : Gives State.MemoryCanonical t := Gives.orElse (pick (execEngineWriteProgress h))
      (Gives.orElse (pick (execEngineOperationEnd h)) (pick (execNoRecvTimeout h)))
  clear_value t
  exact Gives.map ht (fun _ hx => updOp hx)

theorem recordStep {p o id} (h : s.MemoryCanonical) : Gives State.MemoryCanonical (recordStep p s o id) := by
  unfold Machine.recordStep
  exact Gives.orElse (pick (execMergeWindowClose h)) (Gives.orElse (pick (execFaultQueueRetry h)) (pick (execFaultServiceTimeout h)))

theorem grantStep (h : s.MemoryCanonical) : Gives State.MemoryCanonical (grantStep s) := by
  unfold Machine.grantStep
  split
  next t e =>
    have ht : t.MemoryCanonical := Gives.elim (P := DispatchGrantCanonical) e (nextGrant h)
    exact Gives.some ht
  next t e =>
    have ht : t.MemoryCanonical := Gives.elim (P := DispatchGrantCanonical) e (nextGrant h)
    exact Gives.some ht
  next t e =>
    have ht : t.MemoryCanonical := Gives.elim (P := DispatchGrantCanonical) e (nextGrant h)
    exact Gives.some ht
  · exact Gives.none

theorem teamStep {p id} (h : s.MemoryCanonical) : Gives State.MemoryCanonical (teamStep p s id) := by
  unfold Machine.teamStep
  exact Gives.orElse (pick (execTeamStart h))
      (Gives.orElse (pick (execTeamRetire h))
      (Gives.orElse (pick (execPairedSignature h))
      (Gives.orElse (Gives.filter (earlyBoundary h))
      (Gives.orElse (Gives.filter (twinWaits h)) (Gives.orElse (pick (execTeamSaveEnd h)) (pick (execForcedStop h)))))))

theorem meetStep {id t} (h : s.MemoryCanonical) : Gives State.MemoryCanonical (meetStep s id t) := by
  unfold Machine.meetStep
  refine Gives.either ?_ Gives.none
  extract_lets u
  have hu : u.MemoryCanonical := meet h
  clear_value u
  exact Gives.either Gives.none (Gives.some hu)

theorem coreStep {p} (h : s.MemoryCanonical) : Gives State.MemoryCanonical (coreStep p s) := by
  unfold Machine.coreStep
  refine Gives.orElse (firstOf (fun _ => execLoopBack h)) ?_
  refine Gives.orElse (firstOf (fun _ => OutCanonical.either OutCanonical.fault (execIssueLimitSwitch h))) ?_
  refine Gives.orElse (firstOf (fun _ => execGroupBoost h)) ?_
  refine Gives.orElse (Gives.findSome (fun _ => laneStep h)) ?_
  refine Gives.orElse ?_ ?_
  · refine Gives.findSome (fun _ => ?_)
    split
    exact tileStep h
  · refine Gives.findSome (fun _ => ?_)
    split
    exact engineStep h

theorem recordsStep {p} (h : s.MemoryCanonical) : Gives State.MemoryCanonical (recordsStep p s) := by
  unfold Machine.recordsStep
  refine Gives.orElse ?_ (pick (execFirmwareFaultService h))
  refine Gives.findSome (fun _ => ?_)
  split
  exact recordStep h

theorem waitsStep {p} (h : s.MemoryCanonical) : Gives State.MemoryCanonical (waitsStep p s) := by
  unfold Machine.waitsStep
  refine Gives.orElse (firstOf (fun _ => execCompletionTimePassed h)) ?_
  refine Gives.orElse (firstOf (fun _ => execCompletionTimePassed h)) ?_
  refine Gives.orElse (firstOf (fun _ => execCompletionTimePassed h)) ?_
  refine Gives.orElse ?_ ?_
  · refine Gives.findSome (fun _ => ?_)
    split
    exact Gives.filter (meetStep h)
  · refine Gives.orElse ?_ ?_
    · refine Gives.findSome (fun _ => ?_)
      split
      exact firstOf (fun _ => execGbarComplete h)
    · refine Gives.orElse (Gives.filter (waitOver h)) ?_
      refine Gives.findSome (fun _ => ?_)
      split
      exact teamStep h

theorem ioStep {p} (h : s.MemoryCanonical) : Gives State.MemoryCanonical (ioStep p s) := by
  unfold Machine.ioStep
  exact Gives.orElse (Gives.filter (dawnStep h))
      (Gives.orElse (Gives.filter (attestStep h))
      (Gives.orElse (firstOf (fun _ => execGridRetire h))
      (Gives.orElse (firstOf (fun _ => execGraphNodeFire h))
      (Gives.orElse (firstOf (fun _ => execCounterIrq h))
      (Gives.orElse (firstOf (fun _ => execErrorIrq h))
      (Gives.orElse (firstOf (fun _ => execWindowAck h))
      (Gives.orElse (Gives.filter (powerFall h)) (Gives.orElse (Gives.filter (grantStep h)) (firstOf (fun _ => execPreemptionRequest h))))))))))

theorem workStep {p} (h : s.MemoryCanonical) : Gives State.MemoryCanonical (workStep p s) := by
  unfold Machine.workStep
  exact Gives.orElse (coreStep h) (Gives.orElse (recordsStep h) (Gives.orElse (waitsStep h) (ioStep h)))

theorem issuesIn {k} (h : s.MemoryCanonical) : ∀ x ∈ Machine.issuesIn s k, OutCanonical x.2.2 := by
  intro x hx
  obtain ⟨core, -, hx⟩ := List.mem_flatMap.mp hx
  split at hx
  · obtain ⟨y, -, hy⟩ := List.mem_filterMap.mp hx
    obtain ⟨o, ho, rfl⟩ := Option.map_eq_some_iff.mp hy
    exact issueIn h o ho
  · exact absurd hx (by simp)

theorem issueNow (h : s.MemoryCanonical) : Gives IssuesCanonical (Machine.issueNow s) := by
  refine Gives.findSome fun k => ?_
  extract_lets l
  split
  next x e => exact Gives.some (issuesIn h x (List.mem_of_find?_eq_some e))
  · refine Gives.either Gives.none (Gives.some fun x hx => ?_)
    obtain ⟨⟨core, c, o⟩, ho, e⟩ := List.mem_filterMap.mp hx
    obtain ⟨u, hu, rfl⟩ := Option.map_eq_some_iff.mp e
    exact stateOf (issuesIn h _ ho) u hu

theorem ageStep (h : s.MemoryCanonical) : Gives State.MemoryCanonical (ageStep s) := by
  unfold Machine.ageStep
  extract_lets any
  refine Gives.orElse ?_ ?_
  · refine Gives.findSome (fun _ => ?_)
    split
    exact firstOf (fun _ => execDirtyByteDeadline h)
  · refine Gives.findSome (fun _ => ?_)
    split
    refine Gives.findSome (fun _ => ?_)
    split
    exact firstOf (fun _ => execHomeEpochAgePull h)

theorem clockStep (h : s.MemoryCanonical) : Gives State.MemoryCanonical (clockStep s) := by
  unfold Machine.clockStep
  exact Gives.orElse (ageStep h)
      (Gives.orElse (firstOf (fun _ => execClassChangeEnd h))
      (Gives.orElse (firstOf (fun _ => execEstimatorWindowEnd h))
      (Gives.orElse (firstOf (fun _ => execPairTimeout h))
      (Gives.orElse (stateOf (execDawnPtpWaitExpiry h))
      (Gives.orElse (stateOf (execPtpHoldover h)) (Gives.orElse (stateOf (execKeepalive h)) (firstOf (fun _ => execLinkLoss h))))))))

theorem watchdogStep (h : s.MemoryCanonical) : Gives State.MemoryCanonical (watchdogStep s) := by
  unfold Machine.watchdogStep
  refine Gives.findSome (fun _ => ?_)
  split
  exact stateOf (execBarrierTimeout h)

theorem windowTraps {before} (h : s.MemoryCanonical) : ∀ u ∈ Machine.windowTraps s before, u.MemoryCanonical := by
  intro u hu
  obtain ⟨⟨cl, c⟩, -, e⟩ := List.mem_filterMap.mp hu
  exact Gives.elim e (Gives.either Gives.none (pick (execEstimatorWindowEnd h)))

theorem trapStep {issues} (h : s.MemoryCanonical) (hi : ∀ p ∈ issues, p.2.2.MemoryCanonical) :
    Gives State.MemoryCanonical (Machine.trapStep s issues) := by
  refine firstTrap fun u hu => ?_
  rcases List.mem_append.mp hu with hu | hu
  · rcases List.mem_append.mp hu with hu | hu
    · rcases List.mem_append.mp hu with hu | hu
      · exact workStep h u (Option.mem_toList.mp hu)
      · obtain ⟨p, hp, rfl⟩ := List.mem_map.mp hu
        exact hi p hp
    · obtain ⟨c, -, e⟩ := List.mem_filterMap.mp hu
      exact pick (execPairTimeout h) u e
  · exact windowTraps h u hu

theorem ownTurn (h : s.MemoryCanonical) : OutCanonical s.ownTurn := by
  unfold State.ownTurn
  split
  next t e => exact OutCanonical.next (Gives.elim e (workStep h))
  · have hn := issueNow h
    generalize Machine.issueNow s = n at hn ⊢
    split
    · exact hn _ rfl
    next n _ =>
      extract_lets traps
      have ht : ∀ p ∈ traps, p.2.2.MemoryCanonical := by
        unfold traps
        split
        · exact hn _ rfl
        · simp
      split
      next t e => exact OutCanonical.next (Gives.elim e (Gives.orElse (watchdogStep h) (Gives.orElse (trapStep h ht) (clockStep h))))
      · exact OutCanonical.next (set h)

theorem takeMessage {passed l} (h : s.MemoryCanonical) : Gives (fun p => p.1.MemoryCanonical) (s.takeMessage passed l) := by
  fun_induction s.takeMessage passed l
  · exact Gives.none
  next ih => exact ih
  next c => exact Gives.some (OutCanonical.elim c (execMessage h))
  next ih => exact ih

theorem messagesTurn {l} (h : s.MemoryCanonical) : Gives State.MemoryCanonical (s.messagesTurn l) := by
  unfold State.messagesTurn
  refine Gives.either (Gives.some h) ?_
  refine Gives.map (takeMessage h) (fun _ hx => ?_)
  split
  exact either hx (set hx)

theorem takeTurn {t} (h : s.MemoryCanonical) : Gives OutCanonical (s.takeTurn t) := by
  unfold State.takeTurn
  split
  · exact issueTurn h
  · exact Gives.map (stateOf (exec h)) (fun _ hx => OutCanonical.next hx)
  · exact Gives.map (merge h) (fun _ hx => OutCanonical.next hx)
  · exact Gives.some (OutCanonical.next (meet h))
  · exact Gives.map (messagesTurn h) (fun _ hx => OutCanonical.next hx)
  · exact Gives.some (OutCanonical.next (linkUp h))

theorem failedTurn (h : s.MemoryCanonical) : OutCanonical s.failedTurn := by
  unfold State.failedTurn
  split
  · exact OutCanonical.next (set h)
  · extract_lets lost
    have hlost : lost.MemoryCanonical := set h
    clear_value lost
    split
    next t e' =>
      have ht : t.MemoryCanonical := OutCanonical.elim e' (exec hlost)
      exact OutCanonical.next (either hlost ht)
    · exact OutCanonical.next hlost
  · exact OutCanonical.next (set h)

theorem advance (h : s.MemoryCanonical) : OutCanonical s.advance := by
  unfold State.advance
  refine OutCanonical.either (failedTurn h) ?_
  split
  · exact ownTurn h
  · split
    next o e' =>
      have ho : OutCanonical o := Gives.elim (P := OutCanonical) e' (takeTurn (set h))
      exact ho
    · exact ownTurn h

/-! ## One step -/

theorem step (h : s.MemoryCanonical) : OutCanonical (step s) := by
  unfold Machine.step
  exact advance h

end Canonical

/-- Settles O59: whatever takes place next, a turn of the outside world or the model's own, keeps memory canonical. -/
theorem memoryStaysCanonical : Obligations.MemoryStaysCanonical := by
  unfold Obligations.MemoryStaysCanonical
  intro s t canonical stepped
  exact Canonical.step canonical t stepped

end Sys2Proof.Machine
end
